-- ==== Sys2Proof/Word.lean ====
section
/-! DEFINITION. The word types of the ET4: bytes, 16-, 32-, 64- and 128-bit registers, 57-bit virtual
addresses (R10, R85). Plain abbreviations of `BitVec`, nothing else. -/

namespace Sys2Proof

/-- One byte (R10). -/
abbrev Byte := BitVec 8

/-- A 16-bit field. -/
abbrev W16 := BitVec 16

/-- A 32-bit word: an instruction, an FP32 element, an INT32 element. -/
abbrev W32 := BitVec 32

/-- A 48-bit count (R499, R509). -/
abbrev W48 := BitVec 48

/-- A 64-bit general or memory-mapped register (R14, R85). -/
abbrev W64 := BitVec 64

/-- A 128-bit short-vector register, hull or accumulator element (R85, R111, R224). -/
abbrev W128 := BitVec 128

/-- A 57-bit virtual address (R85, R139). -/
abbrev VAddr := BitVec 57

/-- A domain number; 0 names no domain (R115). -/
abbrev DomNo := Nat

end Sys2Proof
end

