-- ==== Sys2Proof/Syntax.lean ====
section
/-! DEFINITION. The commands of the block: one constructor of `Instr` for each row of the table of
operations and events (spec/opcode_table.json), with the operands the spec's encodings and descriptions give
that row. Register fields and immediates are bit vectors, as encoded. -/

namespace Sys2Proof

/-- A strand: core 0-255 and strand 0-7 (R16, R17). -/
structure Site where
  core   : Fin 256
  strand : Fin 8
  deriving DecidableEq, Repr

/-- A 5-bit register field as encoded (R107). For a hull field 16-31 is reserved (R96). -/
abbrev RegField := BitVec 5

/-- A domain number operand. -/
abbrev DomId := BitVec 12

/-- What an array's check code finds during an access: nothing, an L1 parity error, a corrected error, an
uncorrectable error (R190, R301, R334, R348); from a stack, a corrected or an uncorrectable read, or a report of its own ECC (R350). -/
inductive MemErr where
  | none | parity | corrected | uncorrectable | stackCorrected | stackUncorrectable | stackReport
  deriving DecidableEq, Repr

/-- What the check codes of the reads that one command makes find: the reads that find something, by their number: for reads of
memory the physical address div 16, for granule g of chain buffer b of the core at work 2^60 + 1024 b + g. -/
abbrev ErrMap := List (Nat × MemErr)

/-- What the check code of read `i` finds. -/
def errAt (m : ErrMap) (i : Nat) : MemErr :=
  match m.find? fun x => x.1 == i with
  | some x => x.2
  | none => .none

/-- A copy engine (R308): channel of a core, or engine of a die. -/
inductive Engine where
  | chan (core : Fin 256) (ch : Fin 4)
  | die (d : Fin 4) (e : Fin 16)
  deriving DecidableEq, Repr

/-- What a copy row meets outside the module (R314): nothing, the data a host read returns, a PCIe error. -/
inductive RowEnv where
  | ok
  | hostData (bytes : List Byte)
  | pcieError
  deriving DecidableEq, Repr

/-- The kinds of request a home slice accepts (R330, R339). -/
inductive LlcKind where
  | read
  | write (bytes : List Byte)
  deriving DecidableEq, Repr

/-- A request at a home slice (R330): physical address, kind, hint (R340), whether the hull had PIN (R341), the
page's retention is chaff (R342), and what the check code finds (R348). -/
structure LlcReq where
  addr  : Nat
  kind  : LlcKind
  hint  : BitVec 2
  pin   : Bool
  chaff : Bool
  err   : MemErr
  deriving DecidableEq, Repr

/-- R312: the reduction operations. -/
inductive RedOp where
  | addF32 | addI32 | addWx | maxF32 | minF32 | maxI32 | minI32
  deriving DecidableEq, Repr

/-- A bank of a stack (R351): stack, pseudo-channel, bank. -/
structure BankId where
  stack : Fin 16
  pc    : Fin 64
  bank  : Fin 64
  deriving DecidableEq, Repr

/-- R416: the parties that hold a waiter entry. -/
inductive WaitParty where
  | strand (core strand : Nat)
  | stream (core : Nat)
  | update (queue : Nat)
  | ringRecv (chan : Nat)
  | ringCredit (chan : Nat)
  deriving DecidableEq, Repr

/-- R464: what a port finds at power-up: the step that fails (1-5), if any; the lanes that lock in each direction; the far module's
HELLO: id, port, serial. -/
structure PortEnv where
  failStep : Option (Fin 6)
  txLocked : BitVec 16
  rxLocked : BitVec 16
  farMod   : BitVec 12
  farPort  : BitVec 6
  serial   : BitVec 64
  deriving DecidableEq, Repr

/-- R493: a unit that flips in a configuration epoch: a slice, a core's loss link, a bandwidth monitor (16 per die, die M's is 64). -/
inductive EpochUnit where
  | slice (n : Fin 128)
  | clink (core : Fin 256)
  | mon (n : Fin 65)
  deriving DecidableEq, Repr

/-- R546, R560: a firmware image: whether its header is well formed, its VERSION and ROLLIDX, whether its signature verifies under
the key of the germ, its bytes. -/
structure FwImage where
  formed  : Bool
  version : BitVec 32
  rollIdx : BitVec 16
  signed  : Bool
  bytes   : List Byte
  deriving DecidableEq, Repr

/-- What Luami samples at a tick (R484): module power averaged over the tick and its peak in W, V_IN in 0.1 V; the reading of every
temperature sensor (TEMP, in range) but those listed; the rails that do not read their target or nominal voltage (index, units of
2 mV); whether writes of the recorder's object work. -/
structure TickEnv where
  power  : Nat
  peak   : Nat
  vin    : Nat
  base   : BitVec 12
  temps  : List (Fin 324 × BitVec 12 × Bool)
  volts  : List (Fin 80 × BitVec 16)
  works  : Bool
  deriving DecidableEq, Repr

/-- R41: what a delay monitor sees in one window: the rate in M waves/s, the rail's voltage code, whether it slewed, whether the
window was complete, whether the rail was powered and unparked throughout. -/
structure DMonEnv where
  rate    : BitVec 16
  vdd     : BitVec 8
  slewing : Bool
  whole   : Bool
  powered : Bool
  deriving DecidableEq, Repr

/-- R43: the PLL-fed islands. -/
inductive Island where
  | pcie | hbmPhy (x : Fin 16) | serdes (k : Fin 36) | onfi | timeBase (die : Fin 5)
  deriving DecidableEq, Repr

/-- R482: a host access through BAR2. -/
inductive HostAcc where
  | read (off n : Nat)
  | write (off : Nat) (bytes : List Byte)
  deriving DecidableEq, Repr

/-- R527: what a granary transfer meets on a page: nothing, the data a host read returns, a PCIe error, an uncorrectable flash read. -/
inductive GrnEnv where
  | ok
  | hostData (bytes : List Byte)
  | pcieError
  | flash (chan : Fin 32) (unit : Nat)
  deriving DecidableEq, Repr

/-- R535-R537: why a block is rewritten (its correction exceeds the threshold, or age or read disturb, or a program or erase of it failed and
it is retired), the average cycle count and the spare blocks per mille that then stand. -/
structure RefreshEnv where
  corrected : Bool
  retired   : Bool
  avgpe     : BitVec 12
  spare     : BitVec 10
  deriving DecidableEq, Repr

/-- R547: what a boot meets: its time in ms, whether the hold-up store passes its test (R533), whether a trip sensor reads within 10 degC
of its level (R489), the step at which Luami stalls, if it does (R561, R562). -/
structure BootEnv where
  ms      : Nat
  holdup  : Bool
  hot     : Bool
  stall   : Option (Fin 11)
  deriving DecidableEq, Repr

/-- R494: the paths a side-band message arrives on. -/
inductive SidePath where
  | doe | i3c | vdm
  deriving DecidableEq, Repr

/-- R494: the sensors of PLDM for Platform Monitoring and Control. -/
inductive PldmSensor where
  | power | vin | podTj (die : Fin 4) | hbm | inlet | outlet | flow | causes | lifeCycle
  deriving DecidableEq, Repr

/-- R494, R560: a step of PLDM for Firmware Update: staging an image of a component, or activating the staged one. -/
inductive PldmStep where
  | stage (comp : Fin 2) (img : FwImage)
  | activate (comp : Fin 2)
  deriving DecidableEq, Repr

/-- R494, R554, R555: what an endpoint answers to a side-band request. -/
inductive Reply where
  | version (minor : Nat)
  | capabilities
  | algorithms
  | digests (b : List Byte)
  | certificate (b : List Byte)
  | challenge (sig : List Byte)
  | measurement (b : List (Nat × List Byte)) (sig : List Byte)
  | sensor (v : Option Int)
  | firmware (ok : Bool)
  | control (eid : BitVec 8)
  | error
  deriving DecidableEq, Repr

/-- Who writes a register: Luami at a physical address, a function at an offset of its BAR0, a strand of a core under a unit
access or device right hull at a physical address (R14, R23, R120). -/
inductive RegPath where
  | luami (addr : Nat)
  | host (f : Fin 64) (off : BitVec 26)
  | strand (w : Site) (h : RegField) (addr : Nat)
  deriving DecidableEq, Repr

/-- The commands, in the table's order. -/
inductive Instr where
  /-- ADD (R108). Integer register-register add of g_a and g_b into g_d. -/
  | add (w : Site) (d a b : RegField)
  /-- SUB (R108). Integer subtract of g_b from g_a into g_d. -/
  | sub (w : Site) (d a b : RegField)
  /-- AND (R108). Bitwise AND of g_a and g_b into g_d. -/
  | and (w : Site) (d a b : RegField)
  /-- OR (R108). Bitwise OR of g_a and g_b into g_d. -/
  | or (w : Site) (d a b : RegField)
  /-- XOR (R108). Bitwise XOR of g_a and g_b into g_d. -/
  | xor (w : Site) (d a b : RegField)
  /-- ANDN (R108). g_d takes g_a AND NOT g_b. -/
  | andn (w : Site) (d a b : RegField)
  /-- SLL (R108). Logical left shift of g_a by g_b[5:0]. -/
  | sll (w : Site) (d a b : RegField)
  /-- SRL (R108). Logical right shift of g_a by g_b[5:0]. -/
  | srl (w : Site) (d a b : RegField)
  /-- SRA (R108). Arithmetic right shift of g_a by g_b[5:0]. -/
  | sra (w : Site) (d a b : RegField)
  /-- ROTR (R108). Rotate g_a right by g_b[5:0]. -/
  | rotr (w : Site) (d a b : RegField)
  /-- SLT (R108). g_d takes 1 if g_a is less than g_b signed, else 0. -/
  | slt (w : Site) (d a b : RegField)
  /-- SLTU (R108). g_d takes 1 if g_a is less than g_b unsigned, else 0. -/
  | sltu (w : Site) (d a b : RegField)
  /-- MIN (R108). Signed minimum of g_a and g_b. -/
  | min (w : Site) (d a b : RegField)
  /-- MINU (R108). Unsigned minimum of g_a and g_b. -/
  | minu (w : Site) (d a b : RegField)
  /-- MAX (R108). Signed maximum of g_a and g_b. -/
  | max (w : Site) (d a b : RegField)
  /-- MAXU (R108). Unsigned maximum of g_a and g_b. -/
  | maxu (w : Site) (d a b : RegField)
  /-- MUL (R92). Low 64 bits of the product of g_a and g_b. -/
  | mul (w : Site) (d a b : RegField)
  /-- MULH (R92). High 64 bits of the signed product. -/
  | mulh (w : Site) (d a b : RegField)
  /-- MULHU (R92). High 64 bits of the unsigned product. -/
  | mulhu (w : Site) (d a b : RegField)
  /-- MULHSU (R92). High 64 bits of the signed-by-unsigned product. -/
  | mulhsu (w : Site) (d a b : RegField)
  /-- DIV (R109). Signed division rounding toward zero, never faulting, on the core's single divider. -/
  | div (w : Site) (d a b : RegField)
  /-- DIVU (R109). Unsigned division with the defined result on division by zero. -/
  | divu (w : Site) (d a b : RegField)
  /-- REM (R109). Signed remainder with the sign of the dividend. -/
  | rem (w : Site) (d a b : RegField)
  /-- REMU (R109). Unsigned remainder. -/
  | remu (w : Site) (d a b : RegField)
  /-- CLZ (R108). Count of leading zero bits of g_a, 64 for zero. -/
  | clz (w : Site) (d a : RegField)
  /-- CTZ (R108). Count of trailing zero bits of g_a, 64 for zero. -/
  | ctz (w : Site) (d a : RegField)
  /-- POPC (R108). Count of one bits of g_a. -/
  | popc (w : Site) (d a : RegField)
  /-- SEXTB (R108). Sign-extend the low byte of g_a. -/
  | sextb (w : Site) (d a : RegField)
  /-- SEXTH (R108). Sign-extend the low halfword of g_a. -/
  | sexth (w : Site) (d a : RegField)
  /-- SEXTW (R108). Sign-extend the low word of g_a. -/
  | sextw (w : Site) (d a : RegField)
  /-- ZEXTW (R108). Zero-extend the low word of g_a. -/
  | zextw (w : Site) (d a : RegField)
  /-- CMOV (R108). g_d takes g_a when g_b is non-zero. -/
  | cmov (w : Site) (d a b : RegField)
  /-- ADDI (R108). g_d takes g_a plus the sign-extended immediate. -/
  | addi (w : Site) (d a : RegField) (imm : BitVec 15)
  /-- ANDI (R108). g_d takes g_a AND the immediate. -/
  | andi (w : Site) (d a : RegField) (imm : BitVec 15)
  /-- ORI (R108). g_d takes g_a OR the immediate. -/
  | ori (w : Site) (d a : RegField) (imm : BitVec 15)
  /-- XORI (R108). g_d takes g_a XOR the immediate. -/
  | xori (w : Site) (d a : RegField) (imm : BitVec 15)
  /-- SLTI (R108). Signed compare of g_a with the immediate. -/
  | slti (w : Site) (d a : RegField) (imm : BitVec 15)
  /-- SLTIU (R108). Unsigned compare of g_a with the immediate. -/
  | sltiu (w : Site) (d a : RegField) (imm : BitVec 15)
  /-- SLLI (R108). Left shift of g_a by imm[5:0]. -/
  | slli (w : Site) (d a : RegField) (imm : BitVec 15)
  /-- SRLI (R108). Logical right shift of g_a by imm[5:0]. -/
  | srli (w : Site) (d a : RegField) (imm : BitVec 15)
  /-- SRAI (R108). Arithmetic right shift of g_a by imm[5:0]. -/
  | srai (w : Site) (d a : RegField) (imm : BitVec 15)
  /-- LUI (R108). g_d takes the sign-extended imm20 shifted left by 12. -/
  | lui (w : Site) (d : RegField) (imm : BitVec 20)
  /-- AUIPC (R108). g_d takes PC plus the sign-extended imm20 shifted left by 12. -/
  | auipc (w : Site) (d : RegField) (imm : BitVec 20)
  /-- LDB (R96). Checked, translated sign-extending byte load under the one-miss rule. -/
  | ldb (w : Site) (t a h : RegField) (off : BitVec 10) (e : MemErr)
  /-- LDBU (R96). Zero-extending byte load. -/
  | ldbu (w : Site) (t a h : RegField) (off : BitVec 10) (e : MemErr)
  /-- LDH (R96). Sign-extending halfword load. -/
  | ldh (w : Site) (t a h : RegField) (off : BitVec 10) (e : MemErr)
  /-- LDHU (R96). Zero-extending halfword load. -/
  | ldhu (w : Site) (t a h : RegField) (off : BitVec 10) (e : MemErr)
  /-- LDW (R96). Sign-extending word load. -/
  | ldw (w : Site) (t a h : RegField) (off : BitVec 10) (e : MemErr)
  /-- LDWU (R96). Zero-extending word load. -/
  | ldwu (w : Site) (t a h : RegField) (off : BitVec 10) (e : MemErr)
  /-- LDD (R96). Double-word load, the only load allowed to a register window. -/
  | ldd (w : Site) (t a h : RegField) (off : BitVec 10) (e : MemErr)
  /-- STB (R98). Byte store entering the write-through buffer. -/
  | stb (w : Site) (t a h : RegField) (off : BitVec 10)
  /-- STH (R98). Halfword store entering the write-through buffer. -/
  | sth (w : Site) (t a h : RegField) (off : BitVec 10)
  /-- STW (R98). Word store entering the write-through buffer. -/
  | stw (w : Site) (t a h : RegField) (off : BitVec 10)
  /-- STD (R98). Double-word store, the only store allowed to a register window. -/
  | std (w : Site) (t a h : RegField) (off : BitVec 10)
  /-- LDV (R96). 16-byte aligned load into a v register. -/
  | ldv (w : Site) (t a h : RegField) (off : BitVec 10) (e : MemErr)
  /-- STV (R98). 16-byte aligned store of a v register. -/
  | stv (w : Site) (t a h : RegField) (off : BitVec 10)
  /-- AMO_ADD (R98). Atomic add at the address's home, returning the old value. -/
  | amoAdd (w : Site) (d a b : RegField) (h : BitVec 4) (size : BitVec 2)
  /-- AMO_SWAP (R98). Atomic swap at the home. -/
  | amoSwap (w : Site) (d a b : RegField) (h : BitVec 4) (size : BitVec 2)
  /-- AMO_AND (R98). Atomic AND at the home. -/
  | amoAnd (w : Site) (d a b : RegField) (h : BitVec 4) (size : BitVec 2)
  /-- AMO_OR (R98). Atomic OR at the home. -/
  | amoOr (w : Site) (d a b : RegField) (h : BitVec 4) (size : BitVec 2)
  /-- AMO_XOR (R98). Atomic XOR at the home. -/
  | amoXor (w : Site) (d a b : RegField) (h : BitVec 4) (size : BitVec 2)
  /-- AMO_MAX (R98). Atomic signed maximum at the home. -/
  | amoMax (w : Site) (d a b : RegField) (h : BitVec 4) (size : BitVec 2)
  /-- AMO_MIN (R98). Atomic signed minimum at the home. -/
  | amoMin (w : Site) (d a b : RegField) (h : BitVec 4) (size : BitVec 2)
  /-- AMO_MAXU (R98). Atomic unsigned maximum at the home. -/
  | amoMaxu (w : Site) (d a b : RegField) (h : BitVec 4) (size : BitVec 2)
  /-- AMO_MINU (R98). Atomic unsigned minimum at the home. -/
  | amoMinu (w : Site) (d a b : RegField) (h : BitVec 4) (size : BitVec 2)
  /-- AMO_CAS (R98). Atomic compare-and-swap with g_d as compare and g_b as new value. -/
  | amoCas (w : Site) (d a b : RegField) (h : BitVec 4) (size : BitVec 2)
  /-- BEQ (R95). Branch if g_a equals g_b, resolved at issue. -/
  | beq (w : Site) (a b : RegField) (off : BitVec 15)
  /-- BNE (R95). Branch if g_a differs from g_b. -/
  | bne (w : Site) (a b : RegField) (off : BitVec 15)
  /-- BLT (R95). Branch if g_a is less than g_b signed. -/
  | blt (w : Site) (a b : RegField) (off : BitVec 15)
  /-- BGE (R95). Branch if g_a is at least g_b signed. -/
  | bge (w : Site) (a b : RegField) (off : BitVec 15)
  /-- BLTU (R95). Branch if g_a is less than g_b unsigned. -/
  | bltu (w : Site) (a b : RegField) (off : BitVec 15)
  /-- BGEU (R95). Branch if g_a is at least g_b unsigned. -/
  | bgeu (w : Site) (a b : RegField) (off : BitVec 15)
  /-- JAL (R95). Jump relative, writing the return address to g_d. -/
  | jal (w : Site) (d : RegField) (off : BitVec 20)
  /-- JALR (R95). Jump to g_a plus immediate, writing the return address. -/
  | jalr (w : Site) (d a : RegField) (imm : BitVec 15)
  /-- LOOP (R99). Arms a hardware loop or skips the body when the count is zero. -/
  | loop (w : Site) (a : RegField) (len : BitVec 15)
  /-- LBRK (R100). Clears LC and jumps to its target. -/
  | lbrk (w : Site) (d : RegField) (off : BitVec 20)
  /-- RDSR (R87). Reads a strand register into g_d. -/
  | rdsr (w : Site) (d a : RegField) (imm : BitVec 15)
  /-- WRSR (R87). Writes a strand register from g_a, re-arming a loop when it writes LC. -/
  | wrsr (w : Site) (d a : RegField) (imm : BitVec 15)
  /-- NOP (R108). Does nothing. -/
  | nop (w : Site)
  /-- HALT (R89). Halts the strand after older instructions complete; the last halt makes the core idle. -/
  | halt (w : Site) (d a b : RegField)
  /-- STRST (R88). Starts another strand of the core with copied hulls and zeroed registers. -/
  | strst (w : Site) (a b : RegField)
  /-- RDTIME (R47). Reads the die's TIME replica into g_d. -/
  | rdtime (w : Site) (d : RegField)
  /-- VINT_ADD (R108). Lane-wise integer add. -/
  | vintAdd (w : Site) (lw : BitVec 2) (vd va vb : RegField)
  /-- VINT_SUB (R108). Lane-wise integer subtract. -/
  | vintSub (w : Site) (lw : BitVec 2) (vd va vb : RegField)
  /-- VINT_ADDS (R101). Lane-wise signed saturating add. -/
  | vintAdds (w : Site) (lw : BitVec 2) (vd va vb : RegField)
  /-- VINT_ADDUS (R101). Lane-wise unsigned saturating add. -/
  | vintAddus (w : Site) (lw : BitVec 2) (vd va vb : RegField)
  /-- VINT_SUBS (R101). Lane-wise signed saturating subtract. -/
  | vintSubs (w : Site) (lw : BitVec 2) (vd va vb : RegField)
  /-- VINT_SUBUS (R101). Lane-wise unsigned saturating subtract. -/
  | vintSubus (w : Site) (lw : BitVec 2) (vd va vb : RegField)
  /-- VINT_MUL (R108). Lane-wise low multiply. -/
  | vintMul (w : Site) (lw : BitVec 2) (vd va vb : RegField)
  /-- VINT_MULH (R108). Lane-wise signed high multiply. -/
  | vintMulh (w : Site) (lw : BitVec 2) (vd va vb : RegField)
  /-- VINT_MULHU (R108). Lane-wise unsigned high multiply. -/
  | vintMulhu (w : Site) (lw : BitVec 2) (vd va vb : RegField)
  /-- VINT_MIN (R108). Lane-wise signed minimum. -/
  | vintMin (w : Site) (lw : BitVec 2) (vd va vb : RegField)
  /-- VINT_MINU (R108). Lane-wise unsigned minimum. -/
  | vintMinu (w : Site) (lw : BitVec 2) (vd va vb : RegField)
  /-- VINT_MAX (R108). Lane-wise signed maximum. -/
  | vintMax (w : Site) (lw : BitVec 2) (vd va vb : RegField)
  /-- VINT_MAXU (R108). Lane-wise unsigned maximum. -/
  | vintMaxu (w : Site) (lw : BitVec 2) (vd va vb : RegField)
  /-- VINT_AND (R108). Bitwise AND of vector registers. -/
  | vintAnd (w : Site) (lw : BitVec 2) (vd va vb : RegField)
  /-- VINT_OR (R108). Bitwise OR of vector registers. -/
  | vintOr (w : Site) (lw : BitVec 2) (vd va vb : RegField)
  /-- VINT_XOR (R108). Bitwise XOR of vector registers. -/
  | vintXor (w : Site) (lw : BitVec 2) (vd va vb : RegField)
  /-- VINT_ANDN (R108). vd takes va AND NOT vb. -/
  | vintAndn (w : Site) (lw : BitVec 2) (vd va vb : RegField)
  /-- BSEL (R108). Bitwise select using vd as mask. -/
  | bsel (w : Site) (lw : BitVec 2) (vd va vb : RegField)
  /-- VINT_SLL (R108). Lane-wise left shift by vb lanes. -/
  | vintSll (w : Site) (lw : BitVec 2) (vd va vb : RegField)
  /-- VINT_SRL (R108). Lane-wise logical right shift. -/
  | vintSrl (w : Site) (lw : BitVec 2) (vd va vb : RegField)
  /-- VINT_SRA (R108). Lane-wise arithmetic right shift. -/
  | vintSra (w : Site) (lw : BitVec 2) (vd va vb : RegField)
  /-- CMPEQ (R108). Lane-wise equality compare writing all-ones masks. -/
  | cmpeq (w : Site) (lw : BitVec 2) (vd va vb : RegField)
  /-- CMPLT (R108). Lane-wise signed less-than compare. -/
  | cmplt (w : Site) (lw : BitVec 2) (vd va vb : RegField)
  /-- CMPLTU (R108). Lane-wise unsigned less-than compare. -/
  | cmpltu (w : Site) (lw : BitVec 2) (vd va vb : RegField)
  /-- VINT_ABS (R108). Lane-wise absolute value. -/
  | vintAbs (w : Site) (lw : BitVec 2) (vd va vb : RegField)
  /-- VINT_NEG (R108). Lane-wise negation. -/
  | vintNeg (w : Site) (lw : BitVec 2) (vd va vb : RegField)
  /-- FADD (R101). Lane-wise floating add with RNE. -/
  | fadd (w : Site) (lf : BitVec 2) (vd va vb : RegField)
  /-- FSUB (R101). Lane-wise floating subtract. -/
  | fsub (w : Site) (lf : BitVec 2) (vd va vb : RegField)
  /-- FMUL (R101). Lane-wise floating multiply. -/
  | fmul (w : Site) (lf : BitVec 2) (vd va vb : RegField)
  /-- FMA (R101). Lane-wise fused multiply-add into vd, rounded once. -/
  | fma (w : Site) (lf : BitVec 2) (vd va vb : RegField)
  /-- FMIN (R101). Lane-wise floating minimum with NaN and signed-zero rules. -/
  | fmin (w : Site) (lf : BitVec 2) (vd va vb : RegField)
  /-- FMAX (R101). Lane-wise floating maximum. -/
  | fmax (w : Site) (lf : BitVec 2) (vd va vb : RegField)
  /-- FABS (R101). Lane-wise floating absolute value. -/
  | fabs (w : Site) (lf : BitVec 2) (vd va vb : RegField)
  /-- FNEG (R101). Lane-wise floating negation. -/
  | fneg (w : Site) (lf : BitVec 2) (vd va vb : RegField)
  /-- FCMPEQ (R108). Lane-wise floating equality compare. -/
  | fcmpeq (w : Site) (lf : BitVec 2) (vd va vb : RegField)
  /-- FCMPLT (R108). Lane-wise floating less-than compare. -/
  | fcmplt (w : Site) (lf : BitVec 2) (vd va vb : RegField)
  /-- FCMPLE (R108). Lane-wise floating less-or-equal compare. -/
  | fcmple (w : Site) (lf : BitVec 2) (vd va vb : RegField)
  /-- FDIV (R101). FP32 lane division on the non-pipelined unit. -/
  | fdiv (w : Site) (lf : BitVec 2) (vd va vb : RegField)
  /-- FSQRT (R101). FP32 lane square root on the non-pipelined unit. -/
  | fsqrt (w : Site) (lf : BitVec 2) (vd va vb : RegField)
  /-- VMULW (R102). Widening lane multiply of low or high halves. -/
  | vmulw (w : Site) (lw : BitVec 2) (high : Bool) (sg : BitVec 2) (vd va vb : RegField)
  /-- VDOT (R103). Integer or BF16/FP16 dot-product accumulation into vd. -/
  | vdot (w : Site) (form : BitVec 3) (vd va vb : RegField)
  /-- VGATHER (R106). Element-by-element gather into vd, resumable through GPROG; `e`: what the reads of its elements find. -/
  | vgather (w : Site) (vd ga vb : RegField) (h : BitVec 4) (size : BitVec 2) (count : BitVec 4) (e : ErrMap)
  /-- VSPLAT (R108). Fills every lane of vd from g_a. -/
  | vsplat (w : Site) (lw : BitVec 2) (idx : BitVec 4) (vd ga : RegField)
  /-- VINS (R108). Inserts g_a into one lane of vd. -/
  | vins (w : Site) (lw : BitVec 2) (idx : BitVec 4) (vd ga : RegField)
  /-- VEXT (R108). Extracts one lane of va into g_d. -/
  | vext (w : Site) (lw : BitVec 2) (idx : BitVec 4) (gd va : RegField)
  /-- VPERM (R108). Byte permutation of va by vb. -/
  | vperm (w : Site) (idx : BitVec 4) (vd va vb : RegField)
  /-- VCVT (R104). Converts the low elements of va between formats. -/
  | vcvt (w : Site) (src dst : BitVec 4) (nonsat : Bool) (vd va : RegField)
  /-- MISS_DATA_DELIVER (R97). An outstanding L1D miss delivers its data, releasing parked strands and any second miss. -/
  | missDataDeliver (w : Site) (e : ErrMap)
  /-- L1I_FILL (R333). An L1I line arrives and the parked strand becomes ready; with `parity` it is the refetch that a parity error on a
  present line calls for (R334). -/
  | l1iFill (w : Site) (parity : Bool) (e : ErrMap)
  /-- TABLE_WALK_DONE (R143). A four-level table walk completes or faults and the parked access proceeds. -/
  | tableWalkDone (w : Site) (e : ErrMap)
  /-- STORE_PERFORMED (R98). A buffered store is performed at its home and frees its buffer entry. -/
  | storePerformed (core : Fin 256) (n : Fin 16) (e : ErrMap)
  /-- FAULT_ENTRY (R151). A precise synchronous fault enters S1 or S2, copying banks and writing the fault record. -/
  | faultEntry (w : Site) (code : BitVec 8) (addr info : BitVec 64)
  /-- INTERRUPT_ENTRY (R162). A strand takes its highest-level deliverable pending vector at an instruction boundary. -/
  | interruptEntry (w : Site)
  /-- FRET (R154). Leaves the running shadow bank, optionally committing registers to the lower bank. -/
  | fret (w : Site) (commit : Bool)
  /-- TIMER_INTERRUPT (R160). TIME reaches FLT_TCMP, making vector 32 pending and resetting COMPARE. -/
  | timerInterrupt (core : Fin 256)
  /-- SOFT_INTERRUPT_SET (R160). A write of FLT_ISET sets pending vectors 48–63. -/
  | softInterruptSet (core : Fin 256) (soft : BitVec 16)
  /-- HDERIVE (R124). Makes a narrower canonical copy of a hull. -/
  | hderive (w : Site) (hd ha gb gc gr : RegField)
  /-- HSEAL (R125). Turns a 64-byte memory hull into an entry hull. -/
  | hseal (w : Site) (hd ha : RegField)
  /-- HCALL (R129). Cross-domain call through an entry hull into a call frame. -/
  | hcall (w : Site) (ha : RegField)
  /-- HRET (R130). Returns from a cross-domain call, restoring the caller. -/
  | hret (w : Site)
  /-- HLD (R126). Loads a hull from a hull page. -/
  | hld (w : Site) (hd ga hb : RegField) (off : BitVec 7)
  /-- HST (R126). Stores a hull into a hull page, checking PASS on crossing. -/
  | hst (w : Site) (hd ga hb : RegField) (off : BitVec 7)
  /-- HCHK (R127). Queries a hull's fields without faulting. -/
  | hchk (w : Site) (gd ha gb : RegField) (query : BitVec 2)
  /-- HMOV (R123). Copies one hull register to another. -/
  | hmov (w : Site) (hd ha : RegField)
  /-- HCLR (R123). Clears a hull register to null. -/
  | hclr (w : Site) (hd : RegField)
  /-- TCFG (R171). Loads and checks a tile configuration block for the group. -/
  | tcfg (w : Site) (d ga b : RegField) (h : BitVec 4) (z : BitVec 6) (e : ErrMap)
  /-- TCFG_APPLY (R172). After its block arrives and the group is idle, TCFG applies all words and zeroes changed tiles. -/
  | tcfgApply (core : Fin 256) (group : Fin 2)
  /-- TLD (R182). Row-by-row checked load of a tile or its table store. -/
  | tld (w : Site) (tile ga gb : RegField) (h : BitVec 4) (hint : BitVec 2) (tbl noalloc : Bool) (z : BitVec 2) (e : ErrMap)
  /-- TST (R182). Row-by-row checked store of a tile or its table store. -/
  | tst (w : Site) (tile ga gb : RegField) (h : BitVec 4) (hint : BitVec 2) (tbl noalloc : Bool) (z : BitVec 2) (e : ErrMap)
  /-- TILE_TRANSFER_DONE (R182). The last row of a tile transfer completes, ending any hold and releasing the strand. -/
  | tileTransferDone (core : Fin 256) (group : Fin 2) (e : ErrMap)
  /-- TZERO (R189). Zeroes a tile and optionally its table store. -/
  | tzero (w : Site) (td a b : RegField) (t sg : Bool) (z : BitVec 5)
  /-- TMOV (R189). Copies a tile from the same or the other group. -/
  | tmov (w : Site) (td ts b : RegField) (t sg : Bool) (z : BitVec 5) (e : ErrMap)
  /-- MWLD (R206). Checks and queues a weight reload into selected arrays. -/
  | mwld (w : Site) (d a b : RegField) (tw xmask : BitVec 4) (same z : Bool)
  /-- MWLD_VALIDATE (R207). Validation of metadata, scales and tables completes, queuing the MWLD and releasing the strand. -/
  | mwldValidate (w : Site) (e : ErrMap)
  /-- WEIGHT_SHIFT (R208). At wave W the shadow chain shifts weight rows into the array. -/
  | weightShift (core : Fin 256) (array : Fin 4) (e : ErrMap)
  /-- WEIGHT_ACTIVATE (R208). A PE makes its shadow weight active after the last-pass marker passes. -/
  | weightActivate (core : Fin 256) (array : Fin 4)
  /-- MMA (R215). Checks and queues a broadcast-feed pass into selected arrays. -/
  | mma (w : Site) (ga gb b : RegField) (ta : BitVec 4) (q : BitVec 3) (nomask zero z : Bool)
  /-- MMAQ (R217). Checks and queues a quad-feed pass, one stream per array. -/
  | mmaq (w : Site) (ga vb h : RegField) (ta : BitVec 4) (q : BitVec 3) (nomask zero z : Bool)
  /-- PASS_START (R203). A queued pass reaches the array edge and begins feeding slots. -/
  | passStart (core : Fin 256) (array : Fin 4) (e : ErrMap)
  /-- ACC_RESULT_ADD (R229). A column result leaves the array and is added into its accumulator element when ordering allows. -/
  | accResultAdd (core : Fin 256) (array : Fin 4) (row col : Fin 64) (perr : List (Fin 64)) (e : MemErr)
  /-- MANCH (R227). Puts slots in anchored mode with an anchor and queues their clear. -/
  | manch (w : Site) (d ga gb : RegField) (z : BitVec 7)
  /-- MORD (R227). Puts slots in ordered FP32 or FP64 mode and queues their clear. -/
  | mord (w : Site) (d ga b : RegField) (p : Bool) (z : BitVec 6)
  /-- SLOT_CLEAR (R227). The clear engine zeroes a slot once ordering allows. -/
  | slotClear (core : Fin 256) (slot : Fin 32)
  /-- MDRAIN (R233). Checks a drain and queues it with a sequence number. -/
  | mdrain (w : Site) (gd ga gb : RegField) (slot : BitVec 5) (dst z : Bool)
  /-- DRAIN_START (R243). A drain unit item starts, reading its parameter block and slot rows as released. -/
  | drainStart (core : Fin 256) (e : ErrMap)
  /-- DRAIN_ROW (R234). One slot row passes the epilogue and is written to its destination. -/
  | drainRow (core : Fin 256) (e : ErrMap)
  /-- DRAIN_COMPLETE (R245). A drain item writes its tile-done record and advances DDONE. -/
  | drainComplete (core : Fin 256)
  /-- MSAVE (R247). Checks and queues a raw save of a slot to scratchpad. -/
  | msave (w : Site) (gd ga h : RegField) (slot : BitVec 5) (z : BitVec 2)
  /-- MRESTORE (R247). Checks and queues a raw restore of a slot from scratchpad. -/
  | mrestore (w : Site) (gd ga h : RegField) (slot : BitVec 5) (z : BitVec 2)
  /-- SAVE_RESTORE_RUN (R248). The drain unit moves a slot image at 128 bytes per wave. -/
  | saveRestoreRun (core : Fin 256) (e m : ErrMap)
  /-- ACT_TABLE_STORE (R239). A store to an activation table is held until drains using it complete. -/
  | actTableStore (core : Fin 256) (off : BitVec 12) (value : BitVec 64)
  /-- DRAIN_SEED_WRITE (R251). A write of ACC_DRAIN_SEED applies to later MDRAINs. -/
  | drainSeedWrite (core : Fin 256) (value : BitVec 64)
  /-- SSUB (R281). Checks a stream descriptor and queues it with a sequence number. -/
  | ssub (w : Site) (gd ga : RegField) (z : Bool) (hd ht hs : BitVec 4) (z2 : BitVec 2) (e : ErrMap)
  /-- SWAIT (R284). Waits for a stream descriptor to complete and returns its status. -/
  | swait (w : Site) (gd ga : RegField) (z : BitVec 15)
  /-- STREAM_DESC_START (R285). The head descriptor's WAIT is satisfied and start checks run. -/
  | streamDescStart (core : Fin 256) (e : ErrMap)
  /-- STREAM_DESC_COMPLETE (R287). The descriptor's writes land, record is written and SIGNAL performed. -/
  | streamDescComplete (core : Fin 256)
  /-- YINC (R408). Adds to a counter, semaphore, event or doorbell object. -/
  | yinc (w : Site) (gd ga gb : RegField) (h : BitVec 4)
  /-- YDEC (R408). Subtracts from an object, parking on a semaphore until it fits. -/
  | ydec (w : Site) (gd ga gb : RegField) (h : BitVec 4)
  /-- YSET (R408). Sets an object's value and clears STATUS. -/
  | yset (w : Site) (gd ga gb : RegField) (h : BitVec 4)
  /-- YSET_CFG (R408). Reconfigures an object's type and releases its waiters. -/
  | ysetCfg (w : Site) (gd ga gb : RegField) (h : BitVec 4)
  /-- YARRIVE (R410). Arrives at a barrier, completing the phase when EXPECT is reached. -/
  | yarrive (w : Site) (gd ga gb : RegField) (h : BitVec 4)
  /-- YWAIT (R415). Parks until an object's condition holds and returns its STATUS. -/
  | ywait (w : Site) (gd ga gb : RegField) (h : BitVec 4)
  /-- YWAIT_POLL (R415). Returns the object's word without parking. -/
  | ywaitPoll (w : Site) (gd ga gb : RegField) (h : BitVec 4)
  /-- WAITER_RELEASE (R416). An operation satisfies a parked waiter, releasing it in arrival order. -/
  | waiterRelease (p : WaitParty) (e : ErrMap)
  /-- REMOTE_SYNC_ACK (R419). An acknowledgement of a posted remote sync operation arrives, recording failures. -/
  | remoteSyncAck (core : Fin 256) (k : Fin 16) (status : BitVec 8)
  /-- SPILL_FETCH (R420). A non-resident object's word is fetched from the spill table. -/
  | spillFetch (dom : DomId) (obj : BitVec 16)
  /-- CPY (R313). Checks a copy descriptor and queues it on a channel or the die pool. -/
  | cpy (w : Site) (gd ga : RegField) (hd : BitVec 4) (eng : BitVec 3) (e : ErrMap)
  /-- CPWAIT (R317). Waits for a copy to complete and returns the FERR latch. -/
  | cpwait (w : Site) (gd ga : RegField) (eng : BitVec 3)
  /-- COPY_START (R308). An engine takes a copy from its queue or pool. -/
  | copyStart (e : Engine)
  /-- COPY_ROW (R314). An engine translates, checks and moves one copy row. -/
  | copyRow (e : Engine) (env : RowEnv) (m : ErrMap)
  /-- COPY_COMPLETE (R316). A copy's writes are performed, sequence advances, error recorded and SIGNAL performed. -/
  | copyComplete (e : Engine)
  /-- PSTREAM (R319). Declares or cancels a prefetch stream. -/
  | pstream (w : Site) (ga : RegField) (hd sn : BitVec 4) (e : ErrMap)
  /-- PSTREAM_FILL (R321). A stream issues the fill of its next certainly needed line as pacing allows. -/
  | pstreamFill (core : Fin 256) (sn : Fin 16) (arrives : Option (BitVec 8)) (e : ErrMap)
  /-- FENCE_L1 (R305). Waits for the strand's stores to be performed and invalidates L1D. -/
  | fenceL1 (w : Site)
  /-- FENCE_TASK (R306). Waits for all core work, cancels streams and invalidates L1D and L1I. -/
  | fenceTask (w : Site)
  /-- LLC_ACCESS (R330). A request is accepted and performed at its home LLC slice. -/
  | llcAccess (r : LlcReq)
  /-- REDUCTION_REQUEST (R345). A reduction request locks its line, combines elements and releases the lock. -/
  | reductionRequest (addr : Nat) (op : RedOp) (data : List Byte) (more : Bool) (e : ErrMap)
  /-- LOCKED_FILL_RESUME (R346). A fill waiting on a locked set takes the first released slot. -/
  | lockedFillResume (slice : Fin 128) (set : Fin 2048)
  /-- HBM_ISSUE (R354). A bank queue request issues to the stack. -/
  | hbmIssue (q : BankId)
  /-- HBM_REFRESH (R351). Per-bank refresh and RFM due by the refresh timer. -/
  | hbmRefresh (q : BankId)
  /-- REFRESH_DOUBLE (R355). HBM above 85 °C doubles the refresh rate with event 0x255. -/
  | refreshDouble (stack : Fin 16) (temp : BitVec 8)
  /-- PATROL_SCRUB (R356). The patrol scrub reads and corrects units of a stack. -/
  | patrolScrub (stack : Fin 16) (unit : Nat) (e : MemErr)
  /-- SOFT_REPAIR (R357). Luami holds a bank queue and soft-repairs a row. -/
  | softRepair (q : BankId) (row : BitVec 14)
  /-- PAGE_IN (R142). Luami reads a non-resident page from the granary and sets RES. -/
  | pageIn (dom : DomId) (va : Nat) (supplied : Bool) (err : ErrMap)
  /-- PAGE_OUT (R360). Luami writes back, copies and frees a granary-backed page over quota. -/
  | pageOut (dom : DomId) (va : Nat) (e : ErrMap)
  /-- QSUB_SUBMIT (R370). A store to PUU_QSUBq submits an update descriptor or overflows. -/
  | qsubSubmit (unit : Fin 16) (queue : Fin 16) (core : Fin 256) (value : BitVec 64)
  /-- UPD_HEAD_START (R375). An update descriptor at its queue head runs its start checks and waits. -/
  | updHeadStart (unit : Fin 16) (e : ErrMap)
  /-- UPD_STATS_PASS (R379). A statistics pass computes row statistics and exact column sums. -/
  | updStatsPass (unit : Fin 16) (rows : BitVec 25) (e : ErrMap)
  /-- UPD_APPLY_PASS (R383). An apply pass past step and gate checks updates parameters and moments. -/
  | updApplyPass (unit : Fin 16) (rows : BitVec 25) (e : ErrMap)
  /-- UPD_DESC_COMPLETE (R387). An update descriptor commits, records, raises errors and signals. -/
  | updDescComplete (unit : Fin 16)
  /-- RULE_COMMIT (R378). PUU_RCOMMIT GO copies the staged rule into the rule table. -/
  | ruleCommit (unit : Fin 16) (rule : Fin 16)
  /-- SCHED_COMMIT (R391). A shard commit reaches its schedule slot and counts if its step matches. -/
  | schedCommit (slot : Fin 64)
  /-- COUNT_WRITE (R392). A write of SCH_COUNT sets the step, resets COMMIT_OBJ and recomputes ETA. -/
  | countWrite (slot : Fin 64) (value : BitVec 32)
  /-- RECALC (R389). SCH_CTL RECALC recomputes ETA and CFGERR. -/
  | recalc (slot : Fin 64)
  /-- LOSS_STORE (R394). A store to LMON_LOSS tests for a spike and folds the loss. -/
  | lossStore (slot : Fin 256) (loss step : BitVec 32)
  /-- DECIDE_STORE (R396). A store to LMON_DECIDE opens or closes the step gate. -/
  | decideStore (slot : Fin 256) (step : BitVec 32)
  /-- LMON_RESET (R401). LMON_CFG1 RESET zeroes MEAN, VAR and NSAMP. -/
  | lmonReset (slot : Fin 256)
  /-- RING_SUBMIT (R427). A store to SYN_RSUBc queues a ring descriptor or overflows. -/
  | ringSubmit (chan : Fin 4096) (core : Fin 256) (value : BitVec 64)
  /-- RING_STEP (R428). Once RECV and CREDIT allow, the ring engine sends a block to the next member. -/
  | ringStep (chan : Fin 4096) (e : ErrMap)
  /-- RING_CREDIT_SEND (R428). The credit waiter adds a credit on the previous member once a block is used. -/
  | ringCreditSend (chan : Fin 4096)
  /-- FLIT_SEND (R449). A transmit direction grants a flit slot and sends a coded flit. -/
  | flitSend (port : Fin 36)
  /-- FLIT_RECEIVE (R441). A received flit is decoded, checked, accepted or rejected, with credits and acks taken. -/
  | flitReceive (port : Fin 36) (block : List Byte)
  /-- REPLAY (R441). On NAK the sender resends from ACKSEQ + 1. -/
  | replay (port : Fin 36)
  /-- RETRAIN (R442). A direction retrains after repeated rejections or a 100 µs stall. -/
  | retrain (port : Fin 36) (fails : Bool) (locked : BitVec 16)
  /-- LANE_BER_WINDOW (R443). At the end of a 1 ms window each wavelength's corrected count is judged. -/
  | laneBerWindow (port : Fin 36)
  /-- LANE_MASK_CHANGE (R444). A direction switches its lane mask to drop or add a wavelength. -/
  | laneMaskChange (port : Fin 36) (tx : Bool)
  /-- LASER_FAIL (R437). A monitor flags a failed laser and affected ports drop its wavelength. -/
  | laserFail (group : Fin 9) (wl : Option (Fin 16))
  /-- LASER_TAKEOVER (R437). Luami tunes the redundant laser to the failed wavelength. -/
  | laserTakeover (group : Fin 9)
  /-- LANE_ADD (R445). After training beside working lanes, a restored wavelength is added back. -/
  | laneAdd (port : Fin 36) (tx : Bool) (wl : Fin 16)
  /-- PCTL_REQUEST (R466). A write of PLK_PCTL REQ starts or latches a port power sequence. -/
  | pctlRequest (port : Fin 36) (turnOn : Bool)
  /-- PORT_POWER_UP (R464). The port lights lasers, trains, locks, exchanges HELLO and comes UP. -/
  | portPowerUp (port : Fin 36) (env : PortEnv)
  /-- PORT_POWER_DOWN (R465). The port drains, disables lanes and goes OFF. -/
  | portPowerDown (port : Fin 36)
  /-- PORT_QUIET_TIMEOUT (R465). A port not quiet within 1 ms proceeds as though DOWN. -/
  | portQuietTimeout (port : Fin 36)
  /-- PACKET_FORWARD (R453). A transit module forwards or reroutes a packet in the next hop class. -/
  | packetForward (port : Fin 36) (vc : Fin 8) (cls : Fin 4)
  /-- RDREQ (R457). A remote read request is checked and answered with read data. -/
  | rdreq (port : Fin 36) (vc : Fin 8) (cls : Fin 4) (e : ErrMap)
  /-- RDDATA (R451). Read data arrives for the requester's tracker. -/
  | rddata (port : Fin 36) (vc : Fin 8) (cls : Fin 4)
  /-- WRITE (R457). A remote copy write is checked against the landing window and performed. -/
  | write (port : Fin 36) (vc : Fin 8) (cls : Fin 4) (e : ErrMap)
  /-- REDUCE (R457). A remote reduction packet is checked and sent to the home slice. -/
  | reduce (port : Fin 36) (vc : Fin 8) (cls : Fin 4) (e : ErrMap)
  /-- CLOSE (R460). A copy close packet is taken in CSEQ order and advances FOBJ on success. -/
  | close (port : Fin 36) (vc : Fin 8) (cls : Fin 4)
  /-- SYNC (R418). A remote sync packet is resolved in the paired namespace and performed. -/
  | sync (port : Fin 36) (vc : Fin 8) (cls : Fin 4)
  /-- RING (R457). A ring send lands in a half of the member's buffer, advancing RECV. -/
  | ring (port : Fin 36) (vc : Fin 8) (cls : Fin 4) (e : ErrMap)
  /-- ACK (R458). An acknowledgement completes the source's operation with its status. -/
  | ack (port : Fin 36) (vc : Fin 8) (cls : Fin 4)
  /-- MGMT (R448). A management packet enters Luami's receive ring or is discarded when full. -/
  | mgmt (port : Fin 36) (vc : Fin 8) (cls : Fin 4)
  /-- ID_CLAIM_RECEIVE (R456). A flooded module id claim is compared and may set CONFLICT. -/
  | idClaimReceive (id : BitVec 12) (serial : BitVec 64) (hops : Fin 4)
  /-- REPLY_TIMEOUT (R458). No reply within 10 ms completes the operation with FLT_LINK_FAIL. -/
  | replyTimeout (tag : BitVec 16)
  /-- ROUTE_EPOCH_COMMIT (R454). PLK_EPOCH COMMIT starts the flip of injection points to the shadow table. -/
  | routeEpochCommit (die : Fin 4)
  /-- ROUTE_EPOCH_RETIRE (R454). When OLDPKT reaches 0 the new table becomes active. -/
  | routeEpochRetire (die : Fin 4)
  /-- MBX_DOORBELL (R473). MBX_CTL DB captures the command or sets OVR when busy. -/
  | mbxDoorbell (m : Fin 320)
  /-- MGMT_TICK (R484). The 500 µs tick runs Luami's control loop steps. -/
  | mgmtTick (env : TickEnv)
  /-- DMON_WINDOW (R40). A delay monitor's 1 µs window ends and it reports its rate. -/
  | dmonWindow (mon : Fin 37) (env : DMonEnv)
  /-- DMON_CLEAR (R41). PWR_DMON_CLR resets the rate extremes of chosen monitors. -/
  | dmonClear (mask : BitVec 37)
  /-- POD_PARK_QUIESCE (R486). A parking pod's units reach quiescence and its rail slews to retention. -/
  | podParkQuiesce (pod : Fin 32)
  /-- PARK_ABANDON (R486). A park not quiescent within 1 ms is abandoned. -/
  | parkAbandon (pod : Fin 32)
  /-- POD_UNPARK_SLEW (R486). An unparking pod's rail reaches target and issue resumes. -/
  | podUnparkSlew (pod : Fin 32) (e : ErrMap)
  /-- CONFIG_EPOCH_COMMIT (R493). PWR_EPOCH COMMIT starts a staged configuration flip. -/
  | configEpochCommit
  /-- EPOCH_UNIT_FLIP (R493). A unit flips to the shadow values at its quiescent point; the last flip retires the epoch. -/
  | epochUnitFlip (u : EpochUnit)
  /-- REFERENCE_LOSS (R45). A missing reference halts the module at retention voltage. -/
  | referenceLoss
  /-- PLL_LOCK_LOSS (R45). A PLL losing lock takes down its island. -/
  | pllLockLoss (island : Island)
  /-- THERMAL_TRIP (R489). A sensor at its trip level turns off all rails but the always-on rail. -/
  | thermalTrip (sensor : Fin 324)
  /-- WATCHDOG_EXPIRY (R471). Four missed ticks reset the module. -/
  | watchdogExpiry
  /-- LOCKSTEP_MISMATCH (R471). A Bamso lockstep mismatch resets the module. -/
  | lockstepMismatch
  /-- DOMAIN_REVOCATION (R135). Luami revokes a domain, cancelling work, sweeping hulls and husking memory. -/
  | domainRevocation (dom : DomId) (us : BitVec 32)
  /-- SWEEP_START (R138). HUL_SWEEP START replaces every hull of the domain with null. -/
  | sweepStart (dom : DomId)
  /-- OCCURRENCE_APPLY (R497). The recorder intake applies a merged occurrence to the code's record. -/
  | occurrenceApply
  /-- AOS_NOR_COPY (R503). The always-on store is copied to NOR after a write. -/
  | aosNorCopy
  /-- EVR_CLR_GO (R504). EVR_CLR GO clears a range of event records and raises 0x001. -/
  | evrClrGo (dom : DomId) (first last : BitVec 12)
  /-- PMC_WRAP (R507). A counter wraps, chaining, reloading with vector 40 or setting OVF with vector 41. -/
  | pmcWrap (set : Fin 261) (n : Fin 64) (weight : BitVec 16)
  /-- PMC_CAPTURE_TC (R512). At the capture instant every counter snapshots, freezes or unfreezes. -/
  | pmcCaptureTc
  /-- BW_WINDOW_END (R514). A bandwidth monitor window ends and updates LAST, MIN and MAX. -/
  | bwWindowEnd (mon : Fin 65)
  /-- IDENTITY (R477). Returns part, stepping, state, module id and versions. -/
  | identity (m : Fin 320)
  /-- TIME_CORRELATE (R477). Returns TIME at acceptance and before the response. -/
  | timeCorrelate (m : Fin 320)
  /-- MODULE_STATUS (R477). Returns power, temperature and alert status. -/
  | moduleStatus (m : Fin 320)
  /-- REG_READ (R477). Returns up to six register words. -/
  | regRead (m : Fin 320)
  /-- ALERT_ACK (R490). Acknowledges ALERT causes, deasserting ALERT_N when none stands. -/
  | alertAck (m : Fin 320)
  /-- MODULE_RESET (R544). Starts a module reset after the tick boundary. -/
  | moduleReset (m : Fin 320)
  /-- EPOCH_STATUS (R477). Returns the configuration epoch state. -/
  | epochStatus (m : Fin 320)
  /-- SENSOR_READ (R477). Returns temperature sensor readings. -/
  | sensorRead (m : Fin 320)
  /-- DOMAIN_CREATE (R477). Creates a domain with cores, HBM, mappings and a hull page. -/
  | domainCreate (m : Fin 320)
  /-- DOMAIN_START (R477). Starts strand 0 of a domain's core at an entry address. -/
  | domainStart (m : Fin 320)
  /-- DOMAIN_REVOKE (R135). Revokes a domain and responds at step 9. -/
  | domainRevoke (m : Fin 320) (us : BitVec 32)
  /-- PAGE_MAP (R140). Installs a checked page mapping. -/
  | pageMap (m : Fin 320)
  /-- PAGE_UNMAP (R143). Removes a mapping after invalidation and access drain. -/
  | pageUnmap (m : Fin 320)
  /-- FUNC_BIND (R482). Binds or unbinds a VF to a domain. -/
  | funcBind (m : Fin 320)
  /-- BAR2_WINDOW (R482). Sets or disables a function's BAR2 window. -/
  | bar2Window (m : Fin 320)
  /-- HOST_WINDOW (R311). Sets or removes a domain host window. -/
  | hostWindow (m : Fin 320)
  /-- VECTOR_SET (R145). Sets a domain's vector table and double-fault address. -/
  | vectorSet (m : Fin 320)
  /-- QUOTA_SET (R359). Sets a domain's resident granary quota. -/
  | quotaSet (m : Fin 320)
  /-- IRQ_BIND (R483). Binds an MSI-X vector to a sync object. -/
  | irqBind (m : Fin 320)
  /-- FAULT_POLICY (R477). Sets whether a third fault revokes the domain. -/
  | faultPolicy (m : Fin 320)
  /-- HULL_LEND (R477). Places a hull of a source domain into a target hull page. -/
  | hullLend (m : Fin 320)
  /-- RIGHT_GRANT (R477). Grants a device right hull. -/
  | rightGrant (m : Fin 320)
  /-- SYNC_GRANT (R404). Grants a sync-object range and its hull. -/
  | syncGrant (m : Fin 320)
  /-- UPDQ_BIND (R369). Binds an update-unit queue with its hull slots. -/
  | updqBind (m : Fin 320)
  /-- UPDQ_UNBIND (R402). Unbinds an update queue, cancelling its descriptors. -/
  | updqUnbind (m : Fin 320)
  /-- PIN_LIMIT (R341). Stages PIN_WAYS and CMP_EN for named stacks. -/
  | pinLimit (m : Fin 320)
  /-- MBX_GRANT (R477). Grants an internal mailbox and its access hull. -/
  | mbxGrant (m : Fin 320)
  /-- PEER_PAIR (R418). Fills or removes a peer-table pairing. -/
  | peerPair (m : Fin 320)
  /-- CHAN_CONFIG (R478). Configures a stage-queue or ring channel end. -/
  | chanConfig (m : Fin 320)
  /-- CHAN_UNCONFIG (R429). Unconfigures a channel, cancelling its descriptors. -/
  | chanUnconfig (m : Fin 320)
  /-- POD_VOLTAGE (R36). Sets the requested voltage of pods at the tick. -/
  | podVoltage (m : Fin 320)
  /-- POWER_CAP (R485). Sets the module power cap at the tick. -/
  | powerCap (m : Fin 320)
  /-- POD_PARK (R486). Starts or latches park or unpark of pods. -/
  | podPark (m : Fin 320)
  /-- ROUTE_WRITE (R452). Writes shadow route-table entries on all dies. -/
  | routeWrite (m : Fin 320)
  /-- ROUTE_COMMIT (R454). Commits the route epoch on all dies. -/
  | routeCommit (m : Fin 320)
  /-- PORT_POWER (R466). Requests ports ON or OFF. -/
  | portPower (m : Fin 320)
  /-- CONFLICT_CLEAR (R456). Clears CONFLICT for a module id. -/
  | conflictClear (m : Fin 320)
  /-- EVR_READ (R516). Returns part of an event record. -/
  | evrRead (m : Fin 320)
  /-- EVR_CLEAR (R504). Clears a range of event records from the host. -/
  | evrClear (m : Fin 320)
  /-- EVR_NOTES (R501). Removes notification entries from the ring. -/
  | evrNotes (m : Fin 320)
  /-- EVR_CONFIG (R516). Sets word 7 of an event record. -/
  | evrConfig (m : Fin 320)
  /-- PMC_CAPTURE (R512). Requests a snapshot, freeze or unfreeze of all counters. -/
  | pmcCapture (m : Fin 320)
  /-- PMC_TRIGSET (R511). Sets the counter trigger object. -/
  | pmcTrigset (m : Fin 320)
  /-- BW_WINDOW (R514). Stages a new bandwidth monitor window length. -/
  | bwWindow (m : Fin 320)
  /-- EVR_AOS (R503). Reads or clears always-on store entries. -/
  | evrAos (m : Fin 320)
  /-- GRN_INFO (R538). Returns granary capacity and state. -/
  | grnInfo (m : Fin 320)
  /-- GRN_KEY_CREATE (R523). Creates a new object key. -/
  | grnKeyCreate (m : Fin 320)
  /-- GRN_KEY_BIND (R523). Binds a domain to a key. -/
  | grnKeyBind (m : Fin 320)
  /-- GRN_KEY_ERASE (R525). Crypto-erases a key and its objects. -/
  | grnKeyErase (m : Fin 320)
  /-- GRN_CREATE (R519). Creates a granary object. -/
  | grnCreate (m : Fin 320)
  /-- GRN_GRANT (R522). Places an object right hull in a bound domain. -/
  | grnGrant (m : Fin 320)
  /-- GRN_READ (R526). Accepts a read of an object's committed image. -/
  | grnRead (m : Fin 320)
  /-- GRN_WRITE (R526). Accepts a write into an object's open image. -/
  | grnWrite (m : Fin 320)
  /-- GRN_TRANSFER (R527). Granary movers move a transfer page by page. -/
  | grnTransfer (num : BitVec 32) (env : GrnEnv) (e : ErrMap)
  /-- GRN_TRANSFER_DONE (R528). A transfer completes and performs its SIGNAL. -/
  | grnTransferDone (num : BitVec 32)
  /-- GRN_COMMIT (R531). Makes an object's open image durable as a new generation. -/
  | grnCommit (m : Fin 320)
  /-- GRN_DELETE (R538). Deletes an object. -/
  | grnDelete (m : Fin 320)
  /-- GRN_OBJSTAT (R538). Returns an object's attributes. -/
  | grnObjstat (m : Fin 320)
  /-- GRN_HEALTH (R538). Returns wear, block and error counts. -/
  | grnHealth (m : Fin 320)
  /-- GRN_LIST (R538). Lists object ids. -/
  | grnList (m : Fin 320)
  /-- GRN_BLOCK_REFRESH (R536). Background read and rewrite of aging or disturbed blocks. -/
  | grnBlockRefresh (chan : Fin 32) (env : RefreshEnv)
  /-- BOOT_STATUS (R563). Returns boot count, cause, slots and versions. -/
  | bootStatus (m : Fin 320)
  /-- DIE_RESET (R552). Resets one compute die after revoking dependent domains. -/
  | dieReset (m : Fin 320) (us : BitVec 32)
  /-- POD_RESET (R553). Resets one pod after revoking dependent domains. -/
  | podReset (m : Fin 320) (us : BitVec 32)
  /-- RUNTIME_LOAD (R563). Copies the device runtime into a domain. -/
  | runtimeLoad (m : Fin 320)
  /-- FW_STAGE (R560). Stages and verifies a firmware image. -/
  | fwStage (m : Fin 320) (img : Option FwImage)
  /-- FW_ACTIVATE (R560). Activates the staged image of a component. -/
  | fwActivate (m : Fin 320)
  /-- LC_CHALLENGE (R557). Returns a fresh nonce for a life-cycle token. -/
  | lcChallenge (m : Fin 320)
  /-- LC_TOKEN (R557). Loads part of a life-cycle authorisation token. -/
  | lcToken (m : Fin 320)
  /-- LC_TRANSITION (R558). Moves the module to a new life-cycle state and resets it. -/
  | lcTransition (m : Fin 320)
  /-- LC_PROVISION (R559). Stores the module id for the next boot. -/
  | lcProvision (m : Fin 320)
  /-- BAR2_ACCESS (R482). A host access through BAR2 translated in the bound domain. -/
  | bar2Access (f : Fin 64) (acc : HostAcc) (e : ErrMap)
  /-- BAR0_HOLE_ACCESS (R481). A host access to a BAR0 hole or RO bits completes harmlessly with event 0x182. -/
  | bar0HoleAccess (f : Fin 64) (off : BitVec 26) (write : Option (BitVec 64))
  /-- FUNCTION_LEVEL_RESET (R482). An FLR removes a function's window, bindings and MSI-X state. -/
  | functionLevelReset (f : Fin 64)
  /-- PERST_N_ASSERT (R543). PERST_N asserted holds the module in module reset. -/
  | perstNAssert
  /-- MOD_RST_N_ASSERT (R543). MOD_RST_N asserted holds the module in module reset. -/
  | modRstNAssert
  /-- BOOT (R547). With both reset pins deasserted the germ and Luami run the boot sequence. -/
  | boot (env : BootEnv)
  /-- TRIAL_TIMEOUT (R561). The 5 s trial timer of a pending image expires, forcing a module reset. -/
  | trialTimeout
  /-- RECOVERY_IMAGE (R562). In recovery the germ accepts, verifies and writes a Luami image over I3C. -/
  | recoveryImage (img : FwImage)
  /-- COLD_POWER_ON (R573). V_IN rising through 40 V from lockout charges the bus and starts the always-on rail. -/
  | coldPowerOn
  /-- POWER_LOSS (R574). V_IN below 38 V triggers granary hold-up and powers off to the held-off state. -/
  | powerLoss (holdMs : BitVec 8)
  /-- INPUT_LOCKOUT (R568). V_IN below 35 V turns every rail off. -/
  | inputLockout
  /-- INPUT_SWITCH_OPEN (R569). Overvoltage opens the input switch. -/
  | inputSwitchOpen
  /-- INPUT_SWITCH_CLOSE (R569). After 100 ms in range the input switch closes again. -/
  | inputSwitchClose
  /-- GET_VERSION (R494). SPDM version request served by Luami. -/
  | getVersion (p : SidePath)
  /-- GET_CAPABILITIES (R494). SPDM capabilities request. -/
  | getCapabilities (p : SidePath)
  /-- NEGOTIATE_ALGORITHMS (R494). SPDM algorithm negotiation. -/
  | negotiateAlgorithms (p : SidePath)
  /-- GET_DIGESTS (R494). SPDM certificate digests request. -/
  | getDigests (p : SidePath)
  /-- GET_CERTIFICATE (R555). SPDM certificate chain request. -/
  | getCertificate (p : SidePath) (off len : BitVec 16)
  /-- CHALLENGE (R555). SPDM challenge signed with the alias key. -/
  | challenge (p : SidePath) (nonce : List Byte)
  /-- GET_MEASUREMENTS (R554). SPDM measurements request returning boot digests. -/
  | getMeasurements (p : SidePath) (index : BitVec 8) (nonce : Option (List Byte))
  /-- PLDM_MONITOR_REQUEST (R494). PLDM platform monitoring sensor request. -/
  | pldmMonitorRequest (p : SidePath) (sensor : PldmSensor)
  /-- PLDM_FIRMWARE_UPDATE (R560). PLDM firmware update stages and activates a component. -/
  | pldmFirmwareUpdate (p : SidePath) (step : PldmStep)
  /-- ENTDAA (R494). The I3C controller assigns the module's dynamic address. -/
  | entdaa (addr : BitVec 7)
  /-- EXTEST (R583). JTAG boundary-scan external test instruction. -/
  | extest
  /-- IDCODE (R583). JTAG IDCODE instruction. -/
  | idcode
  /-- SAMPLE_PRELOAD (R583). JTAG sample/preload instruction. -/
  | samplePreload
  /-- HIGHZ (R583). JTAG high-impedance instruction. -/
  | highz
  /-- CLAMP (R583). JTAG clamp instruction. -/
  | clamp
  /-- EXTEST_PULSE (R583). IEEE 1149.6 pulse test instruction. -/
  | extestPulse
  /-- EXTEST_TRAIN (R583). IEEE 1149.6 train test instruction. -/
  | extestTrain
  /-- DEBUG_ACCESS (R583). JTAG debug instructions in MANUFACTURE or SERVICE. -/
  | debugAccess (code : BitVec 8)
  /-- BYPASS (R583). JTAG bypass instruction, also taken by unaccepted codes. -/
  | bypass
  /-- TILE_CE_CLR (R191). TILE_ECC CE_CLR zeroes the tile corrected count. -/
  | tileCeClr (core : Fin 256)
  /-- ACC_CE_CLR (R257). ACC_ECC CE_CLR zeroes the accumulator corrected count. -/
  | accCeClr (core : Fin 256)
  /-- ACC_NF_CLR (R253). ACC_NFTHR CLR zeroes the drain non-finite counts. -/
  | accNfClr (core : Fin 256)
  /-- STR_CE_CLR (R292). STR_ECC CE_CLR zeroes the chain-buffer corrected count. -/
  | strCeClr (core : Fin 256)
  /-- STR_NF_CLR (R292). STR_NFTHR CLR zeroes the stream non-finite counts. -/
  | strNfClr (core : Fin 256)
  /-- IXCNT_CLR (R292). STR_IXCNT CLR zeroes OOB and DROP. -/
  | ixcntClr (core : Fin 256)
  /-- SPECC_CE_CLR (R324). CPY_SPECC CE_CLR zeroes the scratchpad corrected count. -/
  | speccCeClr (core : Fin 256)
  /-- L1_ECC_CLR (R363). L1_ECC CLR zeroes both parity counts. -/
  | l1EccClr (core : Fin 256)
  /-- LLC_CE_CLR (R364). LLC_ECC CE_CLR zeroes the slice corrected count. -/
  | llcCeClr (slice : Fin 128)
  /-- LLC_STAT_CLR (R364). LLC_STAT CLR zeroes DEMOTED. -/
  | llcStatClr (slice : Fin 128)
  /-- QFULL_CLR (R365). LLC_MCSTAT CLR zeroes QFULL. -/
  | qfullClr (stack : Fin 16)
  /-- MC_CE_CLR (R365). LLC_MCECC CE_CLR zeroes controller CE_COUNT and ODECC. -/
  | mcCeClr (stack : Fin 16)
  /-- PUU_NF_CLR (R399). PUU_NFCNT CLR zeroes update-unit non-finite counts. -/
  | puuNfClr (unit : Fin 16)
  /-- SYN_STAT_CLR (R422). SYN_STAT CLR zeroes FILLS and SPILLS. -/
  | synStatClr (die : Fin 4)
  /-- PLK_ERR_CLR (R467). PLK_ERR CLR zeroes the link error counts. -/
  | plkErrClr (port : Fin 36)
  /-- FECC_CLR (R467). PLK_FECC CLR zeroes the corrected symbol count. -/
  | feccClr (port : Fin 36)
  /-- BSTAT_CLR (R468). PLK_BSTAT CLR zeroes bridge RETRY. -/
  | bstatClr (die : Fin 4) (b : Fin 3)
  /-- GRN_ERR_CLR (R539). GRN_ERR CLR zeroes granary error counts. -/
  | grnErrClr
  /-- BWSTAT_CLR (R515). PMC_BWSTAT CLR resets a bandwidth monitor's extremes. -/
  | bwstatClr (mon : Fin 65)
  /-- REG_WRITE (R14). A write to a register without its own row, by its field types and access hull. -/
  | regWrite (p : RegPath) (value : BitVec 64)
  /-- WAVELENGTH_LOCK_LOSS (R443). A receiver loses lock on one wavelength and that wavelength is dropped from its direction. -/
  | wavelengthLockLoss (port : Fin 36) (wl : Fin 16)
  /-- SCRATCHPAD_LOAD_RETURN (R300). A load from another core's scratchpad returns its data 25–110 ns later and frees one of the strand's four outstanding slots. -/
  | scratchpadLoadReturn (w : Site) (k : Fin 4)
  /-- PCIE_COMPLETION_TIMEOUT (R314). A host read row of a copy receives no PCIe completion in time, and the copy stops with FLT_LINK_FAIL. -/
  | pcieCompletionTimeout (e : Engine)
  /-- VIN_REACHES_40V (R575). V_IN rises back to 40 V while a module reset from the held-off state is waiting, and the boot begins. -/
  | vinReaches40v (env : BootEnv)
  /-- TRIP_SENSOR_CLEAR (R489). A trip sensor cools to more than 10 °C below its trip level, and a boot held at step 4 continues. -/
  | tripSensorClear (env : BootEnv)
  /-- REFRESH_RATE_RESTORE (R355). HBM falls back to 85 °C or below, and the controller returns to normal refresh, clearing REFX2. -/
  | refreshRateRestore (stack : Fin 16) (temp : BitVec 8)
  /-- POD_HOT_CLAMP (R471). While Luami misses ticks, the power management controller forces a pod whose Tj reaches 105 °C to 0.60 V. -/
  | podHotClamp (pod : Fin 32) (tj : BitVec 8)
  /-- TRST_N_ASSERT (R579). TRST_N driven low holds the JTAG TAP in reset, ending any test access. -/
  | trstNAssert
  /-- MCTP_CONTROL_MESSAGE (R494). An MCTP control message arrives over I3C or PCIe VDM and the endpoint answers it. -/
  | mctpControlMessage (p : SidePath) (eid : Option (BitVec 8))
  deriving DecidableEq, Repr

end Sys2Proof
end

