-- ==== Sys2Proof/Decode.lean ====
section
/-! DEFINITION. The decoder of the cores' instruction words (R107, R108 and the encoding tables of R123, R154, R171, R180, R188, R205,
R212, R216, R226, R280, R284, R307 and R412). The commands that are no instruction are spelled by no word. -/

namespace Sys2Proof

/-- A field of a word: `n` bits from bit `lo`. -/
def wordFld (x : BitVec 32) (lo n : Nat) : BitVec n := x.extractLsb' lo n

/-- R107: the major opcode, [31:25]. -/
def majorOf (x : BitVec 32) : Nat := (wordFld x 25 7).toNat

/-- The register field [24:20]. -/
def fldD (x : BitVec 32) : RegField := wordFld x 20 5

/-- The register field [19:15]. -/
def fldA (x : BitVec 32) : RegField := wordFld x 15 5

/-- The register field [14:10]. -/
def fldB (x : BitVec 32) : RegField := wordFld x 10 5

/-- One bit of a word. -/
def wordBit (x : BitVec 32) (i : Nat) : Bool := x.getLsbD i

/-- R108: a reserved word: its strand takes FLT_ILLEGAL when it would issue. -/
def illegalWord (w : Site) : Instr := .faultEntry w 0x01 0 0

/-- A word whose fields shown as zero must be zero (R107). -/
def zeroed (w : Site) (ok : Bool) (i : Instr) : Instr := if ok then i else illegalWord w

/-- R108: the OP minor codes. Fields that a minor does not use are ignored (log entry 123). -/
def decodeOp (w : Site) (d a b : RegField) : Nat → Instr
  | 0x00 => .add w d a b
  | 0x01 => .sub w d a b
  | 0x02 => .and w d a b
  | 0x03 => .or w d a b
  | 0x04 => .xor w d a b
  | 0x05 => .andn w d a b
  | 0x06 => .sll w d a b
  | 0x07 => .srl w d a b
  | 0x08 => .sra w d a b
  | 0x09 => .rotr w d a b
  | 0x0A => .slt w d a b
  | 0x0B => .sltu w d a b
  | 0x0C => .min w d a b
  | 0x0D => .minu w d a b
  | 0x0E => .max w d a b
  | 0x0F => .maxu w d a b
  | 0x10 => .mul w d a b
  | 0x11 => .mulh w d a b
  | 0x12 => .mulhu w d a b
  | 0x13 => .mulhsu w d a b
  | 0x14 => .div w d a b
  | 0x15 => .divu w d a b
  | 0x16 => .rem w d a b
  | 0x17 => .remu w d a b
  | 0x18 => .clz w d a
  | 0x19 => .ctz w d a
  | 0x1A => .popc w d a
  | 0x1B => .sextb w d a
  | 0x1C => .sexth w d a
  | 0x1D => .sextw w d a
  | 0x1E => .zextw w d a
  | 0x1F => .cmov w d a b
  | _ => illegalWord w

/-- R108: the SYS minor codes. -/
def decodeSys (w : Site) (d a b : RegField) : Nat → Instr
  | 0x0 => .nop w
  | 0x1 => .halt w d a b
  | 0x2 => .strst w a b
  | 0x3 => .rdtime w d
  | _ => illegalWord w

/-- R108: the AMO operations. -/
def decodeAmo (w : Site) (d a b : RegField) (h : BitVec 4) (z : BitVec 2) : Nat → Instr
  | 0x0 => .amoAdd w d a b h z
  | 0x1 => .amoSwap w d a b h z
  | 0x2 => .amoAnd w d a b h z
  | 0x3 => .amoOr w d a b h z
  | 0x4 => .amoXor w d a b h z
  | 0x5 => .amoMax w d a b h z
  | 0x6 => .amoMin w d a b h z
  | 0x7 => .amoMaxu w d a b h z
  | 0x8 => .amoMinu w d a b h z
  | 0x9 => .amoCas w d a b h z
  | _ => illegalWord w

/-- R108: the VINT operations. -/
def decodeVint (w : Site) (l : BitVec 2) (d a b : RegField) : Nat → Instr
  | 0x00 => .vintAdd w l d a b
  | 0x01 => .vintSub w l d a b
  | 0x02 => .vintAdds w l d a b
  | 0x03 => .vintAddus w l d a b
  | 0x04 => .vintSubs w l d a b
  | 0x05 => .vintSubus w l d a b
  | 0x06 => .vintMul w l d a b
  | 0x07 => .vintMulh w l d a b
  | 0x08 => .vintMulhu w l d a b
  | 0x09 => .vintMin w l d a b
  | 0x0A => .vintMinu w l d a b
  | 0x0B => .vintMax w l d a b
  | 0x0C => .vintMaxu w l d a b
  | 0x0D => .vintAnd w l d a b
  | 0x0E => .vintOr w l d a b
  | 0x0F => .vintXor w l d a b
  | 0x10 => .vintAndn w l d a b
  | 0x11 => .bsel w l d a b
  | 0x12 => .vintSll w l d a b
  | 0x13 => .vintSrl w l d a b
  | 0x14 => .vintSra w l d a b
  | 0x15 => .cmpeq w l d a b
  | 0x16 => .cmplt w l d a b
  | 0x17 => .cmpltu w l d a b
  | 0x18 => .vintAbs w l d a b
  | 0x19 => .vintNeg w l d a b
  | _ => illegalWord w

/-- R108: the VFP operations. -/
def decodeVfp (w : Site) (l : BitVec 2) (d a b : RegField) : Nat → Instr
  | 0x00 => .fadd w l d a b
  | 0x01 => .fsub w l d a b
  | 0x02 => .fmul w l d a b
  | 0x03 => .fma w l d a b
  | 0x04 => .fmin w l d a b
  | 0x05 => .fmax w l d a b
  | 0x06 => .fabs w l d a b
  | 0x07 => .fneg w l d a b
  | 0x08 => .fcmpeq w l d a b
  | 0x09 => .fcmplt w l d a b
  | 0x0A => .fcmple w l d a b
  | 0x0B => .fdiv w l d a b
  | 0x0C => .fsqrt w l d a b
  | _ => illegalWord w

/-- R108: the VMOVE operations. -/
def decodeVmove (w : Site) (l : BitVec 2) (i : BitVec 4) (d a b : RegField) : Nat → Instr
  | 0x0 => .vsplat w l i d a
  | 0x1 => .vins w l i d a
  | 0x2 => .vext w l i d a
  | 0x3 => .vperm w i d a b
  | _ => illegalWord w

/-- R123, R154: major opcode 0x6E. -/
def decodeHull (w : Site) (x : BitVec 32) : Instr :=
  let d := fldD x
  let a := fldA x
  let b := fldB x
  let low := wordFld x 0 7
  match (wordFld x 7 3).toNat with
  | 0 => zeroed w (b == 0 && low == 0) (.hseal w d a)
  | 1 => zeroed w (d == 0 && b == 0 && low == 0) (.hcall w a)
  | 2 =>
    if wordBit x 0 then zeroed w (d == 0 && a == 0 && b == 0 && wordFld x 2 5 == 0) (.fret w (wordBit x 1))
    else zeroed w (d == 0 && a == 0 && b == 0 && low == 0) (.hret w)
  | 3 => .hld w d a b low
  | 4 => .hst w d a b low
  | 5 => zeroed w (wordFld x 2 5 == 0) (.hchk w d a b (wordFld x 0 2))
  | 6 => zeroed w (b == 0 && low == 0) (.hmov w d a)
  | _ => zeroed w (a == 0 && b == 0 && low == 0) (.hclr w d)

/-- R188: major opcode 0x63. -/
def decodeTileOp (w : Site) (x : BitVec 32) : Instr :=
  match (wordFld x 7 3).toNat with
  | 0 => .tzero w (fldD x) (fldA x) (fldB x) (wordBit x 6) (wordBit x 5) (wordFld x 0 5)
  | 1 => .tmov w (fldD x) (fldA x) (fldB x) (wordBit x 6) (wordBit x 5) (wordFld x 0 5) []
  | _ => illegalWord w

/-- R226: major opcode 0x67. -/
def decodeAcc (w : Site) (x : BitVec 32) : Instr :=
  let d := fldD x
  let a := fldA x
  let b := fldB x
  match (wordFld x 7 3).toNat with
  | 0 => .manch w d a b (wordFld x 0 7)
  | 1 => .mord w d a b (wordBit x 6) (wordFld x 0 6)
  | 2 => .mdrain w d a b (wordFld x 2 5) (wordBit x 1) (wordBit x 0)
  | 3 => .msave w d a b (wordFld x 2 5) (wordFld x 0 2)
  | 4 => .mrestore w d a b (wordFld x 2 5) (wordFld x 0 2)
  | _ => illegalWord w

/-- R412: major opcode 0x6C. -/
def decodeSync (w : Site) (x : BitVec 32) : Instr :=
  let d := fldD x
  let a := fldA x
  let b := fldB x
  let h := wordFld x 6 4
  let f := wordBit x 2
  zeroed w (wordFld x 0 2 == 0)
    (match (wordFld x 3 3).toNat with
    | 0 => zeroed w (!f) (.yinc w d a b h)
    | 1 => zeroed w (!f) (.ydec w d a b h)
    | 2 => if f then .ysetCfg w d a b h else .yset w d a b h
    | 3 => zeroed w (!f) (.yarrive w d a b h)
    | 4 => if f then .ywaitPoll w d a b h else .ywait w d a b h
    | _ => illegalWord w)

/-- R307: major opcode 0x6F. -/
def decodeCopy (w : Site) (x : BitVec 32) : Instr :=
  let d := fldD x
  let a := fldA x
  let hd := wordFld x 10 4
  let eng := wordFld x 4 3
  let low := wordFld x 0 4 == 0
  match (wordFld x 7 3).toNat with
  | 0 => zeroed w (!wordBit x 14 && low) (.cpy w d a hd eng [])
  | 1 => zeroed w (!wordBit x 14 && hd == 0 && low) (.cpwait w d a eng)
  | 2 => zeroed w (d == 0 && !wordBit x 14 && wordFld x 0 3 == 0) (.pstream w a hd (wordFld x 3 4) [])
  | 3 => zeroed w (d == 0 && a == 0 && fldB x == 0 && wordFld x 0 7 == 0) (.fenceL1 w)
  | 4 => zeroed w (d == 0 && a == 0 && fldB x == 0 && wordFld x 0 7 == 0) (.fenceTask w)
  | _ => illegalWord w

/-- R107, R108: the instruction of strand `w` that a word spells; a reserved word is the strand's FLT_ILLEGAL. The check codes an
access meets are none: they are no part of a word. -/
def decodeInstr (w : Site) (x : BitVec 32) : Instr :=
  let d := fldD x
  let a := fldA x
  let b := fldB x
  let imm : BitVec 15 := wordFld x 0 15
  let off : BitVec 10 := wordFld x 0 10
  let minor := (wordFld x 0 10).toNat
  let op8 := (wordFld x 0 8).toNat
  let l : BitVec 2 := wordFld x 8 2
  match majorOf x with
  | 0x01 => decodeOp w d a b minor
  | 0x02 => .addi w d a imm
  | 0x03 => .andi w d a imm
  | 0x04 => .ori w d a imm
  | 0x05 => .xori w d a imm
  | 0x06 => .slti w d a imm
  | 0x07 => .sltiu w d a imm
  | 0x08 => .slli w d a imm
  | 0x09 => .srli w d a imm
  | 0x0A => .srai w d a imm
  | 0x0B => .lui w d (wordFld x 0 20)
  | 0x0C => .auipc w d (wordFld x 0 20)
  | 0x10 => .ldb w d a b off .none
  | 0x11 => .ldbu w d a b off .none
  | 0x12 => .ldh w d a b off .none
  | 0x13 => .ldhu w d a b off .none
  | 0x14 => .ldw w d a b off .none
  | 0x15 => .ldwu w d a b off .none
  | 0x16 => .ldd w d a b off .none
  | 0x17 => .stb w d a b off
  | 0x18 => .sth w d a b off
  | 0x19 => .stw w d a b off
  | 0x1A => .std w d a b off
  | 0x1B => .ldv w d a b off .none
  | 0x1C => .stv w d a b off
  | 0x1D => decodeAmo w d a b (wordFld x 6 4) (wordFld x 4 2) (wordFld x 0 4).toNat
  | 0x20 => .beq w d a imm
  | 0x21 => .bne w d a imm
  | 0x22 => .blt w d a imm
  | 0x23 => .bge w d a imm
  | 0x24 => .bltu w d a imm
  | 0x25 => .bgeu w d a imm
  | 0x26 => .jal w d (wordFld x 0 20)
  | 0x27 => .jalr w d a imm
  | 0x28 => zeroed w (a == 0) (.loop w d imm)
  | 0x29 => .lbrk w d (wordFld x 0 20)
  | 0x2A => decodeSys w d a b minor
  | 0x2B => .rdsr w d a imm
  | 0x2C => .wrsr w d a imm
  | 0x40 => decodeVint w l d a b op8
  | 0x41 => decodeVfp w l d a b op8
  | 0x42 => zeroed w (wordFld x 3 5 == 0) (.vmulw w l (wordBit x 2) (wordFld x 0 2) d a b)
  | 0x43 => zeroed w (wordFld x 3 7 == 0) (.vdot w (wordFld x 0 3) d a b)
  | 0x44 => .vgather w d a b (wordFld x 6 4) (wordFld x 4 2) (wordFld x 0 4) []
  | 0x45 => decodeVmove w l (wordFld x 0 4) d a b (wordFld x 4 4).toNat
  | 0x46 => zeroed w (!wordBit x 0) (.vcvt w (wordFld x 6 4) (wordFld x 2 4) (wordBit x 1) d a)
  | 0x60 => .tld w d a b (wordFld x 6 4) (wordFld x 4 2) (wordBit x 3) (wordBit x 2) (wordFld x 0 2) []
  | 0x61 => .tst w d a b (wordFld x 6 4) (wordFld x 4 2) (wordBit x 3) (wordBit x 2) (wordFld x 0 2) []
  | 0x62 => .tcfg w d a b (wordFld x 6 4) (wordFld x 0 6) []
  | 0x63 => decodeTileOp w x
  | 0x64 => .mwld w d a b (wordFld x 6 4) (wordFld x 2 4) (wordBit x 1) (wordBit x 0)
  | 0x65 => .mma w d a b (wordFld x 6 4) (wordFld x 3 3) (wordBit x 2) (wordBit x 1) (wordBit x 0)
  | 0x66 => .mmaq w d a b (wordFld x 6 4) (wordFld x 3 3) (wordBit x 2) (wordBit x 1) (wordBit x 0)
  | 0x67 => decodeAcc w x
  | 0x68 => .ssub w d a (wordBit x 14) (wordFld x 10 4) (wordFld x 6 4) (wordFld x 2 4) (wordFld x 0 2) []
  | 0x69 => .swait w d a imm
  | 0x6C => decodeSync w x
  | 0x6D => .hderive w d a b (wordFld x 5 5) (wordFld x 0 5)
  | 0x6E => decodeHull w x
  | 0x6F => decodeCopy w x
  | _ => illegalWord w

/-- R93: a word at which fetch stops until it has resolved its target. -/
def isTransfer (x : BitVec 32) : Bool :=
  match decodeInstr ⟨0, 0⟩ x with
  | .beq .. | .bne .. | .blt .. | .bge .. | .bltu .. | .bgeu .. => true
  | .jal .. | .jalr .. | .lbrk .. | .loop .. => true
  | .wrsr _ _ _ imm => imm.toNat % 256 == 0x01
  | .hcall .. | .hret .. | .fret .. | .halt .. => true
  | _ => false

/-- The command a word of `nbits` bits spells: a 32-bit word is an instruction, here of strand 0 of core 0, since a word names no strand.
No row of spec/opcode_table.json has bits of its own. -/
def decodeTableWord (nbits w : Nat) : Option Instr :=
  if nbits = 32 then some (decodeInstr ⟨0, 0⟩ (BitVec.ofNat 32 w)) else none

end Sys2Proof
end

