-- ==== Sys2Proof/Machine/Table.lean ====
section
/-! DEFINITION. Sparse arrays as plain data: a list of (key, value) pairs in one canonical form, keys
strictly rising and no entry equal to what an unlisted key reads as. Register files, caches, per-object
tables and memory are all held this way, so equal arrays are equal lists. -/

namespace Sys2Proof.Machine

/-- A sparse array over `Nat` keys. -/
abbrev Table (α : Type) := List (Nat × α)

/-- Read key `k`; an unlisted key reads as `d`. -/
def tget {α : Type} (d : α) : Table α → Nat → α
  | [], _ => d
  | (j, x) :: t, k => if j = k then x else tget d t k

/-- Insert `x` at `k`, keeping the keys rising; an entry already at `k` is replaced. -/
def tput {α : Type} (k : Nat) (x : α) : Table α → Table α
  | [] => [(k, x)]
  | (j, y) :: t => if k < j then (k, x) :: (j, y) :: t else if k = j then (k, x) :: t else (j, y) :: tput k x t

/-- Remove every entry at `k`. -/
def tdel {α : Type} (k : Nat) : Table α → Table α
  | [] => []
  | (j, y) :: t => if k = j then tdel k t else (j, y) :: tdel k t

/-- Write `x` at `k`; writing the default removes the entry. -/
def tset {α : Type} [DecidableEq α] (d : α) (t : Table α) (k : Nat) (x : α) : Table α :=
  if x = d then tdel k t else tput k x t

/-- Apply `f` to every listed value; what becomes the default reads as the default. -/
def tmap {α : Type} [DecidableEq α] (d : α) (f : α → α) : Table α → Table α
  | [] => []
  | (j, y) :: t => if f y = d then tdel j (tmap d f t) else (j, f y) :: tmap d f t

/-- Keep only the entries whose key and value pass `p`; the others read as the default again. -/
def tfilter {α : Type} (p : Nat → α → Bool) : Table α → Table α
  | [] => []
  | (j, y) :: t => if p j y then (j, y) :: tfilter p t else tdel j (tfilter p t)

/-- Keep only the keys that pass `p`; the others read as the default again. -/
def tkeep {α : Type} (p : Nat → Bool) : Table α → Table α
  | [] => []
  | (j, y) :: t => if p j then (j, y) :: tkeep p t else tkeep p t

/-- The canonical form: keys strictly rising, no value equal to the default. -/
def twf {α : Type} [DecidableEq α] (d : α) : Table α → Bool
  | [] => true
  | (j, y) :: t => decide (y ≠ d) && (t.all fun e => decide (j < e.1)) && twf d t

end Sys2Proof.Machine
end

