-- ==== Sys2Proof/Machine/Bits.lean ====
section
/-! DEFINITION. Bit fields, sign extension and little-endian byte order (R10), the small helpers every
meaning uses. -/

namespace Sys2Proof.Machine

/-- Field `[hi:lo]` of a word, as a number. -/
def fld {n : Nat} (x : BitVec n) (hi lo : Nat) : Nat := (x.toNat >>> lo) % 2 ^ (hi + 1 - lo)

/-- Bit `i` of a word. -/
def bit {n : Nat} (x : BitVec n) (i : Nat) : Bool := x.getLsbD i

/-- The word `x` with field `[hi:lo]` replaced by the low bits of `v`. -/
def setFld {n : Nat} (x : BitVec n) (hi lo : Nat) (v : Nat) : BitVec n :=
  let w := hi + 1 - lo
  let m : BitVec n := (BitVec.ofNat n (2 ^ w - 1)) <<< lo
  (x &&& ~~~m) ||| ((BitVec.ofNat n (v % 2 ^ w)) <<< lo)

/-- The word `x` with bit `i` set to `b`. -/
def setBit {n : Nat} (x : BitVec n) (i : Nat) (b : Bool) : BitVec n := setFld x i i (cond b 1 0)

/-- A Boolean as a number. -/
def b2n (b : Bool) : Nat := cond b 1 0

/-- The number 1 or 0 as a 64-bit word. -/
def boolW (b : Bool) : W64 := cond b 1 0

/-- Field `[hi:lo]` of a number. -/
def nfld (x hi lo : Nat) : Nat := (x >>> lo) % 2 ^ (hi + 1 - lo)

/-- Two's complement reading of the low `w` bits of `x` (R10). -/
def toSigned (w x : Nat) : Int :=
  let y := x % 2 ^ w
  if y < 2 ^ (w - 1) then (y : Int) else (y : Int) - (2 ^ w : Nat)

/-- The low `w` bits of an integer, as a number. -/
def ofInt (w : Nat) (x : Int) : Nat := (x % ((2 ^ w : Nat) : Int)).toNat

/-- A list of bytes as one little-endian number (R10). -/
def leNat : List Byte → Nat
  | [] => 0
  | b :: t => b.toNat + 256 * leNat t

/-- The `n` little-endian bytes of a number (R10). -/
def leBytes : Nat → Nat → List Byte
  | 0, _ => []
  | n + 1, x => BitVec.ofNat 8 (x % 256) :: leBytes n (x / 256)

/-- `n` bytes of a byte list starting at `o`; past the end reads zero. -/
def bytesAt (l : List Byte) (o n : Nat) : List Byte :=
  (List.range n).map fun i => (l.drop (o + i)).headD 0

/-- A byte range of a descriptor is zero. -/
def zeroBytes (d : List Byte) (o n : Nat) : Bool := (bytesAt d o n).all fun b => decide (b = 0)

/-- Field of `n` little-endian bytes at offset `o` of a byte list. -/
def leAt (l : List Byte) (o n : Nat) : Nat := leNat (bytesAt l o n)

/-- The number of one bits among the low `n`. -/
def popcount : Nat → Nat → Nat
  | 0, _ => 0
  | n + 1, x => x % 2 + popcount n (x / 2)

/-- The number of zero bits above the highest one bit, of `n` bits (`n` for zero). -/
def clz : Nat → Nat → Nat
  | 0, _ => 0
  | n + 1, x => if 2 ^ n ≤ x % 2 ^ (n + 1) then 0 else 1 + clz n x

/-- The number of zero bits below the lowest one bit, of `n` bits (`n` for zero). -/
def ctz : Nat → Nat → Nat
  | 0, _ => 0
  | n + 1, x => if x % 2 = 1 then 0 else 1 + ctz n (x / 2)

/-- The bit length of a number, given a bound on it (`fuel` halvings). -/
def bitLen : Nat → Nat → Nat
  | 0, _ => 0
  | n + 1, x => if x = 0 then 0 else 1 + bitLen n (x / 2)

/-- Saturating addition below `2 ^ w` (counters that saturate). -/
def satAdd (w x n : Nat) : Nat := if x + n < 2 ^ w then x + n else 2 ^ w - 1

/-- A saturating counter word. -/
def satInc {w : Nat} (x : BitVec w) (n : Nat) : BitVec w := BitVec.ofNat w (satAdd w x.toNat n)

end Sys2Proof.Machine
end

