-- ==== Sys2Proof/Machine/Fp.lean ====
section
/-! DEFINITION. Number formats and conversions (chapter 03): exact values, the encodings of R53 and R56, rounding,
WX128 elements, reductions. Every operation is exact and rounds once. -/

namespace Sys2Proof.Machine

/-- An exact value: NaN, an infinity, or (-1)^neg x m x 2^e. -/
inductive Fv where
  | nan
  | inf (neg : Bool)
  | fin (neg : Bool) (m : Nat) (e : Int)
  deriving DecidableEq, Repr

/-- R53: a floating-point format: widths of exponent and mantissa, bias, largest finite encoding, the encodings of
infinity and of the canonical NaN (R55), where they exist. -/
structure Fmt where
  eb     : Nat
  mb     : Nat
  bias   : Int
  maxEnc : Nat
  infEnc : Option Nat
  nanEnc : Option Nat
  deriving DecidableEq, Repr

/-- R53, R55: the format of a code of R51; none for a code that is not floating point. -/
def fmtOf (code : Nat) : Option Fmt :=
  match code with
  | 0 => some ⟨11, 52, 1023, 0x7FEFFFFFFFFFFFFF, some 0x7FF0000000000000, some 0x7FF8000000000000⟩
  | 1 => some ⟨8, 23, 127, 0x7F7FFFFF, some 0x7F800000, some 0x7FC00000⟩
  | 2 => some ⟨5, 10, 15, 0x7BFF, some 0x7C00, some 0x7E00⟩
  | 3 => some ⟨8, 7, 127, 0x7F7F, some 0x7F80, some 0x7FC0⟩
  | 4 => some ⟨4, 3, 7, 0x7E, none, some 0x7F⟩
  | 5 => some ⟨5, 2, 15, 0x7B, some 0x7C, some 0x7E⟩
  | 6 => some ⟨3, 2, 3, 0x1F, none, none⟩
  | 7 => some ⟨2, 3, 1, 0x1F, none, none⟩
  | 8 => some ⟨2, 1, 1, 0x7, none, none⟩
  | _ => none

/-- R51: the element width of a code in bits. -/
def fmtWidth (code : Nat) : Nat :=
  match code with
  | 0 => 64 | 1 => 32 | 2 => 16 | 3 => 16 | 4 => 8 | 5 => 8 | 6 => 6 | 7 => 6 | 8 => 4 | 9 => 4 | 10 => 8 | 11 => 8
  | 12 => 4 | 13 => 32 | 14 => 8 | _ => 128

/-- The value of an encoding in a floating-point format (R53): anything above the infinity, or above the largest
finite encoding where there is no infinity, is NaN. -/
def Fmt.decode (f : Fmt) (x : Nat) : Fv :=
  let neg := x / 2 ^ (f.eb + f.mb) % 2 = 1
  let y := x % 2 ^ (f.eb + f.mb)
  if f.infEnc = some y then .inf neg
  else if f.maxEnc < y then .nan
  else if y < 2 ^ f.mb then .fin neg y (1 - f.bias - f.mb)
  else .fin neg (2 ^ f.mb + y % 2 ^ f.mb) ((y / 2 ^ f.mb : Nat) - f.bias - f.mb)

/-- An integer as an exact value. -/
def Fv.ofInt (i : Int) : Fv := .fin (decide (i < 0)) i.natAbs 0

/-- The value of an element of a format code (R53, R56); TC4 and WX128 have none of their own. -/
def fvOf (code x : Nat) : Fv :=
  match fmtOf code with
  | some f => f.decode x
  | none =>
    match code with
    | 10 => .ofInt (toSigned 8 x)
    | 11 => .ofInt (x % 256 : Nat)
    | 12 => .ofInt (toSigned 4 x)
    | 13 => .ofInt (toSigned 32 x)
    | 14 => if x % 256 = 255 then .nan else .fin false 1 ((x % 256 : Nat) - 127)
    | _ => .nan

/-- The value is NaN or infinite. -/
def Fv.nonFinite : Fv → Bool
  | .fin _ _ _ => false
  | _ => true

/-- The value is a zero of either sign. -/
def Fv.isZero : Fv → Bool
  | .fin _ m _ => decide (m = 0)
  | _ => false

/-- Negate. -/
def Fv.neg : Fv → Fv
  | .nan => .nan
  | .inf n => .inf !n
  | .fin n m e => .fin (!n) m e

/-- The exact product; an infinity times a zero is NaN. -/
def Fv.mul : Fv → Fv → Fv
  | .nan, _ => .nan
  | _, .nan => .nan
  | .inf a, .inf b => .inf (a != b)
  | .inf a, .fin b m _ => if m = 0 then .nan else .inf (a != b)
  | .fin a m _, .inf b => if m = 0 then .nan else .inf (a != b)
  | .fin a m e, .fin b n f => .fin (a != b) (m * n) (e + f)

/-- The integer m x 2^(e - base), signed, for base no greater than e. -/
def scaledInt (neg : Bool) (m : Nat) (e base : Int) : Int :=
  let x : Int := (m * 2 ^ (e - base).toNat : Nat)
  if neg then -x else x

/-- The exact sum; opposite infinities are NaN; an exact zero is +0 unless both terms are negative (IEEE 754). -/
def Fv.add : Fv → Fv → Fv
  | .nan, _ => .nan
  | _, .nan => .nan
  | .inf a, .inf b => if a = b then .inf a else .nan
  | .inf a, .fin _ _ _ => .inf a
  | .fin _ _ _, .inf b => .inf b
  | .fin a m e, .fin b n f =>
    let base := min e f
    let s := scaledInt a m e base + scaledInt b n f base
    if s = 0 then .fin (a && b) 0 base else .fin (decide (s < 0)) s.natAbs base

/-- Strict order of two values that are not NaN; zeros of either sign are equal. -/
def Fv.lt : Fv → Fv → Bool
  | .nan, _ => false
  | _, .nan => false
  | .inf a, .inf b => a && !b
  | .inf a, .fin _ _ _ => a
  | .fin _ _ _, .inf b => !b
  | .fin a m e, .fin b n f => let base := min e f; decide (scaledInt a m e base < scaledInt b n f base)

/-- Equality of two values that are not NaN. -/
def Fv.eq (x y : Fv) : Bool := decide (x ≠ .nan) && decide (y ≠ .nan) && !x.lt y && !y.lt x

/-- The sign of a value. -/
def Fv.sign : Fv → Bool
  | .nan => false
  | .inf a => a
  | .fin a _ _ => a

/-- Round-to-nearest-even, or stochastic rounding with word 0 of the generator (R77, R83). -/
inductive Rnd where
  | rne
  | sr (r : Nat)
  deriving DecidableEq, Repr

/-- m x 2^e as a multiple of 2^u, rounded. -/
def roundMag (rnd : Rnd) (m : Nat) (e u : Int) : Nat :=
  if u ≤ e then m * 2 ^ (e - u).toNat
  else
    let sh := (u - e).toNat
    let q := m / 2 ^ sh
    let r := m % 2 ^ sh
    match rnd with
    | .rne => if 2 ^ sh < 2 * r then q + 1 else if 2 * r = 2 ^ sh then q + q % 2 else q
    | .sr w => if w / 256 < 2 ^ 24 * r / 2 ^ sh then q + 1 else q

/-- R80: round a finite magnitude into a format: the encoding without sign, which exceeds `maxEnc` on overflow. -/
def Fmt.encMag (f : Fmt) (rnd : Rnd) (m : Nat) (e : Int) : Nat :=
  if m = 0 then 0
  else
    let umin := 1 - f.bias - f.mb
    let u := max ((m.log2 : Int) + e - f.mb) umin
    roundMag rnd m e u + (u - umin).toNat * 2 ^ f.mb

/-- R80: convert an exact value to a floating-point format; saturation applies to the 8-, 6- and 4-bit formats. -/
def Fmt.enc (f : Fmt) (sat : Bool) (rnd : Rnd) (x : Fv) : Nat :=
  let sgn (neg : Bool) (y : Nat) : Nat := if neg then y + 2 ^ (f.eb + f.mb) else y
  match x with
  | .nan => f.nanEnc.getD 0
  | .inf neg =>
    match f.infEnc, f.nanEnc with
    | some i, _ => sgn neg i
    | none, some n => if sat then sgn neg f.maxEnc else n
    | none, none => sgn neg f.maxEnc
  | .fin neg m e =>
    let y := f.encMag rnd m e
    if y ≤ f.maxEnc then sgn neg y
    else if f.eb + f.mb ≥ 15 then sgn neg (f.infEnc.getD 0)
    else
      match f.infEnc, f.nanEnc with
      | some i, _ => sgn neg (if sat then f.maxEnc else i)
      | none, some n => if sat then sgn neg f.maxEnc else n
      | none, none => sgn neg f.maxEnc

/-- R81: the range of an integer code. -/
def intRange (code : Nat) : Int × Int :=
  match code with
  | 10 => (-128, 127)
  | 11 => (0, 255)
  | 12 => (-8, 7)
  | _ => (-2147483648, 2147483647)

/-- R81: round to an integer and saturate. -/
def fvToInt (lo hi : Int) (rnd : Rnd) : Fv → Int
  | .nan => 0
  | .inf neg => if neg then lo else hi
  | .fin neg m e =>
    let y : Int := roundMag rnd m e 0
    let y := if neg then -y else y
    if y < lo then lo else if hi < y then hi else y

/-- R77-R82: convert an exact value to an element of a format code. E8M0 takes no conversion here. -/
def fvEnc (code : Nat) (sat : Bool) (rnd : Rnd) (x : Fv) : Nat :=
  match fmtOf code with
  | some f => f.enc sat rnd x
  | none => ofInt (fmtWidth code) (fvToInt (intRange code).1 (intRange code).2 rnd x)

/-- An FP32 element as a value. -/
def f32 (x : Nat) : Fv := fvOf 1 x

/-- A value rounded once to FP32 by RNE. -/
def toF32 (x : Fv) : Nat := fvEnc 1 false .rne x

/-- FP32 addition, one rounding. -/
def f32Add (x y : Nat) : Nat := toF32 ((f32 x).add (f32 y))

/-- FP32 multiplication, one rounding. -/
def f32Mul (x y : Nat) : Nat := toF32 ((f32 x).mul (f32 y))

/-- FP32 fused multiply-add x * y + z, one rounding. -/
def f32Fma (x y z : Nat) : Nat := toF32 (((f32 x).mul (f32 y)).add (f32 z))

/-- FP32 subtraction. -/
def f32Sub (x y : Nat) : Nat := toF32 ((f32 x).add (f32 y).neg)

/-- The FP32 pattern is NaN or infinite. -/
def f32NonFinite (x : Nat) : Bool := (f32 x).nonFinite

/-- The integer square root, by bits from bit `n - 1` down. -/
def isqrt (x : Nat) : Nat → Nat → Nat
  | 0, r => r
  | n + 1, r => if (r + 2 ^ n) * (r + 2 ^ n) ≤ x then isqrt x n (r + 2 ^ n) else isqrt x n r

/-- A quotient with enough bits and a sticky bit that any rounding of it to 53 bits or fewer is the rounding of the
exact quotient; IEEE 754 special cases. -/
def Fv.div : Fv → Fv → Fv
  | .nan, _ => .nan
  | _, .nan => .nan
  | .inf _, .inf _ => .nan
  | .inf a, .fin b _ _ => .inf (a != b)
  | .fin a _ _, .inf b => .fin (a != b) 0 0
  | .fin a m e, .fin b n f =>
    if n = 0 then (if m = 0 then .nan else .inf (a != b))
    else
      let q := m * 2 ^ 128 / n
      .fin (a != b) (2 * q + b2n (decide (m * 2 ^ 128 % n ≠ 0))) (e - f - 129)

/-- A square root with enough bits and a sticky bit; the root of a negative number is NaN, of a zero that zero. -/
def Fv.sqrt : Fv → Fv
  | .nan => .nan
  | .inf a => if a then .nan else .inf false
  | .fin a m e =>
    if m = 0 then .fin a 0 0
    else if a then .nan
    else
      let odd := e % 2 = 1
      let x := (if odd then 2 * m else m) * 2 ^ 128
      let e2 := ((if odd then e - 1 else e) - 128) / 2
      let r := isqrt x 128 0
      .fin false (2 * r + b2n (decide (r * r ≠ x))) (e2 - 1)

/-- IEEE minimum of R101: NaN if either is, -0 below +0. -/
def Fv.min (x y : Fv) : Fv :=
  if x = .nan || y = .nan then .nan
  else if x.lt y then x else if y.lt x then y else if x.sign then x else y

/-- IEEE maximum of R101. -/
def Fv.max (x y : Fv) : Fv :=
  if x = .nan || y = .nan then .nan
  else if x.lt y then y else if y.lt x then x else if x.sign then y else x

/-! ### Philox (R83) -/

/-- One round of Philox-4x32 (the published constants; PRESUMED, log entry 16). -/
def philoxRound (c : Nat × Nat × Nat × Nat) (k0 k1 : Nat) : Nat × Nat × Nat × Nat :=
  let p0 := 0xD2511F53 * c.1
  let p1 := 0xCD9E8D57 * c.2.2.1
  ((p1 / 2 ^ 32) ^^^ c.2.1 ^^^ k0, p1 % 2 ^ 32, (p0 / 2 ^ 32) ^^^ c.2.2.2 ^^^ k1, p0 % 2 ^ 32)

/-- Rounds with the Weyl key schedule. -/
def philoxRounds : Nat → Nat × Nat × Nat × Nat → Nat → Nat → Nat × Nat × Nat × Nat
  | 0, c, _, _ => c
  | n + 1, c, k0, k1 =>
    philoxRounds n (philoxRound c k0 k1) ((k0 + 0x9E3779B9) % 2 ^ 32) ((k1 + 0xBB67AE85) % 2 ^ 32)

/-- R83: word 0 of Philox-4x32-10 under a 64-bit seed. -/
def philox (seed : W64) (c0 c1 c2 c3 : Nat) : Nat :=
  (philoxRounds 10 (c0 % 2 ^ 32, c1 % 2 ^ 32, c2 % 2 ^ 32, c3 % 2 ^ 32) (fld seed 31 0) (fld seed 63 32)).1

/-! ### WX128 elements (R67-R71, R74, R78, R79) -/

/-- R67: the SUM field as an integer. -/
def wxSum (x : W128) : Int := toSigned 120 (fld x 119 0)

/-- Set bit `i` of the status bits (120 RANGE, 121 NAN, 122 INF_POS, 123 INF_NEG, 124 TRUNC). -/
def wxFlag (x : W128) (i : Nat) : W128 := setBit x i true

/-- R68, R70: add one exact product to an element with anchor `a`. -/
def wxAdd (a : Int) (x : W128) (p : Fv) : W128 :=
  match p with
  | .nan => wxFlag x 121
  | .inf neg => wxFlag x (if neg then 123 else 122)
  | .fin neg m e =>
    if m = 0 then x
    else
      let big := if a + 88 ≤ e then true else decide (2 ^ (a + 88 - e).toNat ≤ m)
      if big then wxFlag x 120
      else
        let t : Nat := if a ≤ e then m * 2 ^ (e - a).toNat else m / 2 ^ (a - e).toNat
        let exact := if a ≤ e then true else decide (m % 2 ^ (a - e).toNat = 0)
        let t' : Int := if neg then -(t : Int) else t
        let y := setFld x 119 0 (ofInt 120 (wxSum x + t'))
        if exact then y else wxFlag y 124

/-- R74: a reduction of two elements. -/
def wxReduce (x y : W128) : W128 :=
  setFld (setFld (x ||| y) 119 0 (fld x 119 0 + fld y 119 0)) 127 125 0

/-- The exact value of an element, by the first matching rule of R78 (also R79's mapping). -/
def wxValue (a : Int) (x : W128) : Fv :=
  if bit x 120 || bit x 121 then .nan
  else if bit x 122 && bit x 123 then .nan
  else if bit x 122 then .inf false
  else if bit x 123 then .inf true
  else .fin (decide (wxSum x < 0)) (wxSum x).natAbs a

/-- R78: an element as FP32. -/
def wxToF32 (a : Int) (x : W128) : Nat := toF32 (wxValue a x)

/-! ### Packing (R57) and lanes -/

/-- Element `i` of `w` bits in a packed row given as one little-endian number. -/
def elemAt (row w i : Nat) : Nat := row / 2 ^ (w * i) % 2 ^ w

/-- Pack elements of `w` bits, first lowest. -/
def packElems (w : Nat) : List Nat → Nat
  | [] => 0
  | x :: t => x % 2 ^ w + 2 ^ w * packElems w t

/-- The lanes of width `w` of a short vector, lane 0 first. -/
def lanes (w : Nat) (x : W128) : List Nat := (List.range (128 / w)).map fun i => elemAt x.toNat w i

/-- A short vector from lanes. -/
def ofLanes (w : Nat) (l : List Nat) : W128 := BitVec.ofNat 128 (packElems w l)

end Sys2Proof.Machine
end

