-- ==== Sys2Proof/Config.lean ====
section
/-! DEFINITION. The free values: constants with no body for every value the spec leaves open. Nothing in
Lean can evaluate one or prove a value of it. Each is named in the assumption log. -/

namespace Sys2Proof

/-- The n-th value of a stream of unstated 64-bit values (nonces, fresh choices); the state's counter
`freeCtr` picks n. -/
opaque Config.free64 : Nat → W64

/-- FP32 result of a transcendental function number `f` on one FP32 input where R238 or R274 fixes only a
bound around the exact value. -/
opaque Config.transcend : (f : Nat) → W32 → W32

/-- Byte `i` of what a read of a backing object returns where a page-out placed a page: the placement is unstated (R360). -/
opaque Config.freeByte : (seed i : Nat) → Byte

/-- The number of the first granary transfer (R527 states only that numbers are unique until they wrap). -/
opaque Config.firstXfer : W32

/-- R523: the n-th key pair (two 256-bit keys) that the secure key store generates. -/
opaque Config.keyPair : Nat → BitVec 512

/-- R524: the key pair of the objects that Luami keeps under no key id. -/
opaque Config.luamiKey : BitVec 512

/-- R524: IEEE 1619 XTS-AES-256 of a data unit under a key pair with a tweak (log entry 131). -/
opaque Config.xtsAes256 : (key : BitVec 512) → (tweak : BitVec 128) → (unit : List Byte) → List Byte

/-- R557: whether a 96-byte signature is Cralatu's over (serial, target state, nonce). -/
opaque Config.lcTokenOk : (serial : W64) → (target : Nat) → (nonce sig : List Byte) → Bool

/-- R546: the germ's version, fixed in the ROM. -/
opaque Config.germVersion : W32

/-- R554: the SHA-384 digest of what a measurement covers, given as words and bytes. -/
opaque Config.sha384 : (words : List Nat) → (bytes : List Byte) → List Byte

/-- R555: the certificate chain of the module for its serial and the running image's digest, and signatures by the alias key over a
transcript. -/
opaque Config.certChain : (serial : W64) → (image : List Byte) → List Byte

/-- R555: a signature by the alias key that the running image's digest derives. -/
opaque Config.aliasSign : (serial : W64) → (image transcript : List Byte) → List Byte

end Sys2Proof
end

