-- ==== Sys2Proof/Machine/StateCore.lean ====
section
/-! DEFINITION. The state of a strand and of the parts of a core that serve strands: banks, call frames,
the one-miss rule, L1 caches, the write-through buffer, the translation cache, fault and interrupt
registers, copy channels and prefetch streams (chapters 04, 05, 06, 11, 12). Plain data. -/

namespace Sys2Proof.Machine

/-- R85: the items every bank of a strand holds. Registers not listed read zero; a null hull is zero. -/
structure Bank where
  pc     : VAddr
  g      : Table W64
  v      : Table W128
  h      : Table W128
  lc     : W64
  lstart : VAddr
  lend   : VAddr
  gprog  : W64
  deriving DecidableEq, Repr

/-- R85: reset values of the banked items. -/
def Bank.reset : Bank := ⟨0, [], [], [], 0, 0, 0, 0⟩

/-- R144: which bank. -/
inductive BankSel where
  | s0 | s1 | s2
  deriving DecidableEq, Repr

/-- R153: the fault record of a shadow bank. `first` is the code of the fault whose entry failed, for an S2 of KIND 3 (R152, R156). -/
structure FaultRec where
  cause : W64
  fpc   : VAddr
  rpc   : VAddr
  addr  : W64
  info  : W64
  ftime : W64
  first : Nat
  deriving DecidableEq, Repr

/-- R153: every record register resets to zero. -/
def FaultRec.reset : FaultRec := ⟨0, 0, 0, 0, 0, 0, 0⟩

/-- R129: a call frame: the caller's banked state, its current domain, and the bank it was opened in. -/
structure Frame where
  bank   : Bank
  dom    : DomNo
  opened : BankSel
  deriving DecidableEq, Repr

/-- Where the data of an outstanding access goes (R97, R98, R106, R126, R128, R300). -/
inductive MissDest where
  | greg (r : Nat) (bytes : Nat) (signed : Bool)
  | vreg (r : Nat)
  | hreg (r : Nat)
  | amo (r : Nat) (bytes : Nat) (op : Nat) (b cmp : W64)
  | gather
  | hcall (dom : DomNo)
  deriving DecidableEq, Repr

/-- R97: an outstanding miss: physical address, size, destination, the store data forwarded to it at issue,
the store serial at issue, and the hull it was made under (for R341). -/
structure Miss where
  pa   : Nat
  size : Nat
  dest : MissDest
  fwd  : List (Nat × Byte)
  snap : Nat
  fill : Bool
  parityErr : Bool
  deriving DecidableEq, Repr

/-- The access kinds of R118 and R141. -/
inductive AccKind where
  | read | write | fetch | hullRead | hullWrite
  deriving DecidableEq, Repr

/-- R416: what a strand's waiter entry waits for. -/
inductive SyncWait where
  | ywait (p : W64)
  | ydec (n : Nat)
  | released (word : W64) (status : Nat) (reset : Bool)
  deriving DecidableEq, Repr

/-- R151: an entry to a bank in progress: the code, vector, level and kind, and what a fault's record holds. -/
structure EntryReq where
  code    : Nat
  vector  : Nat
  level   : Nat
  kind    : Nat
  addr    : W64
  info    : W64
  deriving DecidableEq, Repr

/-- R91: why a strand is parked. `entry`: an entry that waits for the page of its vector entry, or of its handler (R142, R151). -/
inductive Park where
  | none
  | missReg
  | secondMiss
  | fill
  | hcallRead (h1 h2 h3 : W128)
  | l1i (pa : Nat)
  | walk (dom : DomNo) (va : Nat) (kind : AccKind) (hreg : Nat)
  | pageIn (dom : DomNo) (va : Nat)
  | sync (dom : DomNo) (obj : Nat) (gd : Nat) (wait : SyncWait)
  | cpwait (eng : Nat) (seq : W32) (gd : Nat)
  | swait (seq : W32) (gd : Nat)
  | fence1
  | fenceTask (copies : List (Nat × Nat)) (str acc : Nat)
  | entry (e : EntryReq) (handler : Option VAddr)
  | tile (table : Bool)
  | tcfg
  | mwld
  | calleeRevoked
  deriving DecidableEq, Repr

/-- The state of one strand (R85, R91, R97, R129, R144, R153, R300). `gather`: the strand holds its core's gather port (R106).
`mdrain`: the drain word and the seed of an MDRAIN that has issued and whose checks wait (R233, R239, R240). -/
structure Strand where
  running : Bool
  cur     : BankSel
  b0      : Bank
  b1      : Bank
  b2      : Bank
  live1   : Bool
  live2   : Bool
  r1      : FaultRec
  r2      : FaultRec
  smask   : BitVec 3
  dom     : DomNo
  frames  : List Frame
  park    : Park
  miss    : Option Miss
  miss2   : Option Miss
  spLoads : List Miss
  gather  : Bool
  mdrain  : Option (W64 × W64)
  deriving DecidableEq, Repr

/-- R85: a strand at reset: HALTED, every bank reset, no frame, no miss. -/
def Strand.reset : Strand :=
  ⟨false, .s0, Bank.reset, Bank.reset, Bank.reset, false, false, FaultRec.reset, FaultRec.reset, 0, 0, [], .none,
   none, none, [], false, none⟩

/-- One L1 line: 128 bytes at a line-aligned physical address, with its age (R331, R332). Bytes not listed
are zero. -/
structure L1Line where
  valid : Bool
  tag   : Nat
  age   : Nat
  data  : Table Byte
  deriving DecidableEq, Repr

/-- An invalid L1 way. -/
def L1Line.none : L1Line := ⟨false, 0, 0, []⟩

/-- R98: a store in the core's write-through buffer. `hull` marks an HST. -/
structure StoreEntry where
  strand : Nat
  serial : Nat
  pa     : Nat
  bytes  : List Byte
  user   : DomNo
  hull   : Bool
  deriving DecidableEq, Repr

/-- R143: a cached translation: the leaf that maps `base` to `base + size` of domain `dom`. -/
structure TlbEntry where
  dom   : DomNo
  base  : Nat
  level : Nat
  leaf  : W64
  deriving DecidableEq, Repr

/-- R268: a SIGNAL field: kind, object, module, amount. -/
structure Signal where
  kind   : Nat
  obj    : Nat
  amount : Nat
  hull   : W128
  deriving DecidableEq, Repr

/-- No signal. -/
def Signal.none : Signal := ⟨0, 0, 0, 0⟩

/-- R309: a copy descriptor's fields. -/
structure CopyDesc where
  ctrl  : W64
  saddr : Nat
  daddr : Nat
  len   : Nat
  rows  : Nat
  planes : Nat
  srs   : Int
  drs   : Int
  sps   : Int
  dps   : Int
  ssel  : Nat
  dsel  : Nat
  deriving DecidableEq, Repr

/-- R310, R316: a queued copy: descriptor, captured hulls, issuing strand and domain, sequence number, and how
far it has run. `after` is the core's store serial at issue; `cseq` the number on its destination channel (R460); `phase` is 0
between rows, 1 while a remote row is read, 2 while one is written, 3 while the CLOSE is out; `owed` counts replies awaited,
`rstat` the first non-zero status among them, `buf` the bytes read. -/
structure CopyItem where
  desc    : CopyDesc
  hsrc    : W128
  hdst    : W128
  sig     : Signal
  core    : Nat
  strand  : Nat
  dom     : DomNo
  eng     : Nat
  seq     : W32
  after   : Nat
  started : Bool
  plane   : Nat
  row     : Nat
  status  : Nat
  errDest : Bool
  errAddr : W64
  rvalid  : Bool
  done    : Bool
  cseq    : W16
  phase   : Nat
  owed    : Nat
  rstat   : Nat
  buf     : Table Byte
  deriving DecidableEq, Repr

/-- R308, R324: one core copy channel. -/
structure CopyChan where
  queue : List CopyItem
  next  : W32
  done  : W32
  ferr  : Bool
  deriving DecidableEq, Repr

/-- An idle channel. -/
def CopyChan.reset : CopyChan := ⟨[], 0, 0, false⟩

/-- R324: the core's copy unit: four channels, the die-engine sequence, the error registers. -/
structure CopyUnit where
  chans    : Table CopyChan
  deNext   : W32
  deDone   : W32
  deFin    : List Nat
  deFerr   : Bool
  err      : W64
  errPos   : W64
  errAddr  : W64
  specc    : W64
  deriving DecidableEq, Repr

/-- R324: reset values. -/
def CopyUnit.reset : CopyUnit := ⟨[], 0, 0, [], false, 0, 0, 0, 0⟩

/-- R319, R323: one prefetch stream. `touched` is P + 1. -/
structure PStream where
  state   : Nat
  status  : Nat
  next    : Nat
  addr    : Nat
  rowlen  : Nat
  rows    : Nat
  stride  : Int
  l2      : Bool
  hint    : Nat
  depth   : Nat
  hull    : W128
  touched : Nat
  deriving DecidableEq, Repr

/-- An idle prefetch stream (R323). -/
def PStream.reset : PStream := ⟨0, 0, 0, 0, 0, 0, 0, false, 0, 0, 0, 0⟩

/-- R321, R322: a stream fill in flight: the line's physical address, the domain and virtual address it was translated for, its stream,
its level, the hint, pin and chaff of its access; whether its stream's declaration still runs; whether its line will be installed. -/
structure PFill where
  pa      : Nat
  dom     : DomNo
  va      : Nat
  stream  : Nat
  l2      : Bool
  hint    : Nat
  pin     : Bool
  chaff   : Bool
  live    : Bool
  install : Bool
  deriving DecidableEq, Repr

/-- R160: the core's interrupt registers. -/
structure IntRegs where
  ipend  : W32
  iroute0 : W64
  iroute1 : W64
  ilevel : W64
  flevel : W64
  tcmp   : W64
  deriving DecidableEq, Repr

/-- R160: reset values. -/
def IntRegs.reset : IntRegs := ⟨0, 0, 0, 0, 0, 0xFFFFFFFFFFFFFFFF⟩

/-- R509: one core performance counter. -/
structure PmcCnt where
  count  : W48
  sel    : W64
  reload : W48
  snap   : W48
  deriving DecidableEq, Repr

/-- R509: reset values. -/
def PmcCnt.reset : PmcCnt := ⟨0, 0, 0, 0⟩

/-- R509, R511: a counter set with its status register. -/
structure PmcSet where
  cnts    : Table PmcCnt
  snapgen : W16
  frozen  : Bool
  skewed  : Bool
  deriving DecidableEq, Repr

/-- R517: reset values. -/
def PmcSet.reset : PmcSet := ⟨[], 0, false, false⟩

end Sys2Proof.Machine
end

