-- ==== Sys2Proof/Machine/StateLink.lean ====
section
/-! DEFINITION. The state of the Prarik links: packets, ports, laser groups, the switches of the dies, trackers
(chapter 15). Plain data. -/

namespace Sys2Proof.Machine

/-- R450: a packet: its header fields and data. `bad` marks a non-zero reserved field. -/
structure Packet where
  kind   : Nat
  epoch  : Bool
  esc    : Bool
  hidx   : Nat
  hops   : Nat
  port0  : Nat
  port1  : Nat
  port2  : Nat
  dst    : Nat
  src    : Nat
  status : Nat
  srcdom : Nat
  tag    : Nat
  chan   : Nat
  op     : Nat
  addr   : Nat
  rowlen : Nat
  first  : Bool
  last   : Bool
  cseq   : Nat
  data   : List Byte
  bad    : Bool
  deriving DecidableEq, Repr

/-- A packet in a transmit queue, with how many of its bytes have left. -/
structure TxPkt where
  pkt  : Packet
  sent : Nat
  deriving DecidableEq, Repr

/-- R441: a data flit kept for replay. -/
structure FlitRec where
  seq     : BitVec 12
  vc      : Nat
  cls     : Nat
  payload : List Byte
  deriving DecidableEq, Repr

/-- R447: a packet in a receive buffer, with the pools of the flits that are freed with it (true: shared). -/
structure RxPkt where
  pkt     : Packet
  charges : List Bool
  deriving DecidableEq, Repr

/-- R447: one channel and class of a receive port: bytes of a packet not yet whole, their flits, whole packets. -/
structure RxChan where
  bytes   : List Byte
  charges : List Bool
  pkts    : List RxPkt
  deriving DecidableEq, Repr

/-- Nothing received. -/
def RxChan.empty : RxChan := ⟨[], [], []⟩

/-- R440-R444, R447, R464-R467: one port. Tables over channels are keyed by 4 x VC + class; credit returns owed by twice that plus
the pool. `state` is STATE; `txReq` and `rxReq` are lane masks asked for; `hist` marks the last 64 slots that management took;
`wire` is the last block sent. -/
structure Port where
  req      : Bool
  latched  : Bool
  lreq     : Bool
  state    : BitVec 3
  farmod   : BitVec 12
  farport  : BitVec 6
  farvalid : Bool
  idconf   : Bool
  txmask   : W16
  rxmask   : W16
  berhi    : W16
  spare    : W16
  crcerr   : W16
  uncorr   : W16
  retry    : W16
  retrain  : BitVec 8
  csym     : W48
  lber     : Table W32
  lcur     : Table W32
  txSeq    : BitVec 12
  rxSeq    : BitVec 12
  nak      : Bool
  nakSeen  : Bool
  rejects  : Nat
  progress : W64
  replay   : List FlitRec
  resend   : List FlitRec
  tx       : Table (List TxPkt)
  rx       : Table RxChan
  used     : Table Nat
  shared   : Nat
  rused    : Table Nat
  owed     : Table Nat
  txReq    : Option W16
  rxReq    : Option W16
  hist     : W64
  rr       : Nat
  wire     : List Byte
  deriving DecidableEq, Repr

/-- R467, R469: a port that is OFF, with every register and buffer zero. -/
def Port.reset : Port where
  req := false
  latched := false
  lreq := false
  state := 0
  farmod := 0
  farport := 0
  farvalid := false
  idconf := false
  txmask := 0
  rxmask := 0
  berhi := 0
  spare := 0
  crcerr := 0
  uncorr := 0
  retry := 0
  retrain := 0
  csym := 0
  lber := []
  lcur := []
  txSeq := 0
  rxSeq := 0
  nak := false
  nakSeen := false
  rejects := 0
  progress := 0
  replay := []
  resend := []
  tx := []
  rx := []
  used := []
  shared := 0
  rused := []
  owed := []
  txReq := none
  rxReq := none
  hist := 0
  rr := 0
  wire := []

/-- R436, R437: one laser group: lit, wavelengths whose own laser has failed, the wavelength the redundant laser serves, whether the
redundant laser has failed, wavelengths lost for good. -/
structure Lasers where
  lit      : Bool
  failed   : W16
  serves   : Option (Fin 16)
  spareBad : Bool
  lost     : W16
  deriving DecidableEq, Repr

/-- A dark group, every laser whole. -/
def Lasers.reset : Lasers := ⟨false, 0, none, false, 0⟩

/-- R452, R454, R468: the switch of a die. `retired` is the time of its last retirement plus one (0: none yet). -/
structure Switch where
  rt0    : Table W64
  rt1    : Table W64
  active : Bool
  busy   : Bool
  done   : Bool
  bretry : Table W16
  retired : W64
  deriving DecidableEq, Repr

/-- R468: reset values. -/
def Switch.reset : Switch := ⟨[], [], false, false, false, [], 0⟩

/-- R458: what a tracker's operation is. -/
inductive TrackOp where
  | read (eng : Engine) (seq : W32) (off n : Nat)
  | row (eng : Engine) (seq : W32)
  | close (eng : Engine) (seq : W32) (chan : Nat)
  | closeOnly (chan : Nat)
  | sync (core obj modu : Nat)
  | ring (chan : Nat) (seq : W32)
  | credit (chan : Nat) (seq : W32)
  | mgmt
  deriving DecidableEq, Repr

/-- R448, R455, R458: a tracker: its tag, operation, and the route its packet took. -/
structure Tracker where
  tag   : Nat
  op    : TrackOp
  dst   : Nat
  vc    : Nat
  epoch : Bool
  die   : Nat
  deriving DecidableEq, Repr

/-- Chapter 15: everything of the links. `tagTime` holds the time of each tag's last issue plus one; `mgmt` is Luami's receive ring,
`claims` the serials it has seen per id, `floods` the claims it is to send on (id, serial, hops); `atPods` the packets that have left
their link buffer and wait at the fabric port of a parked pod, with the die that took each (R25, R486). -/
structure LinkState where
  ports    : Table Port
  lasers   : Table Lasers
  switches : Table Switch
  trackers : List Tracker
  nextTag  : Nat
  tagTime  : Table W64
  mgmt     : List Packet
  claims   : Table (List W64)
  floods   : List (Nat × W64 × Nat)
  serial   : W64
  atPods   : List (Nat × Packet)
  deriving DecidableEq, Repr

/-- R469: reset values. -/
def LinkState.reset : LinkState := ⟨[], [], [], [], 0, [], [], [], [], 0, []⟩

end Sys2Proof.Machine
end

