-- ==== Sys2Proof/Machine/StateMem.lean ====
section
/-! DEFINITION. The state of domains and translation, of the last-level cache and HBM controllers, of the
die copy engines, of synchronisation objects, and of the event recorder and counters (chapters 05, 11, 12,
14, 17). Plain data. -/

namespace Sys2Proof.Machine

/-- R311: a host window of a domain. -/
structure HostWin where
  base  : Nat
  len   : Nat
  rd    : Bool
  wr    : Bool
  deriving DecidableEq, Repr

/-- No host window. -/
def HostWin.none : HostWin := ⟨0, 0, false, false⟩

/-- R133, R134, R145: one domain as Luami's domain table and registers hold it: state (0 FREE, 1 LIVE,
2 REVOKED), husking and sweeping, page-table root, vector table and double-fault registers, owned pages and page tables (address, size),
assigned cores, its HBM bytes (DOMAIN_CREATE), third-fault policy, granary backing object and resident quota, host windows,
granted device rights, pages that the granary cannot supply (R142), domains it lent hulls to,
its first internal mailbox. -/
structure Domain where
  state    : BitVec 2
  husking  : Bool
  sweeping : Bool
  ptroot   : BitVec 38
  vbase    : W64
  dfpc     : W64
  pages    : List (Nat × Nat)
  tables   : List (Nat × Nat)
  cores    : List Nat
  hbm      : Nat
  revokeOn3 : Bool
  backing  : Nat
  quota    : Nat
  wins     : Table HostWin
  rights   : List W128
  lost     : List Nat
  lends    : List DomNo
  mbx      : Nat
  deriving DecidableEq, Repr

/-- R134: a FREE domain. -/
def Domain.free : Domain := ⟨0, false, false, 0, 0, 0, [], [], [], 0, false, 0, 0, [], [], [], [], 0⟩

/-- R138: the hull sweep control register. -/
structure Sweep where
  domain : BitVec 12
  busy   : Bool
  done   : Bool
  nulled : W32
  deriving DecidableEq, Repr

/-- R336: a line in an LLC slot: dirty, poisoned, pinned by a keep access of its own (R341), with a chaff mark that waits for the
slot's lock (R343). -/
structure LineSt where
  dirty    : Bool
  poisoned : Bool
  pin      : Bool
  mark     : Bool
  deriving DecidableEq, Repr

/-- A line as a fill brings it. -/
def LineSt.clean : LineSt := ⟨false, false, false, false⟩

/-- R336: an LLC slot: pair address, its two lines, age, lock and the run of requests that keeps the lock. -/
structure Slot where
  pair   : Nat
  l0     : Option LineSt
  l1     : Option LineSt
  age    : Nat
  locked : Bool
  run    : Nat
  deriving DecidableEq, Repr

/-- An empty slot. -/
def Slot.empty : Slot := ⟨0, none, none, 0, false, 0⟩

/-- R346: a fill that waits for a way of its set, as the accesses accepted for its line so far leave the line: its status, its age,
and whether one of them asked for a pin. `split`: the line waits to leave a slot that it shares (R337). -/
structure WaitFill where
  line  : Nat
  st    : LineSt
  age   : Nat
  keep  : Bool
  split : Bool
  deriving DecidableEq, Repr

/-- One set of 16 slots (key: way), with the fills that wait for a locked set (R346). -/
structure LlcSet where
  slots   : Table Slot
  waiting : List WaitFill
  deriving DecidableEq, Repr

/-- An empty set. -/
def LlcSet.empty : LlcSet := ⟨[], []⟩

/-- R364: the registers of a slice. -/
structure SliceRegs where
  pinWays  : BitVec 4
  cmpEn    : Bool
  demoted  : W16
  ce       : W16
  ue       : Bool
  ueDirty  : Bool
  ueSet    : BitVec 11
  ueWay    : BitVec 4
  deriving DecidableEq, Repr

/-- R364: reset values. -/
def SliceRegs.reset : SliceRegs := ⟨8, true, 0, 0, false, false, 0, 0⟩

/-- R365: the registers of a stack controller, the patrol position and the banks held for repair. -/
structure StackRegs where
  ready  : Bool
  refx2  : Bool
  hold   : Bool
  sppr   : BitVec 8
  hppr   : BitVec 8
  scrubs : W16
  qfull  : W16
  ce     : W16
  odecc  : W16
  ue     : Bool
  uePc   : BitVec 6
  ueBank : BitVec 6
  ueRow  : BitVec 14
  patrol : Nat
  rowCe  : Table Nat
  refreshes : Nat
  hardRepairs : List Nat
  deriving DecidableEq, Repr

/-- R365: reset values. -/
def StackRegs.reset : StackRegs := ⟨false, false, false, 0, 0, 0, 0, 0, 0, false, 0, 0, 0, 0, [], 0, []⟩

/-- R353: a request to a bank: line number, whether it writes, and what the stack's check codes find on a read (R350). -/
structure HbmReq where
  line  : Nat
  write : Bool
  errs  : List MemErr
  deriving DecidableEq, Repr

/-- R308, R325: one die copy engine. -/
structure DieEngine where
  core : BitVec 8
  last : Nat
  item : Option CopyItem
  deriving DecidableEq, Repr

/-- An idle die engine, which has served no core: core order starts at core 0. -/
def DieEngine.idle : DieEngine := ⟨0, 255, none⟩

/-- R308: the die copy engines of one die: the pool in arrival order, the engines. -/
structure DiePool where
  pool    : List CopyItem
  engines : Table DieEngine
  deriving DecidableEq, Repr

/-- R308: an idle die. -/
def DiePool.reset : DiePool := ⟨[], []⟩

/-- R416: one waiter entry, in arrival order. -/
structure Waiter where
  party : WaitParty
  dom   : DomNo
  obj   : Nat
  wait  : SyncWait
  deriving DecidableEq, Repr

/-- R424, R425, R460: a stage-queue channel as this module holds it, both ends, with its CSEQ order state. -/
structure StageChan where
  tx      : Bool
  rx      : Bool
  dom     : DomNo
  farmod  : Nat
  fardom  : DomNo
  srcmod  : Nat
  srcdom  : DomNo
  wbase   : Nat
  wlen    : Nat
  fobj    : Nat
  reduce  : Bool
  cseqTx  : W16
  cseqRx  : W16
  broken  : Bool
  early   : List (Packet × Nat)
  refused : List Nat
  deriving DecidableEq, Repr

/-- An unconfigured channel. -/
def StageChan.none : StageChan := ⟨false, false, 0, 0, 0, 0, 0, 0, 0, 0, false, 0, 0, false, [], []⟩

/-- R427, R428: a queued ring descriptor and how far it has run: steps sent, steps acknowledged, credits sent, packets of the
present step not yet acknowledged, the first failure, and whether its SIGNAL is suppressed. -/
structure RingItem where
  seq     : W32
  addr    : Nat
  core    : Nat
  started : Bool
  src     : Nat
  len     : Nat
  steps   : Nat
  sig     : Signal
  sent    : Nat
  acked   : Nat
  credits : Nat
  owed    : Nat
  rstat   : Nat
  nosig   : Bool
  deriving DecidableEq, Repr

/-- R422, R426: a ring channel: configuration, hulls copied at configuration, queue and registers. -/
structure RingChan where
  on      : Bool
  dom     : DomNo
  nextmod : Nat
  nextdom : DomNo
  prevmod : Nat
  prevdom : DomNo
  blen    : Nat
  buf     : Nat
  nextbuf : Nat
  recv    : Nat
  used    : Nat
  credit  : Nat
  hmem    : W128
  hsync   : W128
  queue   : List RingItem
  next    : W32
  done    : W32
  err     : Bool
  ovf     : Bool
  rdone   : W64
  deriving DecidableEq, Repr

/-- An unconfigured ring channel. -/
def RingChan.none : RingChan := ⟨false, 0, 0, 0, 0, 0, 0, 0, 0, 0, 0, 0, 0, 0, [], 0, 0, false, false, 0⟩

/-- R404, R416-R423: the synchronisation objects: granted ranges (domain, first, count), words, resident
objects per die in the order taken, waiters, counters and registers, peer table, per core the posted remote
operations not yet acknowledged, each (tag, object, module, strand). -/
structure SyncState where
  grants   : List (DomNo × Nat × Nat)
  words    : Table W64
  resident : Table (List Nat)
  fills    : Table W16
  spills   : Table W16
  waiters  : List Waiter
  rerr     : Table W64
  spbase   : W64
  peers    : List (Nat × DomNo × DomNo)
  remote   : Table (List (Nat × Nat × Nat × Nat))
  chans    : Table StageChan
  rings    : Table RingChan
  deriving DecidableEq, Repr

/-- R421: cold power-on and module reset clear every grant, object and pairing. -/
def SyncState.reset : SyncState := ⟨[], [], [], [], [], [], [], 0, [], [], [], []⟩

/-- R496: one occurrence: code, value, multiplicity, DET, TIME, raising die. -/
structure Occ where
  code  : Nat
  value : W32
  n     : W16
  det   : W64
  time  : W64
  die   : Nat
  deriving DecidableEq, Repr

/-- R499, R500: the aggregates of one event code (word 7 apart), with LASTNOTE and NOTECOUNT. -/
structure EvrRec where
  count   : W48
  first   : W64
  last    : W64
  min     : W32
  max     : W32
  folded  : W32
  lastval : W32
  det     : W64
  bins    : Table W32
  lastnote : Option Nat
  notecount : W48
  deriving DecidableEq, Repr

/-- R499: reset values. -/
def EvrRec.reset : EvrRec := ⟨0, 0, 0, 0xFFFFFFFF, 0, 0, 0, 0, [], none, 0⟩

/-- R501: a notification entry. -/
structure Note where
  code  : Nat
  delta : W32
  last  : W64
  deriving DecidableEq, Repr

/-- R503: an always-on store entry. -/
structure AosEntry where
  code  : Nat
  value : W32
  det   : W64
  time  : W64
  bootn : W32
  deriving DecidableEq, Repr

/-- Chapter 17: the event recorder: collectors of the five dies, records, word 7 of each record where it is not the catalogue's
default, notification ring, NQLOST, persistence sequence, always-on store and its NOR copy, the clear in progress with the mailbox
that asked for it, held clears (first, last, mailbox). -/
structure Recorder where
  collectors : Table (List Occ)
  records    : Table EvrRec
  w7         : Table (Option W64)
  notes      : List Note
  nqlost     : W16
  seq        : W32
  aos        : List AosEntry
  aosNor     : List AosEntry
  clearing   : Option (Option Nat)
  heldClears : List (Nat × Nat × Nat)
  deriving DecidableEq, Repr

/-- R517: a recorder with nothing recorded. -/
def Recorder.reset : Recorder := ⟨[], [], [], [], 0, 0, [], [], none, []⟩

/-- R514, R515: one bandwidth monitor, with the bytes of the open window. -/
structure BwMon where
  valid   : Bool
  last0   : W48
  last1   : W48
  min0    : W48
  max0    : W48
  min1    : W48
  max1    : W48
  windows : W32
  cur0    : W48
  cur1    : W48
  deriving DecidableEq, Repr

/-- R515: reset values. -/
def BwMon.reset : BwMon := ⟨false, 0, 0, 0xFFFFFFFFFFFF, 0, 0xFFFFFFFFFFFF, 0, 0, 0, 0⟩

/-- R512: a pending capture: mode (0 snapshot, 1 freeze, 2 unfreeze), instant, requester (a mailbox number, or
none for the trigger object). -/
structure Capture where
  mode : Nat
  tc   : W64
  mbx  : Option Nat
  deriving DecidableEq, Repr

/-- R511-R515: the counters of the five dies and the module-wide counter registers. -/
structure DiePmc where
  sets    : Table PmcSet
  bwwin   : Table W64
  mons    : Table BwMon
  avail   : Bool
  frozen  : Bool
  snapgen : W16
  missed  : W16
  trig    : W64
  capture : Option Capture
  deriving DecidableEq, Repr

/-- R511-R515: reset values. -/
def DiePmc.reset : DiePmc := ⟨[], [], [], false, false, 0, 0, 0, none⟩

end Sys2Proof.Machine
end

