-- ==== Sys2Proof/Machine/StateUnits.lean ====
section
/-! DEFINITION. The state of a core's units: tile registers, matrix arrays, accumulators, drain unit, stream
engine (chapters 07, 08, 09, 10). Plain data. -/

namespace Sys2Proof.Machine

/-- R165, R176: one tile: its rows (128 bytes each) and its table store. -/
structure Tile where
  rows  : Table (BitVec 1024)
  table : BitVec 256
  deriving DecidableEq, Repr

/-- A zeroed tile. -/
def Tile.zero : Tile := ⟨[], 0⟩

/-- R157, R186: the hold of an interrupted or faulted transfer; `ord` is its place in the core issue order (R178). -/
structure Held where
  row    : Nat
  holder : Nat
  store  : Bool
  tile   : Nat
  thpc   : VAddr
  ord    : Nat
  deriving DecidableEq, Repr

/-- What a group's transfer engine runs (R166, R181). -/
inductive XferKind where
  | load | store | zero | move (srcGroup srcTile : Nat)
  deriving DecidableEq, Repr

/-- R182: the instruction a group's engine runs: operands as read at issue, and the next row. -/
structure TileXfer where
  kind    : XferKind
  strand  : Nat
  tile    : Nat
  base    : Nat
  stride  : Int
  hreg    : Nat
  hint    : Nat
  noalloc : Bool
  table   : Bool
  next    : Nat
  ord     : Nat
  deriving DecidableEq, Repr

/-- R164-R186: one tile group. `pendCfg` is a checked TCFG block that waits for the group, with
its strand and place in the issue order (R172). -/
structure TileGroup where
  cfg     : Table W32
  tiles   : Table Tile
  held    : Option Held
  xfer    : Option TileXfer
  pendCfg : Option (List Nat × Nat × Nat)
  deriving DecidableEq, Repr

/-- R192: reset values. -/
def TileGroup.reset : TileGroup := ⟨[], [], none, none, none⟩

/-! ### Matrix arrays (chapter 08) -/

/-- R225: a slot's mode: 0 none, 1 anchored, 2 ordered FP32, 3 ordered FP64; the anchor when anchored. -/
structure SlotMode where
  mode   : Nat
  anchor : Int
  deriving DecidableEq, Repr

/-- R225: mode none. -/
def SlotMode.none : SlotMode := ⟨0, 0⟩

/-- R194, R195: a set of weights: format, TC4 entry type, sparsity (0 dense, 1 2:4, 2 4:8), MX scales, physical rows;
the logical rows, metadata rows and scale rows as little-endian numbers, and the TC4 table. -/
structure WeightSet where
  fmt    : Nat
  tbl    : Bool
  sparse : Nat
  scaled : Bool
  nrows  : Nat
  data   : Table Nat
  mdat   : Table Nat
  scl    : Table Nat
  tc4    : BitVec 256
  deriving DecidableEq, Repr

/-- R206-R211: a reload for one array: its place in the issue order, the weight operand's group, first tile and tile
count, the arrays the MWLD selects and SAME, the weight set with the validated metadata and scales, and whether the shift of another
array of a SAME reload has already read the rows for this one. -/
structure Reload where
  ord   : Nat
  group : Nat
  tile  : Nat
  span  : Nat
  mask  : Nat
  same  : Bool
  ws    : WeightSet
  taken : Bool
  deriving DecidableEq, Repr

/-- R199, R213, R215, R217: a pass for one array. `lock` is the XMASK of a broadcast, 0 for a stream of an MMAQ; `two`: a slot carries
both activation rows of a tile row (ρ = 2); `next`: the slots that have entered the edge. -/
structure Pass where
  ord    : Nat
  group  : Nat
  tile   : Nat
  span   : Nat
  bpr    : Nat
  fmt    : Nat
  scale  : Option Nat
  paired : Bool
  k      : Nat
  n      : Nat
  m      : Nat
  mask   : W64
  slot   : Nat
  mode   : SlotMode
  zero   : Bool
  lock   : Nat
  two    : Bool
  next   : Nat
  deriving DecidableEq, Repr

/-- R215: an item of an array's queue. -/
inductive MatItem where
  | reload (x : Reload)
  | pass (x : Pass)
  deriving DecidableEq, Repr

/-- R203: a pass in an array: the activation rows that still owe results (as numbers), their scale rows, the weights
they meet, and the columns already added for each row; `lock` and `two` as in the pass; `perrs`: the parity errors already recorded for
a slot of two rows, as (slot, PE row, column) (R221). -/
structure Flight where
  ord    : Nat
  slot   : Nat
  mode   : SlotMode
  k      : Nat
  n      : Nat
  fmt    : Nat
  scaled : Bool
  acts   : Table Nat
  scl    : Table Nat
  ws     : WeightSet
  done   : Table Nat
  lock   : Nat
  two    : Bool
  perrs  : List (Nat × Nat × Nat)
  deriving DecidableEq, Repr

/-- R179, R194, R195, R215, R220: one array: queue, passes in it, the weight state the checks use, shadow and active
weights, parity flag, and the two reuse latches' tags. -/
structure MatArray where
  queue   : List MatItem
  flights : List Flight
  wstate  : Option WeightSet
  shadow  : Option WeightSet
  active  : Option WeightSet
  perr    : Bool
  latchA  : Option Nat
  latchW  : Option Nat
  deriving DecidableEq, Repr

/-- R222: an array at reset. -/
def MatArray.reset : MatArray := ⟨[], [], none, none, none, false, none, none⟩

/-- R207: an MWLD in validation: its strand, the reload of each array it names, and the metadata and scale tiles it reads (group, tile,
rows). -/
structure Validation where
  strand : Nat
  loads  : List (Nat × Reload)
  metas  : List (Nat × Nat × Nat)
  deriving DecidableEq, Repr

/-! ### Accumulators and the drain unit (chapter 09) -/

/-- R244-R247: an item of the drain unit's queue. KIND: 0 drain to tile, 1 drain to memory, 2 MSAVE, 3 MRESTORE. -/
structure DrainItem where
  kind    : Nat
  ord     : Nat
  seq     : W32
  strand  : Nat
  slot    : Nat
  mode    : SlotMode
  word    : W64
  addr    : Nat
  paddr   : Nat
  hd      : W128
  hp      : W128
  seed    : W64
  started : Bool
  par     : List Byte
  next    : Nat
  nf      : Nat
  cancelled : Bool
  deriving DecidableEq, Repr

/-- R224-R256: accumulator memory (element key: slot x 4096 + row x 64 + column), pending clears (slot, order), the
drain unit's queue and registers, activation tables, Luami's stores to them that wait for drains (offset, value; R239). -/
structure AccUnit where
  modes  : Table SlotMode
  elems  : Table W128
  clears : List (Nat × Nat)
  queue  : List DrainItem
  dnext  : W32
  ddone  : W32
  seed   : W64
  nan    : Nat
  infc   : Nat
  thresh : Nat
  ecc    : W64
  tdq    : Table W64
  trng   : Table W64
  tinf   : Table W64
  atbl   : Table W64
  held   : List (Nat × W64)
  deriving DecidableEq, Repr

/-- R259: reset values. -/
def AccUnit.reset : AccUnit := ⟨[], [], [], [], 0, 0, 0, 0, 0, 0, 0, [], [], [], [], []⟩

/-! ### The stream engine (chapter 10) -/

/-- R281-R287: a queued descriptor: its bytes as read at SSUB, the hulls it names, its place among the core's stores and tile
accesses; once started, whether its element phase ran, its status, non-finite count and ROUTE counts (expert, count), and whether its SIGNAL is withheld. -/
structure StreamItem where
  seq     : W32
  snap    : Nat
  ord     : Nat
  desc    : List Byte
  hd      : W128
  ht      : W128
  hs      : W128
  started : Bool
  ran     : Bool
  status  : Nat
  nf      : Nat
  counts  : List (Nat × Nat)
  nosig   : Bool
  deriving DecidableEq, Repr

/-- R261, R283, R292: the stream engine: queue, sequence, counts, records, and the chain buffers (key: buffer x 16,384 + byte). -/
structure StreamUnit where
  queue  : List StreamItem
  snext  : W32
  sdone  : W32
  nan    : Nat
  infc   : Nat
  thresh : Nat
  oob    : Nat
  drop   : Nat
  ecc    : W64
  records : Table W64
  chain  : Table Byte
  deriving DecidableEq, Repr

/-- R295: reset values. -/
def StreamUnit.reset : StreamUnit := ⟨[], 0, 0, 0, 0, 0, 0, 0, 0, [], []⟩

end Sys2Proof.Machine
end

