-- ==== Sys2Proof/Machine/StateUpd.lean ====
section
/-! DEFINITION. The state of the update units, the schedule engine and the loss monitor (chapter 13). Plain data. -/

namespace Sys2Proof.Machine

/-- R370-R375: a submitted descriptor: sequence number, address, submitting core; once begun, its bytes. `stage` is 0 before the
start checks, the number of the step of R375 it has reached while it waits (5, 7, 8), 9 in its element phase, 10 when that is
over. In its element phase: the rule read, rows handled, non-finite counts, the column sums and total (WX128), and what R382
computes once: c2, q, eta, mean and the column statistics bnew. `cancel`: it was cancelled behind others and
has completed (R156, R402); it leaves the queue in its turn. -/
structure UpdItem where
  seq    : W32
  addr   : Nat
  core   : Nat
  stage  : Nat
  desc   : List Byte
  status : Nat
  nosig  : Bool
  rule   : List Byte
  row    : Nat
  nan    : Nat
  infc   : Nat
  frozen : Nat
  csum   : Table W128
  tsum   : W128
  begun  : Bool
  c2     : Nat
  q      : Nat
  eta    : Nat
  mean   : Nat
  bnew   : Table Nat
  cancel : Bool
  deriving DecidableEq, Repr

/-- R370: a descriptor as submitted. -/
def UpdItem.queued (seq : W32) (addr core : Nat) : UpdItem :=
  ⟨seq, addr, core, 0, [], 0, false, [], 0, 0, 0, 0, [], 0, false, 0, 0, 0, 0, [], false⟩

/-- R369, R399: a submission queue: bound domain and hull slots HS0-HS5, descriptors, registers and records. -/
structure UpdQueue where
  bound : Bool
  dom   : DomNo
  hs    : Table W128
  items : List UpdItem
  done  : W32
  ovf   : Bool
  err   : Bool
  recs  : Table W64
  deriving DecidableEq, Repr

/-- An unbound queue. -/
def UpdQueue.reset : UpdQueue := ⟨false, 0, [], [], 0, false, false, []⟩

/-- R399: an update unit: queue last served, whether an element phase runs, counts, rule stage, rules (key: rule x 8 + word),
queues. -/
structure UpdUnit where
  runq    : Nat
  running : Bool
  nan     : Nat
  infc    : Nat
  stage   : Table W64
  rules   : Table W64
  queues  : Table UpdQueue
  deriving DecidableEq, Repr

/-- R403: reset values; queue order starts at queue 0. -/
def UpdUnit.reset : UpdUnit := ⟨0, false, 0, 0, [], [], []⟩

/-- R389, R400: a schedule slot, with the domain it is granted to. -/
structure SchedSlot where
  dom     : DomNo
  rate    : W64
  shape   : W64
  decay   : W64
  restart : W64
  count   : W32
  shard   : W64
  eta     : W32
  cfgerr  : Bool
  deriving DecidableEq, Repr

/-- R400: reset values. -/
def SchedSlot.reset : SchedSlot := ⟨0, 0, 0, 0, 0, 0, 0, 0, false⟩

/-- R393, R401: a loss-monitor slot, with the domain it is granted to. STATE: 0 none, 1 PENDING, 2 OPEN, 3 CLOSED; REASON: 0 none,
1 SPIKE, 2 NONFINITE, 3 NOLOSS. -/
structure LossSlot where
  dom    : DomNo
  cfg0   : W64
  cfg1   : W64
  mean   : W32
  var    : W32
  nsamp  : W32
  step   : W32
  state  : BitVec 2
  reason : BitVec 2
  spike  : Bool
  nfacc  : BitVec 24
  closed : W16
  deriving DecidableEq, Repr

/-- R401: reset values. -/
def LossSlot.reset : LossSlot := ⟨0, 0, 0, 0, 0, 0, 0, 0, 0, false, 0, 0⟩

/-- Chapter 13: update units, schedule slots, loss-monitor slots, LMON_CLINK of each core, commits on their way to a slot
(slot, step). -/
structure UpdState where
  units   : Table UpdUnit
  sched   : Table SchedSlot
  loss    : Table LossSlot
  clink   : Table W64
  commits : List (Nat × W32)
  deriving DecidableEq, Repr

/-- R403: reset values. -/
def UpdState.reset : UpdState := ⟨[], [], [], [], []⟩

end Sys2Proof.Machine
end

