-- ==== Sys2Proof/Machine/StateMgmt.lean ====
section
/-! DEFINITION. The state of the management plane: mailboxes and PCIe functions, power and monitors, staged configuration, the
granary, boot, life cycle and firmware, the input supply, side-band and JTAG (chapters 02, 16, 18, 19, 20). Plain data. -/

namespace Sys2Proof.Machine

/-! ### Mailboxes and PCIe functions (chapter 16) -/

/-- R472, R473: a mailbox: command buffer (its listed bytes), the captured command, response buffer, MBX_CTL and MBX_CFG, the
domain an internal mailbox is granted to. `since` is TIME at acceptance; `stage` is 0 until Luami has begun the command, 1 while it
waits to respond, with the times or numbers it must remember in `arg`; `drop` discards the response. -/
structure Mbx where
  cmd   : Table Byte
  cap   : List Byte
  rsp   : List Byte
  busy  : Bool
  done  : Bool
  ovr   : Bool
  count : W16
  cfg   : W64
  dom   : DomNo
  since : W64
  stage : Nat
  arg   : List Nat
  drop  : Bool
  deriving DecidableEq, Repr

/-- R472: reset values. -/
def Mbx.reset : Mbx := ⟨[], [], [], false, false, false, 0, 0, 0, 0, 0, [], false⟩

/-- R480, R482, R483: a PCIe function: its bound domain (for the PF the domain of its latest BAR2_WINDOW), BAR2 window base,
objects bound to vectors, MSI-X table (an entry resets with its mask bit set) and pending bits; `rdata` is the data its
latest BAR2 read returned. -/
structure Func where
  dom  : DomNo
  win  : Option Nat
  irqs : Table (Option Nat)
  msix : Table W128
  pba  : List Nat
  rdata : List Byte
  deriving DecidableEq, Repr

/-- No binding. -/
def Func.reset : Func := ⟨0, none, [], [], [], []⟩

/-! ### Power and monitors (chapters 02, 16) -/

/-- R486, R487, R491: a pod's PWR_POD fields; `ready` says that the data-plane part of a park or unpark
sequence is over, `forced` that a pod reset parks it (R553); consecutive samples out of limits (R492); whether a throttling has
begun (R488). -/
structure PodReg where
  reqv    : BitVec 8
  thermv  : BitVec 8
  capv    : BitVec 8
  targetv : BitVec 8
  vdd     : BitVec 8
  state   : BitVec 3
  latched : Bool
  lreq    : Bool
  hot105  : Bool
  pace    : BitVec 3
  tj      : BitVec 8
  floorup : BitVec 3
  ready   : Bool
  forced  : Bool
  outs    : Nat
  throt   : Bool
  deriving DecidableEq, Repr

/-- R491: reset values; REQV and TARGETV as Luami loads them. -/
def PodReg.reset : PodReg := ⟨0xA0, 0xFA, 0xFA, 0xA0, 0, 0, false, false, false, 0, 0, 0, false, false, 0, false⟩

/-- R491: a temperature sensor: TEMP in units of 0.125 degC, VALID, TMAX. -/
structure Sensor where
  temp  : BitVec 12
  valid : Bool
  tmax  : BitVec 12
  deriving DecidableEq, Repr

/-- R491: reset values. -/
def Sensor.reset : Sensor := ⟨0, false, 0⟩

/-- R491: a rail monitor. -/
structure VMon where
  volt : W16
  uv   : Bool
  ov   : Bool
  vmin : W16
  vmax : W16
  deriving DecidableEq, Repr

/-- R491: reset values. -/
def VMon.reset : VMon := ⟨0, false, false, 0xFFFF, 0⟩

/-- R41: a delay monitor; `below` says that the latest valid sample was below the floor. -/
structure DMon where
  rate    : W16
  rmin    : W16
  rmax    : W16
  vdd     : BitVec 8
  valid   : Bool
  slewing : Bool
  floor   : Bool
  below   : Bool
  deriving DecidableEq, Repr

/-- R41: reset values. -/
def DMon.reset : DMon := ⟨0, 0xFFFF, 0, 0, false, false, false, false⟩

/-- R493: a staged change: PIN_LIMIT on stacks, the monitor windows, a core's loss link, or one slice's LLC_CFG. -/
inductive Staged where
  | pinLimit (mask : W16) (ways : BitVec 4) (cmp : Bool)
  | bwWindow (win : BitVec 17)
  | clink (core : Nat) (word : W64)
  | slice (n : Nat) (ways : BitVec 4) (cmp : Bool)
  deriving DecidableEq, Repr

/-- R493: the staged configuration: accepted changes in order with the mailbox of each, the change in the shadow copies,
PWR_EPOCH, the units that have not flipped. -/
structure Epoch where
  waiting : List (Option Nat × Staged)
  shadow  : Option (Option Nat × Staged)
  gen     : W16
  busy    : Bool
  done    : Bool
  todo    : List EpochUnit
  deriving DecidableEq, Repr

/-- R493: reset values. -/
def Epoch.reset : Epoch := ⟨[], none, 0, false, false, []⟩

/-- Chapters 02 and 16: PWR_CAP, PWR_MOD, pods, sensors, rails, delay monitors; ALERT causes that stand now and that have not been
acknowledged; the tick index; tick-bound commands accepted, oldest first (mailboxes). -/
structure Pwr where
  cap     : BitVec 13
  pwr     : BitVec 13
  peak    : BitVec 13
  overcap : Bool
  oph     : Bool
  vin     : BitVec 10
  flow    : BitVec 10
  pods    : Table PodReg
  tsens   : Table Sensor
  vmon    : Table VMon
  dmon    : Table DMon
  causes  : BitVec 6
  unacked : BitVec 6
  tick    : Nat
  tcmds   : List Nat
  deriving DecidableEq, Repr

/-- R491: reset values; CAP as Luami loads it. -/
def Pwr.reset : Pwr := ⟨4200, 0, 0, false, false, 0, 0, [], [], [], [], 0, 0, 0, []⟩

/-! ### The granary (chapter 18) -/

/-- R519, R529, R531: an object: attributes, committed image (bytes not listed are zero) with the data units that read as
uncorrectable, open image, bytes written since the commit, the data units written since, and for a backing object the pages paged out
into it: virtual address and bytes (R360). -/
structure GrnObj where
  kind    : Nat
  key     : Nat
  cap     : Nat
  gen     : W64
  clen    : Nat
  ctime   : W64
  data    : Table Byte
  bad     : List Nat
  opened  : Table Byte
  written : Nat
  fresh   : List Nat
  paged   : Table (Table Byte)
  deriving DecidableEq, Repr

/-- What reading an id that names no object gives. -/
def GrnObj.none : GrnObj := ⟨0, 0, 0, 0, 0, 0, [], [], [], 0, [], []⟩

/-- R526-R530: an outstanding transfer: number, domain, direction, host window, object, offset, length, memory address, SIGNAL,
bytes moved, status once it has ended; for a read, the image it works on (R529): its length, bytes, uncorrectable units. -/
structure GrnXfer where
  num    : W32
  dom    : DomNo
  write  : Bool
  win    : Option Nat
  obj    : Nat
  off    : Nat
  len    : Nat
  addr   : Nat
  sig    : Option W64
  moved  : Nat
  status : Option Nat
  clen   : Nat
  src    : Table Byte
  bad    : List Nat
  deriving DecidableEq, Repr

/-- Chapter 18: the granary: GRN_STAT, objects, keys with their quotas (none where a key does not exist), domain bindings, outstanding
transfers in acceptance order, capacity a deleted object holds until its reads end (object, bytes, key), object ids used so far, transfers numbered, bytes written over
life, GRN_WEAR, GRN_BLK and GRN_ERR, the hold-up time that the next boot reports; `material`: the AES-256-XTS key pair that the secure key
store holds for each key (R523). -/
structure Granary where
  ready    : Bool
  holdup   : Bool
  holding  : Bool
  heldMs   : Nat
  objs     : Table GrnObj
  keys     : Table (Option Nat)
  binds    : Table Nat
  xfers    : List GrnXfer
  dying    : List (Nat × Nat × Nat)
  usedIds  : List Nat
  nextXfer : W32
  written  : Nat
  avgpe    : BitVec 12
  factbad  : W16
  grownbad : W16
  spare    : BitVec 10
  corrhi   : W16
  uncorr   : W16
  refresh  : W16
  material : Table (Option (BitVec 512))
  deriving DecidableEq, Repr

/-- A granary that holds nothing; spare blocks 200 per mille (log entry 40). -/
def Granary.reset : Granary :=
  ⟨false, false, false, 0, [], [], [], [], [], [], 0, 0, 0, 0, 0, 200, 0, 0, 0, []⟩

/-! ### Boot, life cycle and firmware (chapter 19) -/

/-- What the module does as a whole: lockout, in module reset, boot held at step 4, boot that does not go on, running, held off, halted for want of a reference,
recovery. -/
inductive PowerState where
  | lockout | held | waitCool | stalled | running | heldOff | halted | recovery
  deriving DecidableEq, Repr

/-- R546, R564: a Luami slot: its image, PENDING, VALID. -/
structure LuamiSlot where
  img     : FwImage
  owed    : Bool
  valid   : Bool
  deriving DecidableEq, Repr

/-- Chapter 19: boot and firmware: module state, reset pins, whether boot waits for V_IN, whether V_IN has been below 40 V since the
power loss, BOOT_STAT, slots, rollback counter, the runtime that RUNTIME_LOAD copies and the one measured at boot, the latest verified
staged image of each component with its granary object, hold-up replay, whether this is a trial boot, codes and slots to record at the end of boot, the slot
that failed its trial in the previous boot, the cause of a module reset that has been asked for and not begun (R544, R558). -/
structure Boot where
  state    : PowerState
  perst    : Bool
  modrst   : Bool
  waitVin  : Bool
  lowVin   : Bool
  bootn    : W32
  cause    : BitVec 3
  slot     : Bool
  fallback : Bool
  phase    : BitVec 4
  done     : Bool
  bootms   : W16
  a        : LuamiSlot
  b        : LuamiSlot
  roll     : W16
  runtime  : FwImage
  measured : FwImage
  staged   : Table (Option (Nat × FwImage))
  replay   : Bool
  trial    : Bool
  notes    : List (Nat × Nat)
  skip     : Option Bool
  due      : Option Nat
  deriving DecidableEq, Repr

/-- R556, R557, R565: the life cycle: state, TRANS, module id stored if any, serial, nonce of the latest challenge, signature parts
loaded, the state that a transition left and the next boot reports. -/
structure LifeCycle where
  state  : BitVec 3
  trans  : Bool
  modid  : Option (BitVec 12)
  serial : W64
  nonce  : Option (List Byte)
  token  : Table (List Byte)
  left   : Option (BitVec 3)
  deriving DecidableEq, Repr

/-! ### Side-band and JTAG (chapters 16, 20) -/

/-- R494: the side-band endpoints: I3C dynamic address, MCTP endpoint ids (0 I3C, 1 PCIe VDM), SPDM negotiation (0 none, 1 version, 2
capabilities, 3 algorithms), the latest reply on each path. -/
structure Sideband where
  i3c     : Option (BitVec 7)
  eids    : Table (BitVec 8)
  spdm    : Table Nat
  replies : Table (Option Reply)
  deriving DecidableEq, Repr

/-- Nothing assigned. -/
def Sideband.reset : Sideband := ⟨none, [], [], []⟩

/-- Chapters 16-20: the management plane. `msgs` are MSI-X messages (function, vector) on their way to the host; `opened` says that the
input switch is open; `jtag` the TAP's current instruction; `pcieDown` says that the PCIe island's PLL has lost lock, and
`stopped` holds the value at which a die's replica of TIME stands since its PLL has (R45). -/
structure Mgmt where
  mbx    : Table Mbx
  served : Nat
  funcs  : Table Func
  msgs   : List (Nat × Nat)
  pwr    : Pwr
  epoch  : Epoch
  grn    : Granary
  boot   : Boot
  lc     : LifeCycle
  side   : Sideband
  opened : Bool
  jtag   : BitVec 8
  pcieDown : Bool
  stopped : Table (Option (BitVec 64))
  deriving DecidableEq, Repr

/-- The images the module is shipped with (log entry 41). -/
def shippedImage : FwImage := ⟨true, 1, 1, true, []⟩

/-- An empty slot holds no image (R546). -/
def noImage : FwImage := ⟨false, 0, 0, false, []⟩

/-- R541-R546: held in module reset before the first boot; slot A holds the shipped image, slot B none, the rollback counter is slot A's
ROLLIDX; CAUSE 0. -/
def Boot.reset : Boot where
  state := .held
  perst := false
  modrst := false
  waitVin := false
  lowVin := false
  bootn := 0
  cause := 0
  slot := false
  fallback := false
  phase := 0
  done := false
  bootms := 0
  a := ⟨shippedImage, false, true⟩
  b := ⟨noImage, false, false⟩
  roll := 1
  runtime := shippedImage
  measured := shippedImage
  staged := []
  replay := false
  trial := false
  notes := []
  skip := none
  due := none

/-- R556: shipped in PROVISIONED with no module id. -/
def LifeCycle.reset : LifeCycle := ⟨1, false, none, 0, none, [], none⟩

/-- The management plane right after reset; the TAP comes out of reset in IDCODE (log entry 42). -/
def Mgmt.reset : Mgmt :=
  ⟨[], 319, [], [], Pwr.reset, Epoch.reset, Granary.reset, Boot.reset, LifeCycle.reset, Sideband.reset, false, 0x01, false, []⟩

end Sys2Proof.Machine
end

