-- ==== Sys2Proof/Machine/State.lean ====
section
/-! DEFINITION. The state of the module, the stops of a step, and the state right after reset. Plain data. -/

namespace Sys2Proof.Machine

/-- A stop of the model. -/
inductive Fault where
  /-- Raised by a command whose operand is a physical address that does not exist (R20, R21: a hole). Safe: the
  spec gives such an access no effect, and no row of the spec makes one. -/
  | addressHole
  deriving DecidableEq, Repr

/-- A command without a meaning. -/
inductive Refusal where
  /-- The command has no meaning yet. Safe: the model stops. -/
  | notModelled (mnemonic : String)
  deriving DecidableEq, Repr

/-- One core (R16, R94, R86, R90, R98, R160, R331, R333, R363, R509) and its units. -/
structure Core where
  domain   : DomNo
  strands  : Table Strand
  last     : Nat
  ibufs    : Table (List (VAddr × W32))
  wbuf     : List StoreEntry
  serial   : Nat
  l1d      : Table L1Line
  l1i      : Table L1Line
  l1dCount : W16
  l1iCount : W16
  tlb      : List TlbEntry
  int      : IntRegs
  tiles    : Table TileGroup
  tileEcc  : W64
  ord      : Nat
  mats     : Table MatArray
  vals     : List Validation
  acc      : AccUnit
  str      : StreamUnit
  cpy      : CopyUnit
  pst      : Table PStream
  pfills   : List PFill
  pmc      : PmcSet
  deriving DecidableEq, Repr

/-- A core at reset. -/
def Core.reset : Core :=
  ⟨0, [], 7, [], [], 0, [], [], 0, 0, [], IntRegs.reset, [], 0, 0, [], [], AccUnit.reset, StreamUnit.reset, CopyUnit.reset, [], [], PmcSet.reset⟩

/-- The whole module. `mem` is physical memory as its homes serve it (HBM through the home slices, and the
scratchpads); `hbm` is what the stacks themselves hold, which differs only for dirty lines (R330). `revokeQ` lists
the domains Luami has decided to revoke. `check` is what the check codes of memory find during the command in hand, by physical address
div 16: none between commands. `freeCtr` is the model's own: it numbers the free values. -/
structure State where
  moduleId : BitVec 12
  time     : W64
  cores    : Table Core
  doms     : Table Domain
  sweep    : Sweep
  mem      : List Host.Cell
  hbm      : List Host.Cell
  llc      : Table LlcSet
  slices   : Table SliceRegs
  hbmStacks   : Table StackRegs
  banks    : Table (List HbmReq)
  hbmWait  : Table (List HbmReq)
  sliceIn  : Table (List HbmReq)
  diePools : Table DiePool
  sync     : SyncState
  link     : LinkState
  upd      : UpdState
  mgmt     : Mgmt
  evr      : Recorder
  pmc      : DiePmc
  revokeQ  : List DomNo
  alert    : Bool
  check    : ErrMap
  freeCtr  : Nat
  pending  : List Instr
  deriving DecidableEq, Repr

/-- The module right after reset. -/
def State.reset : State where
  moduleId := 0
  time := 0
  cores := []
  doms := []
  sweep := ⟨0, false, false, 0⟩
  mem := []
  hbm := []
  llc := []
  slices := []
  hbmStacks := []
  banks := []
  hbmWait := []
  sliceIn := []
  diePools := []
  sync := SyncState.reset
  link := LinkState.reset
  upd := UpdState.reset
  mgmt := Mgmt.reset
  evr := Recorder.reset
  pmc := DiePmc.reset
  revokeQ := []
  alert := false
  check := []
  freeCtr := 0
  pending := []

end Sys2Proof.Machine
end

