-- ==== Sys2Proof/Machine/Ops.lean ====
section
/-! DEFINITION. Named operations over the state: access to cores, strands, banks and registers; the physical
address map; physical memory; occurrences, interrupts and counters. Every meaning is built from these. -/

namespace Sys2Proof.Machine

/-- The outcome of a command. -/
abbrev Out := Host.Outcome State Fault Refusal

/-! ### Cores, strands, banks, registers -/

/-- Core `c`. -/
def State.core (s : State) (c : Nat) : Core := tget Core.reset s.cores c

/-- Replace core `c`. -/
def State.setCore (s : State) (c : Nat) (k : Core) : State := { s with cores := tset Core.reset s.cores c k }

/-- Apply `f` to core `c`. -/
def State.modCore (s : State) (c : Nat) (f : Core → Core) : State := s.setCore c (f (s.core c))

/-- Strand `i` of a core. -/
def Core.strand (k : Core) (i : Nat) : Strand := tget Strand.reset k.strands i

/-- Replace strand `i` of a core. -/
def Core.setStrand (k : Core) (i : Nat) (t : Strand) : Core := { k with strands := tset Strand.reset k.strands i t }

/-- The strand at a site. -/
def State.strand (s : State) (w : Site) : Strand := (s.core w.core.val).strand w.strand.val

/-- Replace the strand at a site. -/
def State.setStrand (s : State) (w : Site) (t : Strand) : State :=
  s.modCore w.core.val fun k => k.setStrand w.strand.val t

/-- Apply `f` to the strand at a site. -/
def State.modStrand (s : State) (w : Site) (f : Strand → Strand) : State := s.setStrand w (f (s.strand w))

/-- R144: the bank that is running. -/
def Strand.bank (t : Strand) : Bank :=
  match t.cur with
  | .s0 => t.b0
  | .s1 => t.b1
  | .s2 => t.b2

/-- Replace the running bank. -/
def Strand.setBank (t : Strand) (b : Bank) : Strand :=
  match t.cur with
  | .s0 => { t with b0 := b }
  | .s1 => { t with b1 := b }
  | .s2 => { t with b2 := b }

/-- Apply `f` to the running bank of the strand at a site. -/
def State.modBank (s : State) (w : Site) (f : Bank → Bank) : State :=
  s.modStrand w fun t => t.setBank (f t.bank)

/-- The running bank of the strand at a site. -/
def State.bank (s : State) (w : Site) : Bank := (s.strand w).bank

/-- R85: read g_r; g0 reads zero. -/
def Bank.readG (b : Bank) (r : Nat) : W64 := if r = 0 then 0 else tget 0 b.g r

/-- R85: write g_r; writes to g0 are discarded. -/
def Bank.writeG (b : Bank) (r : Nat) (x : W64) : Bank := if r = 0 then b else { b with g := tset 0 b.g r x }

/-- Read v_r. -/
def Bank.readV (b : Bank) (r : Nat) : W128 := tget 0 b.v r

/-- Write v_r. -/
def Bank.writeV (b : Bank) (r : Nat) (x : W128) : Bank := { b with v := tset 0 b.v r x }

/-- Read h_r. -/
def Bank.readH (b : Bank) (r : Nat) : W128 := tget 0 b.h r

/-- Write h_r. -/
def Bank.writeH (b : Bank) (r : Nat) (x : W128) : Bank := { b with h := tset 0 b.h r x }

/-- g_r of the strand at a site. -/
def State.g (s : State) (w : Site) (r : RegField) : W64 := (s.bank w).readG r.toNat

/-- v_r of the strand at a site. -/
def State.v (s : State) (w : Site) (r : RegField) : W128 := (s.bank w).readV r.toNat

/-- h_r of the strand at a site. -/
def State.h (s : State) (w : Site) (r : Nat) : W128 := (s.bank w).readH r

/-- Write g_r. -/
def State.setG (s : State) (w : Site) (r : RegField) (x : W64) : State := s.modBank w fun b => b.writeG r.toNat x

/-- Write v_r. -/
def State.setV (s : State) (w : Site) (r : RegField) (x : W128) : State := s.modBank w fun b => b.writeV r.toNat x

/-- Write h_r. -/
def State.setH (s : State) (w : Site) (r : Nat) (x : W128) : State := s.modBank w fun b => b.writeH r x

/-- The program counter of a strand. -/
def State.pcOf (s : State) (w : Site) : VAddr := (s.bank w).pc

/-- A pc as a 64-bit register value. -/
def pc64 (pc : VAddr) : W64 := pc.setWidth 64

/-- Set the program counter of a strand. -/
def State.setPc (s : State) (w : Site) (pc : VAddr) : State := s.modBank w fun b => { b with pc := pc }

/-- Park a strand, or release it with `.none` (R91). -/
def State.park (s : State) (w : Site) (p : Park) : State := s.modStrand w fun t => { t with park := p }

/-- A site from numbers. -/
def site (core strand : Nat) : Site := ⟨Fin.ofNat 256 core, Fin.ofNat 8 strand⟩

/-- R99: the end-of-loop step, or the next sequential address. -/
def Bank.advance (b : Bank) : Bank :=
  if b.lc ≠ 0 && decide (b.pc = b.lend) then
    if b.lc - 1 ≠ 0 then { b with lc := b.lc - 1, pc := b.lstart } else { b with lc := 0, pc := b.lend + 4 }
  else { b with pc := b.pc + 4 }

/-- An instruction that does not transfer control completes (R99). -/
def State.retire (s : State) (w : Site) : State := s.modBank w Bank.advance

/-! ### Domains -/

/-- Domain `d`. -/
def State.dom (s : State) (d : DomNo) : Domain := tget Domain.free s.doms d

/-- Replace domain `d`. -/
def State.setDom (s : State) (d : DomNo) (x : Domain) : State := { s with doms := tset Domain.free s.doms d x }

/-- Apply `f` to domain `d`. -/
def State.modDom (s : State) (d : DomNo) (f : Domain → Domain) : State := s.setDom d (f (s.dom d))

/-- R115, R134: a domain is live; entry 0 always reads FREE. -/
def State.live (s : State) (d : DomNo) : Bool := d != 0 && (s.dom d).state == 1

/-- Luami decides to revoke a domain that is live (R135); the revocation itself is DOMAIN_REVOCATION. -/
def State.wantRevoke (s : State) (d : DomNo) : State :=
  if s.live d && !s.revokeQ.contains d then { s with revokeQ := s.revokeQ ++ [d] } else s

/-- R133, R349: the domain that owns the physical page holding `pa`, or whose page tables it holds; 0 for none. -/
def State.ownerOf (s : State) (pa : Nat) : DomNo :=
  match s.doms.find? fun e => (e.2.pages ++ e.2.tables).any fun p => decide (p.1 ≤ pa) && decide (pa < p.1 + p.2) with
  | some e => e.1
  | none => 0

/-! ### The physical address map (R20, R21, R22) -/

/-- Where a physical address lies. -/
inductive Region where
  | hbm (stack : Nat)
  | scratch (core off : Nat)
  | coreReg (core off : Nat)
  | dieReg (die off : Nat)
  | hole
  deriving DecidableEq, Repr

/-- R20, R21: classify a physical address. Die 4 is die M. -/
def regionOf (pa : Nat) : Region :=
  if pa < 0x10000000000 then
    if pa % 0x1000000000 < 64000000000 then .hbm (pa / 0x1000000000) else .hole
  else if 0x1000000000000 ≤ pa && pa < 0x1000000000000 + 256 * 0x200000 then
    .scratch ((pa - 0x1000000000000) / 0x200000) ((pa - 0x1000000000000) % 0x200000)
  else if 0x2000000000000 ≤ pa && pa < 0x2000000000000 + 256 * 0x10000 then
    .coreReg ((pa - 0x2000000000000) / 0x10000) ((pa - 0x2000000000000) % 0x10000)
  else if 0x2000001000000 ≤ pa && pa < 0x2000001000000 + 5 * 0x1000000 then
    .dieReg ((pa - 0x2000001000000) / 0x1000000) ((pa - 0x2000001000000) % 0x1000000)
  else .hole

/-- R20: the base of core `c`'s scratchpad. -/
def scratchBase (c : Nat) : Nat := 0x1000000000000 + c * 0x200000

/-- R20: the base of core `c`'s register window. -/
def coreRegBase (c : Nat) : Nat := 0x2000000000000 + c * 0x10000

/-- R20: the base of a die's register window (die 4 is die M). -/
def dieRegBase (d : Nat) : Nat := 0x2000001000000 + d * 0x1000000

/-- Whether every byte of a range is HBM or scratchpad (R20: what translated accesses reach). -/
def isMemory (pa : Nat) : Bool :=
  match regionOf pa with
  | .hbm _ => true
  | .scratch _ _ => true
  | _ => false

/-- Whether an address is HBM. -/
def isHbm (pa : Nat) : Bool := match regionOf pa with | .hbm _ => true | _ => false

/-- Whether an address lies in a register window. -/
def isRegister (pa : Nat) : Bool :=
  match regionOf pa with
  | .coreReg _ _ => true
  | .dieReg _ _ => true
  | _ => false

/-- The compute die of a core (R18). -/
def dieOfCore (c : Nat) : Nat := c / 64

/-- The pod of a core (R18). -/
def podOfCore (c : Nat) : Nat := c / 8

/-! ### Physical memory -/

/-- What a byte nothing has written reads as: zero, since the boot husks all memory to zero (R549). -/
def memDefault : Byte := 0

/-- The canonical form of a memory: addresses strictly rising, no entry equal to the default. -/
abbrev Memory.wf (m : List Host.Cell) : Bool := twf memDefault m

/-- Read `n` bytes of a memory. -/
def memBytes (m : List Host.Cell) (a n : Nat) : List Byte := (List.range n).map fun i => tget memDefault m (a + i)

/-- Write bytes into a memory. -/
def memPut (m : List Host.Cell) (a : Nat) : List Byte → List Host.Cell
  | [] => m
  | b :: t => memPut (tset memDefault m a b) (a + 1) t

/-- Read a little-endian number from memory at home. -/
def State.memNat (s : State) (a n : Nat) : Nat := leNat (memBytes s.mem a n)

/-! ### Occurrences (R496) -/

/-- The die number of an event's raiser and its DET resource: SRCKIND and SRCNUM (R496). -/
structure Src where
  die  : Nat
  kind : Nat
  num  : Nat
  deriving DecidableEq, Repr

/-- A core as a source. -/
def srcCore (c : Nat) : Src := ⟨dieOfCore c, 0, c⟩

/-- An LLC slice (global number) as a source. -/
def srcSlice (sl : Nat) : Src := ⟨sl / 32, 2, sl⟩

/-- A stack, its controller or its update unit as a source. -/
def srcStack (x : Nat) : Src := ⟨x / 4, 3, x⟩

/-- A link port (global number) as a source. -/
def srcPort (p : Nat) : Src := ⟨p / 9, 4, p⟩

/-- A compute die as a source. -/
def srcDie (d : Nat) : Src := ⟨d, 7, d⟩

/-- A unit of die M as a source. -/
def srcDieM : Src := ⟨4, 8, 0⟩

/-- R496: the DET word. -/
def detWord (src : Src) (dom : DomNo) (arg : Nat) : W64 :=
  BitVec.ofNat 64 (src.num % 2 ^ 12 + (src.kind % 16) * 2 ^ 12 + (dom % 4096) * 2 ^ 16 + (arg % 2 ^ 32) * 2 ^ 32)

/-- R503: write an entry to the always-on store; a ninth replaces the oldest. -/
def aosPut (l : List AosEntry) (e : AosEntry) : List AosEntry := if l.length < 8 then l ++ [e] else l.drop 1 ++ [e]

/-- R45, R46: the replica of TIME of die `d` (4: die M): it stands while its PLL has lost lock. -/
def State.timeOf (s : State) (d : Nat) : W64 := (tget none s.mgmt.stopped d).getD s.time

/-- R496: raise one occurrence of `code` with value, multiplicity, source, domain and argument: it enters the
collector of the raiser's die. Occurrences of one code merge in OCCURRENCE_APPLY, losing nothing. -/
def State.raiseN (s : State) (code : Nat) (src : Src) (value n : Nat) (dom : DomNo) (arg : Nat) : State :=
  let o : Occ := ⟨code, BitVec.ofNat 32 value, BitVec.ofNat 16 n, detWord src dom arg, s.timeOf src.die, src.die⟩
  { s with evr := { s.evr with collectors := tset [] s.evr.collectors src.die (tget [] s.evr.collectors src.die ++ [o]) } }

/-- Raise one occurrence with multiplicity 1. -/
def State.raise (s : State) (code : Nat) (src : Src) (value : Nat) (dom : DomNo) (arg : Nat) : State :=
  s.raiseN code src value 1 dom arg

/-! ### Interrupts and counters -/

/-- R159: a source sets a vector's pending bit in a core (vectors 32-63); settings coalesce. -/
def Core.pend (k : Core) (vec : Nat) : Core :=
  { k with int := { k.int with ipend := setBit k.int.ipend (vec - 32) true } }

/-- Make a vector pending in core `c`. -/
def State.pendVec (s : State) (c vec : Nat) : State := s.modCore c fun k => k.pend vec

/-- Make a vector pending in every core of a list. -/
def State.pendAll (s : State) (cs : List Nat) (vec : Nat) : State := cs.foldl (fun t c => t.pendVec c vec) s

/-- R507: what counter `n` of a set does when it passes 2^48 - 1: the vector it makes pending, if any, and the
carry. The two selector layouts differ in the place of CHAIN, SAMPLE and OVF. -/
def pmcAddOne (core : Bool) (st : PmcSet) (n w : Nat) : PmcSet × Option Nat × Bool :=
  let c := tget PmcCnt.reset st.cnts n
  let sum := c.count.toNat + w
  if sum < 2 ^ 48 then
    ({ st with cnts := tset PmcCnt.reset st.cnts n ({ c with count := BitVec.ofNat 48 sum }) }, none, false)
  else
    let nx := tget PmcCnt.reset st.cnts (n + 1)
    let chained := bit nx.sel (if core then 20 else 18) && decide (n + 1 < if core then 16 else 64)
    if chained then
      ({ st with cnts := tset PmcCnt.reset st.cnts n ({ c with count := BitVec.ofNat 48 sum }) }, none, true)
    else if core && bit c.sel 21 then
      ({ st with cnts := (tset PmcCnt.reset st.cnts n { c with count := c.reload }) }, some 40, false)
    else
      ({ st with cnts := (tset PmcCnt.reset st.cnts n
          { c with count := BitVec.ofNat 48 sum, sel := setBit c.sel (if core then 22 else 19) true }) }, some 41, false)

/-- R507: add to counter `n`, passing carries along a chain of at most `fuel` counters. -/
def pmcAddChain (core : Bool) : Nat → PmcSet → Nat → Nat → PmcSet × List (Nat × Nat)
  | 0, st, _, _ => (st, [])
  | fuel + 1, st, n, w =>
    let r := pmcAddOne core st n w
    if r.2.2 then pmcAddChain core fuel r.1 (n + 1) 1
    else (r.1, match r.2.1 with | some v => [(n, v)] | none => [])

/-- R509: whether core counter selector `sel` counts event `ev` of strand `st` (or of array `st` for the array
events); a counter with CHAIN counts only carries, except counter 0, whose CHAIN is ignored. -/
def pmcSelects (sel : W64) (n ev st : Nat) : Bool :=
  bit sel 19 && decide (fld sel 7 0 = ev) && decide (ev ≠ 0) && (!bit sel 20 || decide (n = 0)) &&
  (if ev < 0x20 then decide (fld sel 18 11 = 0) || bit sel (11 + st)
   else if ev < 0x29 then bit sel 10 || decide (fld sel 9 8 = st) else true)

/-- R507, R509: count event `ev` with a weight in core `k`; while frozen nothing counts. -/
def Core.count (k : Core) (ev st weight : Nat) : Core :=
  if k.pmc.frozen then k
  else (List.range 16).foldl (fun k n =>
    if pmcSelects (tget PmcCnt.reset k.pmc.cnts n).sel n ev st then
      let r := pmcAddChain true 16 k.pmc n (min weight 65535)
      r.2.foldl (fun k v => k.pend v.2) { k with pmc := r.1 }
    else k) k

/-- Count an event in core `c`. -/
def State.count (s : State) (c ev st weight : Nat) : State :=
  if (s.core c).pmc.cnts = [] then s else s.modCore c fun k => k.count ev st weight

/-- R511: whether die counter selector `sel` counts event `ev` of instance `inst`. -/
def pmcDieSelects (sel : W64) (n ev inst : Nat) : Bool :=
  bit sel 17 && decide (fld sel 7 0 = ev) && decide (ev ≠ 0) && (!bit sel 18 || decide (n = 0)) &&
  (bit sel 16 || decide (fld sel 15 8 = inst))

/-- R507, R511: count event `ev` of instance `inst` on die `d`. A wrap with INTEN pends vector 41 in INTCORE. -/
def State.countDie (s : State) (d ev inst weight : Nat) : State :=
  let st := tget PmcSet.reset s.pmc.sets d
  if st.frozen || st.cnts.isEmpty then s
  else (List.range 64).foldl (fun s n =>
    let st := tget PmcSet.reset s.pmc.sets d
    if pmcDieSelects (tget PmcCnt.reset st.cnts n).sel n ev inst then
      let r := pmcAddChain false 64 st n (min weight 65535)
      let s := { s with pmc := { s.pmc with sets := tset PmcSet.reset s.pmc.sets d r.1 } }
      r.2.foldl (fun s v =>
        let sel := (tget PmcCnt.reset r.1.cnts v.1).sel
        if bit sel 28 then s.pendVec (fld sel 27 20) 41 else s) s
    else s) s

/-- R514: bytes counted by monitor `m` of die `d` in direction `dir`, in the open window. -/
def State.bwAdd (s : State) (d m dir bytes : Nat) : State :=
  let x := tget BwMon.reset s.pmc.mons (d * 16 + m)
  let y := if dir = 0 then { x with cur0 := satInc x.cur0 bytes } else { x with cur1 := satInc x.cur1 bytes }
  { s with pmc := { s.pmc with mons := tset BwMon.reset s.pmc.mons (d * 16 + m) y } }

/-- R514, R511: bytes that cross the bridge from compute die `a` to compute die `b`: bridge monitors 13-15 number a die's
bridges in ascending order of the other die. -/
def State.bridge (s : State) (a b bytes : Nat) : State :=
  if a = b || a ≥ 4 || b ≥ 4 then s
  else
    let s := s.bwAdd a (13 + if b < a then b else b - 1) 0 bytes
    let s := s.bwAdd b (13 + if a < b then a else a - 1) 1 bytes
    s.countDie a 0x13 (if b < a then b else b - 1) bytes

end Sys2Proof.Machine
end

