-- ==== Sys2Proof/Machine/HullOps.lean ====
section
/-! DEFINITION. Hulls: the format, well-formedness, the checks of R120, the canonical encoding; page tables
and translation (chapter 05). -/

namespace Sys2Proof.Machine

/-! ### The hull format (R111) -/

/-- TYPE. -/
def hType (h : W128) : Nat := fld h 127 124
/-- RIGHTS. -/
def hRights (h : W128) : Nat := fld h 123 108
/-- SEAL. -/
def hSeal (h : W128) : Nat := fld h 107 96
/-- LEXP. -/
def hLexp (h : W128) : Nat := fld h 95 89
/-- LMAN. -/
def hLman (h : W128) : Nat := fld h 88 57
/-- BASE. -/
def hBase (h : W128) : Nat := fld h 56 0
/-- The length: LMAN x 2^LEXP. -/
def hLen (h : W128) : Nat := hLman h * 2 ^ hLexp h

/-- Assemble a hull from its fields (R111). -/
def mkHull (typ rights dom lexp lman base : Nat) : W128 :=
  BitVec.ofNat 128 (base % 2 ^ 57 + (lman % 2 ^ 32) * 2 ^ 57 + (lexp % 2 ^ 7) * 2 ^ 89 + (dom % 2 ^ 12) * 2 ^ 96 +
    (rights % 2 ^ 16) * 2 ^ 108 + (typ % 16) * 2 ^ 124)

/-- R112: a device right hull's KIND. -/
def hKind (h : W128) : Nat := nfld (hBase h) 55 48
/-- R112: a device right hull's first instance. -/
def hInst (h : W128) : Nat := nfld (hBase h) 47 0

/-- R116: the rights bits a type defines; bit 2 of a device right only for KIND 0x09. -/
def rightsMask (typ kind : Nat) : Nat :=
  match typ with
  | 1 => 0xC1FF
  | 2 => 0xC01F
  | 3 => 0xC001
  | 4 => 0xC003
  | 5 => if kind = 9 then 0xC007 else 0xC003
  | _ => 0

/-- R113: the hull is malformed. -/
def hMalformed (h : W128) : Bool :=
  if hType h = 0 then decide (h ≠ 0)
  else
    decide (hType h > 5) || decide (hLexp h > 57) || decide (hBase h % 2 ^ hLexp h ≠ 0) ||
    decide (hBase h + hLen h > 2 ^ 57) ||
    decide ((BitVec.ofNat 16 (hRights h)) &&& ~~~(BitVec.ofNat 16 (rightsMask (hType h) (hKind h))) ≠ 0) ||
    (decide (hType h = 2) && decide (nfld (hBase h) 56 28 ≠ 0)) ||
    (decide (hType h = 5) && (decide (nfld (hBase h) 56 56 ≠ 0) || decide (hKind h = 0) || decide (hKind h > 9)))

/-- A right bit of a hull (R116). -/
def hHas (h : W128) (mask : Nat) : Bool :=
  decide ((BitVec.ofNat 16 (hRights h)) &&& (BitVec.ofNat 16 mask) = BitVec.ofNat 16 mask)

/-- READ. -/ 
def rREAD : Nat := 0x1
/-- WRITE. -/
def rWRITE : Nat := 0x2
/-- EXEC. -/
def rEXEC : Nat := 0x4
/-- HLOAD. -/
def rHLOAD : Nat := 0x8
/-- HSTORE. -/
def rHSTORE : Nat := 0x10
/-- SEALABLE. -/
def rSEALABLE : Nat := 0x20
/-- UNIT. -/
def rUNIT : Nat := 0x40
/-- PIN. -/
def rPIN : Nat := 0x80
/-- REDUCE. -/
def rREDUCE : Nat := 0x100
/-- DERIVE. -/
def rDERIVE : Nat := 0x4000
/-- PASS. -/
def rPASS : Nat := 0x8000

/-- R120 steps 1-4: null or malformed, not live, type, rights. `none` passes. -/
def hullCheck4 (s : State) (h : W128) (typ mask : Nat) : Option Nat :=
  if hType h = 0 || hMalformed h then some 0x08
  else if !s.live (hSeal h) then some 0x09
  else if hType h = 3 && typ != 3 then some 0x0A
  else if hType h != typ then some 0x0B
  else if !hHas h mask then some 0x0C
  else none

/-- Whether `n` bytes (or objects, or instances) from `a` lie in the hull's range (R120 step 5). -/
def hullBounds (h : W128) (a n : Nat) : Bool := decide (hBase h ≤ a) && decide (a + n ≤ hBase h + hLen h)

/-- The first failing byte of a bounds check (FLT_ADDR). -/
def hullFailAt (h : W128) (a : Nat) : Nat := if a < hBase h then a else max a (hBase h + hLen h)

/-- R120: all five checks. -/
def hullCheck (s : State) (h : W128) (typ mask a n : Nat) : Option Nat :=
  match hullCheck4 s h typ mask with
  | some c => some c
  | none => if hullBounds h a n then none else some 0x0D

/-- R122: a hull may cross into domain `e`. -/
def mayCross (h : W128) (e : DomNo) : Bool := decide (h = 0) || hHas h rPASS || decide (hSeal h = e)

/-- R114: the canonical exponent of a length: the least exponent, from `k`, that divides it and leaves a mantissa
below 2^32. -/
def canonExp (len : Nat) : Nat → Nat → Option Nat
  | 0, _ => none
  | fuel + 1, k => if len % 2 ^ k = 0 && decide (len / 2 ^ k < 2 ^ 32) then some k else canonExp len fuel (k + 1)

/-- R114: the canonical (LEXP, LMAN) of a length at a base; none when unrepresentable. -/
def canonLen (base len : Nat) : Option (Nat × Nat) :=
  match canonExp len 58 0 with
  | some k => if base % 2 ^ k = 0 && decide (base < 2 ^ 57) then some (k, len / 2 ^ k) else none
  | none => none

/-! ### Fault information -/

/-- The code, FLT_ADDR and FLT_INFO of a fault. -/
structure Flt where
  code : Nat
  addr : W64
  info : W64
  deriving DecidableEq, Repr

/-- A fault with no address and no detail. -/
def flt (code : Nat) : Flt := ⟨code, 0, 0⟩

/-- R153: FLT_INFO with the hull register, table level, write and fetch flags. -/
def infoWord (hreg : Option Nat) (index : Option Nat) (level : Nat) (write fetch table : Bool) : W64 :=
  BitVec.ofNat 64 (
    (match hreg with | some r => r % 16 + 16 | none => 0) +
    (match index with | some i => (i % 64) * 32 + 2048 | none => 0) +
    (level % 8) * 4096 + b2n write * 32768 + b2n fetch * 65536 + b2n table * 131072)

/-- A hull fault that names hull register `r`. -/
def fltH (code r : Nat) : Flt := ⟨code, 0, infoWord (some r) none 0 false false false⟩

/-- A fault of an access at `addr` under hull register `r`. -/
def fltA (code addr r level : Nat) (write fetch : Bool) : Flt :=
  ⟨code, BitVec.ofNat 64 addr, infoWord (some r) none level write fetch false⟩

/-! ### Page tables (R139, R140, R141) -/

/-- R139: the index of the entry for `va` in a table at a level. -/
def pteIndex (level va : Nat) : Nat :=
  match level with
  | 1 => nfld va 56 46
  | 2 => nfld va 45 34
  | 3 => nfld va 33 25
  | _ => nfld va 24 16

/-- R139: the bytes of a table at a level. -/
def tableSize (level : Nat) : Nat :=
  match level with
  | 1 => 16384
  | 2 => 32768
  | _ => 4096

/-- The page-table entry at a physical address. -/
def State.pteAt (s : State) (a : Nat) : W64 := BitVec.ofNat 64 (leNat (memBytes s.mem a 8))

/-- R140: what ADDR of an entry names: the next-level table, or the page frame. -/
def pteAddr (e : W64) : Nat := fld e 51 12 * 4096

/-- R134: a domain's top-level table. -/
def Domain.root (x : Domain) : Nat := x.ptroot.toNat * 16384

/-- R139, R140: the table at a level on the walk of `va`, where the entries above it name one. -/
def State.tableAt (s : State) (d : DomNo) (va : Nat) : Nat → Option Nat
  | 0 => none
  | 1 => some (s.dom d).root
  | level + 1 =>
    match s.tableAt d va level with
    | none => none
    | some t =>
      let e := s.pteAt (t + 8 * pteIndex level va)
      if bit e 0 && !bit e 1 then some (pteAddr e) else none

/-- The page-table entry for `va` at a level, zero where no table holds one. -/
def State.pte (s : State) (d : DomNo) (level va : Nat) : W64 :=
  match s.tableAt d va level with
  | some t => s.pteAt (t + 8 * pteIndex level va)
  | none => 0

/-- R139: the size a leaf at a level maps. -/
def leafSize (level : Nat) : Nat :=
  match level with
  | 2 => 2 ^ 34
  | 3 => 2 ^ 25
  | _ => 2 ^ 16

/-- The result of a walk: the level of an invalid entry, or the level and the leaf. -/
inductive Walk where
  | invalid (level : Nat)
  | leaf (level : Nat) (e : W64)
  deriving DecidableEq, Repr

/-- R139, R141: a walk of `va` from the table `t` at a level on. -/
def State.walkFrom (s : State) (va : Nat) : Nat → Nat → Nat → Walk
  | 0, level, _ => .invalid level
  | fuel + 1, level, t =>
    let e := s.pteAt (t + 8 * pteIndex level va)
    if !bit e 0 then .invalid level
    else if bit e 1 || decide (level = 4) then .leaf level e
    else s.walkFrom va fuel (level + 1) (pteAddr e)

/-- R139, R141: the four-level walk of a domain's tables; a FREE domain has none. -/
def State.walk (s : State) (d : DomNo) (va : Nat) : Walk :=
  if (s.dom d).state = 0 then .invalid 1 else s.walkFrom va 4 1 (s.dom d).root

/-- The result of a translation. -/
inductive Tr where
  | ok (pa : Nat) (leaf : W64)
  | fault (code level : Nat)
  | pageIn
  deriving DecidableEq, Repr

/-- R118: HLD and HST need a hull page, every other access a page that is none. -/
def AccKind.hullKind : AccKind → Bool
  | .hullRead => true
  | .hullWrite => true
  | _ => false

/-- The access needs W (R140). -/
def AccKind.isWrite : AccKind → Bool
  | .write => true
  | .hullWrite => true
  | _ => false

/-- R141 steps 2-4 on a leaf. -/
def leafCheck (level : Nat) (e : W64) (va : Nat) (k : AccKind) : Tr :=
  if bit e 4 != k.hullKind then .fault 0x12 level
  else if (k.isWrite && !bit e 2) || (decide (k = .fetch) && !bit e 3) then .fault 0x11 level
  else if bit e 5 && !bit e 6 then .pageIn
  else .ok (fld e 51 12 * 4096 + va % leafSize level) e

/-- R142: a page that the granary could not supply faults with FLT_PAGE_LOST in place of the page-in. -/
def State.lostOr (s : State) (d : DomNo) (level va : Nat) (t : Tr) : Tr :=
  match t with
  | .pageIn => if (s.dom d).lost.contains (va / leafSize level * leafSize level) then .fault 0x14 level else .pageIn
  | t => t

/-- R141: translate `va` of domain `d`. -/
def State.translate (s : State) (d : DomNo) (va : Nat) (k : AccKind) : Tr :=
  match s.walk d va with
  | .invalid l => .fault 0x10 l
  | .leaf l e => s.lostOr d l va (leafCheck l e va k)

/-- R143: the cached translation of `va` in core `c`, if any. -/
def Core.tlbFind (k : Core) (d : DomNo) (va : Nat) : Option TlbEntry :=
  k.tlb.find? fun e => decide (e.dom = d) && decide (e.base = va / leafSize e.level * leafSize e.level)

/-- A strand's translation: through the core's cached translations; a miss needs a walk (R91). -/
inductive StrandTr where
  | ok (pa : Nat) (leaf : W64)
  | fault (code level : Nat)
  | pageIn
  | walk
  deriving DecidableEq, Repr

/-- R143: translate for a strand of core `c`. -/
def State.strandTr (s : State) (c : Nat) (d : DomNo) (va : Nat) (k : AccKind) : StrandTr :=
  match (s.core c).tlbFind d va with
  | none => .walk
  | some e =>
    match s.lostOr d e.level va (leafCheck e.level e.leaf va k) with
    | .ok pa l => .ok pa l
    | .fault c l => .fault c l
    | .pageIn => .pageIn

/-- R140: the leaf's retention field. -/
def leafRet (e : W64) : Nat := fld e 8 7

end Sys2Proof.Machine
end

