-- ==== Sys2Proof/Machine/MemOps.lean ====
section
/-! DEFINITION. The memory system: LLC slices and slots, retention, HBM bank queues, accesses at home, the L1
caches, scratchpad errors (chapters 11 and 12). -/

namespace Sys2Proof.Machine

/-! ### Mapping (R328, R352) -/

/-- The line number of a physical address. -/
def lineOf (pa : Nat) : Nat := pa / 128

/-- R328: the global slice number (0-127) of an HBM address. -/
def llcSlice (pa : Nat) : Nat :=
  let x := nfld pa 39 36
  (x / 4) * 32 + 8 * (x % 4) + (nfld pa 10 8 ^^^ nfld pa 13 11 ^^^ nfld pa 16 14)

/-- R328: the set within the slice. -/
def llcSetNo (pa : Nat) : Nat := nfld pa 21 11 ^^^ nfld pa 32 22

/-- The key of a set among all slices. -/
def llcKey (pa : Nat) : Nat := llcSlice pa * 2048 + llcSetNo pa

/-- R352: the bank key (stack, pseudo-channel, bank) of an HBM address. -/
def bankKey (pa : Nat) : Nat :=
  let u := nfld pa 35 0 / 256
  nfld pa 39 36 * 4096 + (nfld u 5 0 ^^^ nfld u 13 8) * 64 + (nfld u 13 8 ^^^ nfld u 19 14)

/-- R352: the row of an HBM address. -/
def rowOf (pa : Nat) : Nat := nfld (nfld pa 35 0 / 256) 27 14

/-! ### Slots -/

/-- The set with key `key`. -/
def State.llcSet (s : State) (key : Nat) : LlcSet := tget LlcSet.empty s.llc key

/-- Replace a set. -/
def State.setLlc (s : State) (key : Nat) (x : LlcSet) : State := { s with llc := tset LlcSet.empty s.llc key x }

/-- Way `w` of a set. -/
def LlcSet.way (x : LlcSet) (w : Nat) : Slot := tget Slot.empty x.slots w

/-- Replace a way. -/
def LlcSet.setWay (x : LlcSet) (w : Nat) (sl : Slot) : LlcSet := { x with slots := tset Slot.empty x.slots w sl }

/-- The status of line `line` in a slot, if the slot holds it. -/
def Slot.line (sl : Slot) (line : Nat) : Option LineSt :=
  if sl.pair = line / 2 then (if line % 2 = 0 then sl.l0 else sl.l1) else none

/-- Replace the status of a line in a slot. -/
def Slot.setLine (sl : Slot) (line : Nat) (x : Option LineSt) : Slot :=
  if line % 2 = 0 then { sl with pair := line / 2, l0 := x } else { sl with pair := line / 2, l1 := x }

/-- The slot holds no line. -/
def Slot.isEmpty (sl : Slot) : Bool := sl.l0.isNone && sl.l1.isNone

/-- R336: the way that holds a line. -/
def LlcSet.find (x : LlcSet) (line : Nat) : Option Nat := (List.range 16).find? fun w => ((x.way w).line line).isSome

/-- R341: the lines of a slot that keep accesses have pinned. -/
def Slot.pins (sl : Slot) : Nat := ([sl.l0, sl.l1].filter fun l => (l.map LineSt.pin).getD false).length

/-- R336: the slot is pinned. -/
def Slot.pinned (sl : Slot) : Bool := decide (0 < sl.pins)

/-- R338, R341: the pins of a set: each pinned line counts as the slot it would hold without compression. -/
def LlcSet.pinned (x : LlcSet) : Nat := ((List.range 16).map fun w => (x.way w).pins).sum

/-- The slice registers. -/
def State.slice (s : State) (sl : Nat) : SliceRegs := tget SliceRegs.reset s.slices sl

/-- Replace the slice registers. -/
def State.setSlice (s : State) (sl : Nat) (r : SliceRegs) : State :=
  { s with slices := tset SliceRegs.reset s.slices sl r }

/-- The stack registers. -/
def State.stack (s : State) (x : Nat) : StackRegs := tget StackRegs.reset s.hbmStacks x

/-- Replace the stack registers. -/
def State.setStack (s : State) (x : Nat) (r : StackRegs) : State :=
  { s with hbmStacks := tset StackRegs.reset s.hbmStacks x r }

/-- The status of the line holding `pa` at its home slice, if present. -/
def State.lineSt (s : State) (pa : Nat) : Option LineSt :=
  match (s.llcSet (llcKey pa)).find (lineOf pa) with
  | some w => ((s.llcSet (llcKey pa)).way w).line (lineOf pa)
  | none => none

/-- R349: the line holding `pa` is poisoned. -/
def State.poisoned (s : State) (pa : Nat) : Bool := match s.lineSt pa with | some l => l.poisoned | none => false

/-- R337: a line's 128 bytes fit a compressed encoding. -/
def compressible (b : List Byte) : Bool :=
  let words := (List.range 32).filter fun i => bytesAt b (4 * i) 4 != [0, 0, 0, 0]
  let es := (List.range 64).map fun i => leAt b (2 * i) 2
  let m := es.foldl min 65535
  decide (words.length ≤ 14) || es.all fun e => decide (e - m < 128)

/-- The line `line` of the home view is compressible. -/
def State.lineCompressible (s : State) (line : Nat) : Bool := compressible (memBytes s.mem (line * 128) 128)

/-! ### HBM bank queues (R353) -/

/-- R353: the requests that wait in the overflow of slice `sl`. -/
def State.overflow (s : State) (sl : Nat) : Nat :=
  (s.hbmWait.map fun e => (e.2.filter fun r => decide (llcSlice (r.line * 128) = sl)).length).sum

/-- R353: those of them that are for bank `k`. -/
def State.overflowFor (s : State) (sl k : Nat) : Nat :=
  ((tget [] s.hbmWait k).filter fun r => decide (llcSlice (r.line * 128) = sl)).length

/-- R353, R358: the bank queue of a line has room, and no older request waits for it. -/
def State.bankTakes (s : State) (line : Nat) : Bool :=
  let k := bankKey (line * 128)
  (s.stack (nfld (line * 128) 39 36)).ready && decide ((tget [] s.banks k).length < 16) && (tget [] s.hbmWait k).isEmpty

/-- R353: the overflow of a line's slice can take a request: 128 entries, at most 32 of them for one bank. -/
def State.overflowTakes (s : State) (line : Nat) : Bool :=
  let sl := llcSlice (line * 128)
  decide (s.overflow sl < 128) && decide (s.overflowFor sl (bankKey (line * 128)) < 32)

/-- R353: a request enters its bank queue, or its slice's overflow, or waits at the slice input. -/
def State.hbmOffer (s : State) (r : HbmReq) : State :=
  let k := bankKey (r.line * 128)
  if s.bankTakes r.line then { s with banks := tset [] s.banks k (tget [] s.banks k ++ [r]) }
  else if s.overflowTakes r.line then { s with hbmWait := tset [] s.hbmWait k (tget [] s.hbmWait k ++ [r]) }
  else
    let sl := llcSlice (r.line * 128)
    { s with sliceIn := tset [] s.sliceIn sl (tget [] s.sliceIn sl ++ [r]) }

/-- R353: the requests at the input of slice `sl` that can be accepted now, in the order in which they came. -/
def State.acceptReqs (s : State) (sl : Nat) : State :=
  (tget [] s.sliceIn sl).foldl (fun s r =>
    if s.bankTakes r.line || s.overflowTakes r.line then
      ({ s with sliceIn := tset [] s.sliceIn sl ((tget [] s.sliceIn sl).erase r) } : State).hbmOffer r
    else s) s

/-! ### What check codes find during a command -/

/-- A finding of a SECDED code (R301, R348). -/
def isArrayErr (e : MemErr) : Bool := match e with | .corrected => true | .uncorrectable => true | _ => false

/-- A parity error of an L1 line (R334). -/
def isParityErr (e : MemErr) : Bool := match e with | .parity => true | _ => false

/-- A finding of a stack's controller (R350). -/
def isStackErr (e : MemErr) : Bool :=
  match e with | .stackCorrected => true | .stackUncorrectable => true | .stackReport => true | _ => false

/-- What the reads of a line find during the command in hand. -/
def State.lineErrs (s : State) (line : Nat) (p : MemErr → Bool) : List MemErr :=
  (s.check.filter fun x => decide (x.1 / 8 = line) && p x.2).map Prod.snd

/-- Run a command's effect with what its reads of memory find. -/
def State.finding (s : State) (e : ErrMap) (f : State → State) : State := { f { s with check := e } with check := s.check }

/-- Read memory with what the reads find. -/
def State.reading (s : State) (e : ErrMap) (f : State → State × List Byte) : State × List Byte :=
  let r := f { s with check := e }
  ({ r.1 with check := s.check }, r.2)

/-- R353: a slice's miss or write-back becomes a request to its bank; `read` carries what the stack's check code finds. -/
def State.hbmEnqueue (s : State) (line : Nat) (write : Bool) : State :=
  let x := nfld (line * 128) 39 36
  let r := s.stack x
  let s' := s.hbmOffer ⟨line, write, if write then [] else s.lineErrs line isStackErr⟩
  if r.ready && !s.bankTakes line then (s'.setStack x { r with qfull := satInc r.qfull 1 }).countDie (x / 4) 0x0B (x % 4) 1 else s'

/-- Copy one line from one memory to another. -/
def copyLine (src dst : List Host.Cell) (line : Nat) : List Host.Cell :=
  memPut dst (line * 128) (memBytes src (line * 128) 128)

/-! ### Errors at a slice (R348-R350) -/

/-- Change the status of a present line. -/
def State.modLine (s : State) (line : Nat) (f : LineSt → LineSt) : State :=
  let key := llcKey (line * 128)
  let x := s.llcSet key
  match x.find line with
  | some w => s.setLlc key (x.setWay w ((x.way w).setLine line (((x.way w).line line).map f)))
  | none => s

/-- R349: a line becomes poisoned: it reads as zeros, and the owner of its page is revoked. -/
def State.poisonLine (s : State) (line : Nat) : State :=
  let s := s.modLine line fun st => { st with poisoned := true }
  let s := { s with mem := memPut s.mem (line * 128) (List.replicate 128 0) }
  s.wantRevoke (s.ownerOf (line * 128))

/-- R350: the read that fills `line` from its stack is uncorrectable. -/
def State.fillDead (s : State) (line : Nat) : Bool := (s.lineErrs line isStackErr).contains .stackUncorrectable

/-- A line leaves its slot, with nothing written back. -/
def State.dropLine (s : State) (line : Nat) : State :=
  let key := llcKey (line * 128)
  let x := s.llcSet key
  match x.find line with
  | some w =>
    let y := (x.way w).setLine line none
    s.setLlc key (x.setWay w (if y.isEmpty then Slot.empty else y))
  | none => s

/-- R350: a fill whose read was uncorrectable delivers a poisoned line; where its page has no owner the line is dropped. -/
def State.fillCheck (s : State) (line : Nat) : State :=
  if !s.fillDead line then s else if s.ownerOf (line * 128) ≠ 0 then s.poisonLine line else s.dropLine line

/-- R348: what the check of a slot finds on a read of a present line. -/
def State.slotErr (s : State) (line : Nat) (e : MemErr) : State :=
  let key := llcKey (line * 128)
  let sl := key / 2048
  let r := s.slice sl
  match (s.llcSet key).find line with
  | none => s
  | some w =>
    match e with
    | .corrected =>
      (s.setSlice sl { r with ce := satInc r.ce 1 }).raise 0x240 (srcSlice sl) w 0 (key % 2048)
    | .uncorrectable =>
      let st := (((s.llcSet key).way w).line line).getD LineSt.clean
      let s := s.setSlice sl { r with ue := true, ueDirty := st.dirty, ueSet := BitVec.ofNat 11 (key % 2048), ueWay := BitVec.ofNat 4 w }
      if st.dirty then
        (s.raise 0x242 (srcSlice sl) w (s.ownerOf (line * 128)) (key % 2048)).poisonLine line
      else ((s.raise 0x241 (srcSlice sl) w 0 (key % 2048)).hbmEnqueue line false).fillCheck line
    | _ => s

/-- R348: the check of a slot on a read of a present line: each granule that a single bit error strikes, then an uncorrectable one. -/
def State.slotCheck (s : State) (line : Nat) : State :=
  let l := s.lineErrs line isArrayErr
  let s := l.foldl (fun s e => if e = .corrected then s.slotErr line e else s) s
  if l.contains .uncorrectable then s.slotErr line .uncorrectable else s

/-- R340, R348, R349: a line leaves its slot: dirty data is read, checked and goes to HBM; poisoned data is never written back. The line
still stands in its slot. -/
def State.evictLine (s : State) (line : Nat) (l : LineSt) : State :=
  let s := if l.dirty && !l.poisoned then s.slotCheck line else s
  if s.poisoned (line * 128) then { s with mem := copyLine s.hbm s.mem line }
  else if l.dirty then
    let s := { s with hbm := copyLine s.mem s.hbm line }
    let s := s.countDie (llcSlice (line * 128) / 32) 0x03 (llcSlice (line * 128) % 32) 1
    s.hbmEnqueue line true
  else s

/-- Evict whatever way `w` of a set holds: it is left empty. -/
def State.evictWay (s : State) (key w : Nat) : State :=
  let sl := (s.llcSet key).way w
  let s := match sl.l0 with | some l => s.evictLine (sl.pair * 2) l | none => s
  let s := match sl.l1 with | some l => s.evictLine (sl.pair * 2 + 1) l | none => s
  s.setLlc key ((s.llcSet key).setWay w Slot.empty)

/-- R332, R340: the ways that may be victims. -/
def LlcSet.candidates (x : LlcSet) : List Nat :=
  (List.range 16).filter fun w => !(x.way w).pinned && !(x.way w).locked

/-- R332: the victim among candidates, with the candidates' ages raised so that the oldest has age 3. -/
def LlcSet.victim (x : LlcSet) : Option (LlcSet × Nat) :=
  match x.candidates.find? fun w => (x.way w).isEmpty with
  | some w => some (x, w)
  | none =>
    let a := 3 - x.candidates.foldl (fun m w => max m (x.way w).age) 0
    let y := x.candidates.foldl (fun y w => y.setWay w { y.way w with age := (y.way w).age + a }) x
    match x.candidates.find? fun w => decide ((y.way w).age = 3) with
    | some w => some (y, w)
    | none => none

/-- R346: a fill that finds every candidate locked waits, counted once with event 0x244. -/
def State.fillWait (s : State) (key : Nat) (f : WaitFill) : State :=
  let x := s.llcSet key
  let s := s.setLlc key { x with waiting := x.waiting ++ [f] }
  (s.countDie (key / 2048 / 32) 0x07 (key / 2048 % 32) 1).raise 0x244 (srcSlice (key / 2048)) 0 0 (key % 2048)

/-- R341: a keep access with PIN pins its line, or is demoted above PIN_WAYS. -/
def State.pinLine (s : State) (line : Nat) : State :=
  let key := llcKey (line * 128)
  let x := s.llcSet key
  let r := s.slice (key / 2048)
  match x.find line with
  | none => s
  | some w =>
    if (((x.way w).line line).map LineSt.pin).getD false then s
    else if x.pinned + 1 > r.pinWays.toNat then
      let s := s.setSlice (key / 2048) { r with demoted := satInc r.demoted 1 }
      let s := s.countDie (key / 2048 / 32) 0x05 (key / 2048 % 32) 1
      s.raise 0x243 (srcSlice (key / 2048)) x.pinned 0 (key % 2048)
    else s.modLine line fun st => { st with pin := true }

/-- A line enters way `w`, emptied for it. -/
def State.enterWay (s : State) (key w line : Nat) (st : LineSt) (age : Nat) : State :=
  let s := s.evictWay key w
  s.setLlc key ((s.llcSet key).setWay w { (Slot.empty.setLine line (some st)) with age := age })

/-- R336, R337: the way whose slot a line may enter beside its partner: both compress, CMP_EN is 1, and the slot is not locked. -/
def State.shareWay (s : State) (line : Nat) : Option Nat :=
  let key := llcKey (line * 128)
  let x := s.llcSet key
  let partner := if line % 2 = 0 then line + 1 else line - 1
  match x.find partner with
  | some w =>
    if (s.slice (key / 2048)).cmpEn && s.lineCompressible line && s.lineCompressible partner && !(x.way w).locked then some w else none
  | none => none

/-- R336, R337, R340, R341: put a line into its set with an age: beside its partner when both compress, else in an empty or victim
slot; `keep` asks for a pin. Where every candidate is locked the fill waits (R346). -/
def State.place (s : State) (line : Nat) (st : LineSt) (age : Nat) (keep : Bool) : State :=
  let key := llcKey (line * 128)
  let s := match s.shareWay line with
    | some w =>
      let x := s.llcSet key
      (s.setLlc key (x.setWay w { (x.way w).setLine line (some st) with age := age })).countDie (key / 2048 / 32) 0x08 (key / 2048 % 32) 1
    | none =>
      match (s.llcSet key).victim with
      | some (y, v) => (s.setLlc key y).enterWay key v line st age
      | none => s.fillWait key ⟨line, st, age, keep, false⟩
  if keep then s.pinLine line else s

/-- R342, R343: a chaff drop: the line goes without write-back, so memory reads what HBM holds. -/
def State.chaffDrop (s : State) (line : Nat) : State :=
  let key := llcKey (line * 128)
  let s := s.dropLine line
  let s := { s with mem := copyLine s.hbm s.mem line }
  s.countDie (key / 2048 / 32) 0x04 (key / 2048 % 32) 1

/-- R337, R338: a write that makes a shared line incompressible splits the slot: the partner takes another way, with its own pin, or
stays until one is free. -/
def State.splitSlot (s : State) (line way : Nat) : State :=
  let key := llcKey (line * 128)
  let x := s.llcSet key
  let sl := x.way way
  let partner := if line % 2 = 0 then line + 1 else line - 1
  match sl.line partner with
  | none => s
  | some p =>
    if s.lineCompressible line && (s.slice (key / 2048)).cmpEn then s
    else
      match (x.setWay way { sl with locked := true }).victim with
      | none => s.fillWait key ⟨partner, p, sl.age, false, true⟩
      | some (y, v) =>
        (s.setLlc key (y.setWay way (sl.setLine partner none))).enterWay key v partner p sl.age

/-- R346: a waiting fill takes way `w`, whose lock has been released: what the way holds is evicted and the line installed there, as
the accesses to it left it; a line that was to leave a shared slot moves. -/
def State.fillInto (s : State) (key w : Nat) (f : WaitFill) : State :=
  if f.split then
    let x := s.llcSet key
    match x.find f.line with
    | some v =>
      if v = w then s
      else
        let sl := x.way v
        ((s.setLlc key (x.setWay v (sl.setLine f.line none))).enterWay key w f.line ((sl.line f.line).getD f.st) sl.age)
    | none => s
  else
    let s := s.enterWay key w f.line f.st f.age
    if f.keep then s.pinLine f.line else s

/-- R346: the oldest waiting fill of a set takes way `w`. -/
def State.resumeFill (s : State) (key w : Nat) : State :=
  match (s.llcSet key).waiting with
  | [] => s
  | f :: rest => (s.setLlc key { s.llcSet key with waiting := rest }).fillInto key w f

/-- R343-R346: the lock of a slot is released: the lines whose chaff mark waited are dropped, and a waiting fill of the set takes the
slot, unless it is pinned: a pinned slot is never a candidate. -/
def State.unlockSlot (s : State) (key way : Nat) : State :=
  let x := s.llcSet key
  let sl := x.way way
  if !sl.locked then s
  else
    let s := s.setLlc key (x.setWay way { sl with locked := false, run := 0 })
    let drop (s : State) (l : Option LineSt) (line : Nat) : State := if (l.map LineSt.mark).getD false then s.chaffDrop line else s
    let s := drop (drop s sl.l0 (sl.pair * 2)) sl.l1 (sl.pair * 2 + 1)
    if ((s.llcSet key).way way).pinned then s else s.resumeFill key way

/-- R346: an access that is no reduction waits for the lock of its line: the lock is released first. -/
def State.awaitLock (s : State) (key line : Nat) : State :=
  match (s.llcSet key).find line with
  | some w => s.unlockSlot key w
  | none => s

/-- The fill of `line` that waits in its set. -/
def State.waitingFill (s : State) (line : Nat) : Option WaitFill :=
  (s.llcSet (llcKey (line * 128))).waiting.find? fun f => decide (f.line = line) && !f.split

/-- R340: the age an access leaves on a line. -/
def hitAge (hint : Nat) : Nat := if hint = 2 then 3 else 0

/-- R341: what an access with a hint, under a hull with PIN or not, leaves of a line's pin. -/
def LineSt.touch (st : LineSt) (write : Bool) (hint : Nat) (pin : Bool) : LineSt :=
  { st with dirty := st.dirty || (write && !st.poisoned), pin := st.pin && !(pin && decide (hint = 2)) }

/-- R330, R346: an access arrives at the home slice of `line`: it waits for a lock on the line (a last-use mark does not), and a present
line is read and checked. -/
def State.llcArrive (s : State) (line : Nat) (lastUse : Bool) : State :=
  let s := if lastUse then s else s.awaitLock (llcKey (line * 128)) line
  s.slotCheck line

/-- R342, R343: a last-use mark reaches its line: the line is dropped, or when its slot's lock is released. -/
def State.chaffMark (s : State) (line : Nat) : State :=
  let key := llcKey (line * 128)
  let x := s.llcSet key
  match x.find line with
  | some w => if (x.way w).locked then s.modLine line fun st => { st with mark := true } else s.chaffDrop line
  | none => s

/-- R330, R339-R342, R346: one access to the line holding an HBM address at its home slice, after it has arrived: allocation, age, pin,
chaff and dirtiness. Memory itself is changed by the caller first. An access to a line whose fill waits is taken into that fill. -/
def State.llcTouch (s : State) (pa : Nat) (write : Bool) (hint : Nat) (pin chaff : Bool) : State :=
  let line := lineOf pa
  let key := llcKey pa
  let lastUse := chaff && decide (hint = 2) && !write
  let hint := if chaff then 0 else hint
  let keep := pin && decide (hint = 1) && !chaff
  let x := s.llcSet key
  match x.find line with
  | some w =>
    let sl := x.way w
    let st := (sl.line line).getD LineSt.clean
    let s := s.countDie (key / 2048 / 32) 0x01 (key / 2048 % 32) 1
    let s := s.setLlc key (x.setWay w { sl.setLine line (some (st.touch write hint pin)) with age := hitAge hint })
    let s := if write then s.splitSlot line w else s
    let s := if keep then s.pinLine line else s
    if lastUse then s.chaffMark line else s
  | none =>
    let s := s.countDie (key / 2048 / 32) 0x02 (key / 2048 % 32) 1
    match s.waitingFill line with
    | some f =>
      let rest := (s.llcSet key).waiting.filter fun g => decide (g ≠ f)
      if lastUse then ({ s.setLlc key { s.llcSet key with waiting := rest } with mem := copyLine s.hbm s.mem line }).countDie
          (key / 2048 / 32) 0x04 (key / 2048 % 32) 1
      else
        let g : WaitFill := { f with st := f.st.touch write hint pin, age := hitAge hint, keep := (f.keep && !(pin && decide (hint = 2))) || keep }
        s.setLlc key { s.llcSet key with waiting := (s.llcSet key).waiting.map fun y => if y = f then g else y }
    | none =>
      let s := s.hbmEnqueue line false
      if lastUse then if s.fillDead line then s.wantRevoke (s.ownerOf (line * 128)) else s
      else (s.place line { LineSt.clean with dirty := write && !s.fillDead line } (if hint = 1 then 0 else if hint = 2 then 3 else 2) keep).fillCheck line

/-! ### Accesses at home (R329, R330) -/

/-- `n` bytes as their home holds them: the values only. A poisoned line reads zero (R349), which `mem` already holds. -/
def State.homeBytes (s : State) (pa n : Nat) : List Byte := memBytes s.mem pa n

/-- R349, R350: an access finds no line present whose fill is uncorrectable. -/
def State.readsDead (s : State) (line : Nat) : Bool :=
  ((s.llcSet (llcKey (line * 128))).find line).isNone && (s.waitingFill line).isNone && s.fillDead line

/-- R342, R348-R350: read bytes within one line through its home slice: what the read delivers, and the slice after it. -/
def State.llcRead (s : State) (pa n hint : Nat) (pin chaff : Bool) : State × List Byte :=
  let s := s.llcArrive (lineOf pa) (chaff && decide (hint = 2))
  (s.llcTouch pa false hint pin chaff, if s.readsDead (lineOf pa) then List.replicate n 0 else s.homeBytes pa n)

/-! ### Scratchpad errors (R301) -/

/-- What a scratchpad read finds in the granule at `pa`: a corrected error counts; an uncorrectable one is recorded and the owner is
revoked. -/
def State.scratchErr (s : State) (pa : Nat) (e : MemErr) : State :=
  match regionOf pa with
  | .scratch c off =>
    match e with
    | .corrected =>
      let s := s.modCore c fun k => { k with cpy := { k.cpy with specc := setFld k.cpy.specc 15 0 (satAdd 16 (fld k.cpy.specc 15 0) 1) } }
      s.raise 0x23C (srcCore c) (off / 64 % 32) 0 off
    | .uncorrectable =>
      let s := s.modCore c fun k => { k with cpy := { k.cpy with specc := setFld (setBit k.cpy.specc 17 true) 34 18 (off / 16) } }
      let s := s.raise 0x23D (srcCore c) (off / 64 % 32) (s.ownerOf pa) off
      s.wantRevoke (s.ownerOf pa)
    | _ => s
  | _ => s

/-- The bytes that a read within one scratchpad granule delivers: zeros in place of an uncorrectable granule. -/
def scratchBytes (e : MemErr) (b : List Byte) : List Byte :=
  match e with
  | .uncorrectable => b.map fun _ => 0
  | _ => b

/-- R301: read scratchpad bytes: each granule is checked, and an uncorrectable one reads as zeros. -/
def State.scratchRead (s : State) (pa n : Nat) : State × List Byte :=
  let es := s.check.filter fun x => decide (pa / 16 ≤ x.1) && decide (x.1 * 16 < pa + n) && isArrayErr x.2
  (es.foldl (fun s x => s.scratchErr (x.1 * 16) x.2) s,
    (s.homeBytes pa n).mapIdx fun i b => if es.contains ((pa + i) / 16, .uncorrectable) then 0 else b)

/-- Read bytes of memory within one line at their home, with the effect there. -/
def State.homeReadLine (s : State) (pa n hint : Nat) (pin chaff : Bool) : State × List Byte :=
  match regionOf pa with
  | .scratch _ _ => s.scratchRead pa n
  | _ => if isHbm pa then s.llcRead pa n hint pin chaff else (s, s.homeBytes pa n)

/-- Read bytes of memory at their home, line by line. -/
def State.homeReadFuel : Nat → State → Nat → Nat → Nat → Bool → Bool → State × List Byte
  | 0, s, _, _, _, _, _ => (s, [])
  | fuel + 1, s, pa, n, hint, pin, chaff =>
    if n = 0 then (s, [])
    else
      let step := min n (128 - pa % 128)
      let r := s.homeReadLine pa step hint pin chaff
      let q := State.homeReadFuel fuel r.1 (pa + step) (n - step) hint pin chaff
      (q.1, r.2 ++ q.2)

/-- Read bytes of memory at their home with a hint. -/
def State.homeRead (s : State) (pa n hint : Nat) (pin chaff : Bool) : State × List Byte :=
  State.homeReadFuel (n / 128 + 2) s pa n hint pin chaff

/-- A normal read at home. -/
def State.readMem (s : State) (pa n : Nat) : State × List Byte := s.homeRead pa n 0 false false

/-- Write bytes at home within one line: after a lock on the line is released (R346), memory, then the slice; a poisoned line
discards them (R349). -/
def State.homeWriteLine (s : State) (pa : Nat) (b : List Byte) (hint : Nat) (pin chaff : Bool) : State :=
  if isHbm pa then
    let s := s.awaitLock (llcKey pa) (lineOf pa)
    if s.poisoned pa then s
    else if s.readsDead (lineOf pa) then s.llcTouch pa true hint pin chaff
    else ({ s with mem := memPut s.mem pa b } : State).llcTouch pa true hint pin chaff
  else { s with mem := memPut s.mem pa b }

/-- Write bytes at home, line by line. -/
def State.homeWriteFuel : Nat → State → Nat → List Byte → Nat → Bool → Bool → State
  | 0, s, _, _, _, _, _ => s
  | fuel + 1, s, pa, b, hint, pin, chaff =>
    if b.isEmpty then s
    else
      let step := 128 - pa % 128
      State.homeWriteFuel fuel (s.homeWriteLine pa (b.take step) hint pin chaff) (pa + step) (b.drop step) hint pin chaff

/-- Write bytes at home with a hint. -/
def State.homeWrite (s : State) (pa : Nat) (b : List Byte) (hint : Nat) (pin chaff : Bool) : State :=
  State.homeWriteFuel (b.length / 128 + 2) s pa b hint pin chaff

/-- A normal write at home. -/
def State.writeMem (s : State) (pa : Nat) (b : List Byte) : State := s.homeWrite pa b 0 false false

/-- Zero a physical range without passing the slice (husking, R329): both views of memory. -/
def State.huskRange (s : State) (pa n : Nat) : State :=
  let drop := tkeep fun k => decide (k < pa) || decide (pa + n ≤ k)
  { s with mem := drop s.mem, hbm := drop s.hbm }

/-! ### Translated accesses of units -/

/-- Translate and read `n` bytes, page by page (R141, R314): the bytes and physical pieces, or the fault. -/
inductive UnitTr where
  | ok (pieces : List (Nat × Nat × W64))
  | fault (code level addr : Nat)
  | pageIn (va : Nat)
  deriving DecidableEq, Repr

/-- R141: translate every page that `[va, va + n)` of domain `d` touches, in ascending order. -/
def State.translateRange : Nat → State → DomNo → Nat → Nat → AccKind → UnitTr
  | 0, _, _, _, _, _ => .ok []
  | fuel + 1, s, d, va, n, k =>
    if n = 0 then .ok []
    else
      match s.translate d va k with
      | .fault c l => .fault c l va
      | .pageIn => .pageIn va
      | .ok pa leaf =>
        let step := min n (65536 - va % 65536)
        match State.translateRange fuel s d (va + step) (n - step) k with
        | .ok l => .ok ((pa, step, leaf) :: l)
        | r => r

/-- Translate a range of at most 16 MiB plus a page. -/
def State.trRange (s : State) (d : DomNo) (va n : Nat) (k : AccKind) : UnitTr :=
  State.translateRange (n / 65536 + 2) s d va n k

/-- Read translated pieces at their homes, in order. -/
def State.piecesRead (s : State) (l : List (Nat × Nat × W64)) (hint : Nat) (pin : Bool) : State × List Byte :=
  l.foldl (fun r p =>
    let q := State.homeRead r.1 p.1 p.2.1 hint pin (decide (leafRet p.2.2 = 1))
    (q.1, r.2 ++ q.2)) (s, [])

/-- Write bytes over translated pieces. -/
def State.piecesWrite (s : State) : List (Nat × Nat × W64) → List Byte → Nat → Bool → State
  | [], _, _, _ => s
  | p :: l, b, hint, pin =>
    State.piecesWrite (s.homeWrite p.1 (b.take p.2.1) hint pin (decide (leafRet p.2.2 = 1))) l (b.drop p.2.1) hint pin

/-! ### L1 caches (R331-R335) -/

/-- The set index of an L1 line. -/
def l1Set (pa : Nat) : Nat := nfld pa 13 7

/-- The key of the way that holds `pa`'s line in an L1 with `ways` ways. -/
def l1Find (t : Table L1Line) (ways pa : Nat) : Option Nat :=
  ((List.range ways).map fun w => l1Set pa * ways + w).find? fun k =>
    (tget L1Line.none t k).valid && decide ((tget L1Line.none t k).tag = lineOf pa)

/-- R332: install a line with an age: the lowest invalid way, else age the set and take the lowest way of age 3. -/
def l1Install (t : Table L1Line) (ways pa age : Nat) (b : List Byte) : Table L1Line :=
  let ks := (List.range ways).map fun w => l1Set pa * ways + w
  let new : L1Line := ⟨true, lineOf pa, age, memPut [] 0 b⟩
  match ks.find? fun k => !(tget L1Line.none t k).valid with
  | some k => tset L1Line.none t k new
  | none =>
    let a := 3 - ks.foldl (fun m k => max m (tget L1Line.none t k).age) 0
    let t := ks.foldl (fun t k =>
      let l := tget L1Line.none t k
      tset L1Line.none t k { l with age := l.age + a }) t
    match ks.find? fun k => decide ((tget L1Line.none t k).age = 3) with
    | some k => tset L1Line.none t k new
    | none => t

/-- A hit sets the line's age to 0. -/
def l1Hit (t : Table L1Line) (k : Nat) : Table L1Line :=
  tset L1Line.none t k { tget L1Line.none t k with age := 0 }

/-- Bytes of a present line. -/
def l1Bytes (t : Table L1Line) (k pa n : Nat) : List Byte := memBytes (tget L1Line.none t k).data (pa % 128) n

/-- R98: a store updates a present line. -/
def l1Store (t : Table L1Line) (pa : Nat) (b : List Byte) : Table L1Line :=
  match l1Find t 8 pa with
  | some k =>
    let l := tget L1Line.none t k
    tset L1Line.none t k { l with data := memPut l.data (pa % 128) b }
  | none => t

/-- Drop a line. -/
def l1Drop (t : Table L1Line) (ways pa : Nat) : Table L1Line :=
  match l1Find t ways pa with
  | some k => tset L1Line.none t k L1Line.none
  | none => t

/-- R98: overlay the buffered stores of a core (oldest first) onto bytes read at `pa`. -/
def overlayOne (pa : Nat) (b : List Byte) (e : StoreEntry) : List Byte :=
  b.mapIdx fun i x => if e.pa ≤ pa + i && decide (pa + i < e.pa + e.bytes.length) then e.bytes.getD (pa + i - e.pa) x else x

/-- Overlay every buffered store. -/
def overlay (buf : List StoreEntry) (pa : Nat) (b : List Byte) : List Byte := buf.foldl (overlayOne pa) b

/-- The bytes of `[pa, pa + n)` that buffered stores supply, as (offset, byte). -/
def forwarded (buf : List StoreEntry) (pa n : Nat) : List (Nat × Byte) :=
  (List.range n).filterMap fun i =>
    (buf.reverse.find? fun e => decide (e.pa ≤ pa + i) && decide (pa + i < e.pa + e.bytes.length)).map fun e =>
      (i, e.bytes.getD (pa + i - e.pa) 0)

/-- Apply forwarded bytes. -/
def applyFwd (fwd : List (Nat × Byte)) (b : List Byte) : List Byte :=
  b.mapIdx fun i x => match fwd.find? fun f => decide (f.1 = i) with | some f => f.2 | none => x

end Sys2Proof.Machine
end

