-- ==== Sys2Proof/Machine/Caches.lean ====
section
/-! DEFINITION. The last-level cache and the HBM controllers: accesses at a home slice, reductions under the lock rule, error
handling and poisoning, bank queues, refresh, scrubbing, repair, and the clearing of their counters (R330, R344-R358,
R363-R365). -/

namespace Sys2Proof.Machine

/-- LLC_ACCESS (R330): a request is accepted and performed at its home slice; its check code finds what the request says (R348). -/
def execLlcAccess (r : LlcReq) (s : State) : Out :=
  if !isHbm r.addr then .fault .addressHole
  else
    .next (s.finding [(r.addr / 16, r.err)] fun s =>
      match r.kind with
      | .read => (s.homeRead r.addr 1 r.hint.toNat r.pin r.chaff).1
      | .write b => s.homeWriteLine r.addr (b.take (128 - r.addr % 128)) r.hint.toNat r.pin r.chaff)

/-! ### Reductions (R312, R344-R347) -/

/-- R312: the element size of an operation. -/
def redSize : RedOp → Nat
  | .addWx => 16
  | _ => 4

/-- R312, R74, R273: one element combined into another. -/
def redCombine (op : RedOp) (old new : Nat) : Nat :=
  match op with
  | .addF32 => f32Add old new
  | .addI32 => (old + new) % 2 ^ 32
  | .addWx => (wxReduce (BitVec.ofNat 128 old) (BitVec.ofNat 128 new)).toNat
  | .maxF32 => toF32 ((f32 old).max (f32 new))
  | .minF32 => toF32 ((f32 old).min (f32 new))
  | .maxI32 => if toSigned 32 old < toSigned 32 new then new else old
  | .minI32 => if toSigned 32 new < toSigned 32 old then new else old

/-- The operation REDOP names (R310). -/
def redOpOf (n : Nat) : Option RedOp :=
  match n with
  | 1 => some .addF32 | 2 => some .addI32 | 3 => some .addWx | 4 => some .maxF32 | 5 => some .minF32
  | 6 => some .maxI32 | 7 => some .minI32 | _ => none

/-- Combine element by element. -/
def redCombineAll (op : RedOp) : Nat → List Byte → List Byte → List Byte
  | 0, old, _ => old
  | n + 1, old, new =>
    leBytes (redSize op) (redCombine op (leAt old 0 (redSize op)) (leAt new 0 (redSize op))) ++
      redCombineAll op n (old.drop (redSize op)) (new.drop (redSize op))

/-- The ways of a set that are locked. -/
def LlcSet.lockedWays (x : LlcSet) : List Nat := (List.range 16).filter fun w => (x.way w).locked

/-- R364: slots locked now in a slice. -/
def State.lockedIn (s : State) (sl : Nat) : Nat :=
  s.llc.foldl (fun n e => if e.1 / 2048 = sl then n + e.2.lockedWays.length else n) 0

/-- Release every lock of a set: the runs of requests that held them are over. -/
def State.releaseSet (s : State) (key : Nat) : State :=
  (s.llcSet key).lockedWays.foldl (fun s w => s.unlockSlot key w) s

/-- R344: a tracker of slice `sl` becomes free: the run of requests on one of its locked lines is over. -/
def State.freeTracker (s : State) (sl : Nat) : State :=
  match s.llc.find? fun e => decide (e.1 / 2048 = sl) && decide (e.2.lockedWays ≠ []) with
  | some e => (match e.2.lockedWays.head? with | some w => s.unlockSlot e.1 w | none => s)
  | none => s

/-- R345: a line that is absent is filled with normal insertion. -/
def State.ensureLine (s : State) (line : Nat) : State :=
  let key := llcKey (line * 128)
  if ((s.llcSet key).find line).isSome then s
  else if (s.waitingFill line).isSome then s
  else (((s.countDie (key / 2048 / 32) 0x02 (key / 2048 % 32) 1).hbmEnqueue line false).place line LineSt.clean 2 false).fillCheck line

/-- R345, R366: combine into a present line: the slot is locked, the elements are combined, the line becomes dirty, and the lock is
released unless another request is queued for the line (`more`); a run ends after 16. A poisoned line discards the request. -/
def State.combineLine (s : State) (addr : Nat) (op : RedOp) (data : List Byte) (more : Bool) : State :=
  let key := llcKey addr
  let line := lineOf addr
  let s := s.slotCheck line
  let x := s.llcSet key
  match x.find line with
  | none => s
  | some w =>
    let sl := x.way w
    let st := (sl.line line).getD LineSt.clean
    if st.poisoned then s.unlockSlot key w
    else
      let new := redCombineAll op (data.length / redSize op) (s.homeBytes addr data.length) data
      let s := { s with mem := memPut s.mem addr new }
      let s := s.setLlc key (x.setWay w
        { sl.setLine line (some { st with dirty := true }) with age := 0, locked := true, run := sl.run + 1 })
      let s := s.splitSlot line w
      if more && decide (sl.run + 1 < 16) then s else s.unlockSlot key w

/-- R344-R346: one reduction request at its home slice. A request that must wait (32 trackers in use, a fill waiting in its set,
or every candidate way locked) goes on once the locks it waits for are released. -/
def State.reduceAt (s : State) (addr : Nat) (op : RedOp) (data : List Byte) (more : Bool) : State :=
  if !isHbm addr || decide (addr % 128 + data.length > 128) || decide (addr % redSize op ≠ 0) || decide (data.length % redSize op ≠ 0) then s
  else
    let key := llcKey addr
    let line := lineOf addr
    let s := s.countDie (key / 2048 / 32) 0x06 (key / 2048 % 32) 1
    let held := match (s.llcSet key).find line with | some w => ((s.llcSet key).way w).locked | none => false
    let s := if held then s
      else if decide (s.lockedIn (key / 2048) ≥ 32) then s.freeTracker (key / 2048)
      else if !(s.llcSet key).waiting.isEmpty then s.releaseSet key
      else s
    let s := s.ensureLine line
    let s := if ((s.llcSet key).find line).isSome then s else s.releaseSet key
    s.combineLine addr op data more

/-- R312, R344: reduce bytes into memory line by line. -/
def State.reduceRange : Nat → State → Nat → RedOp → List Byte → State
  | 0, s, _, _, _ => s
  | fuel + 1, s, addr, op, b =>
    if b.isEmpty then s
    else
      let step := 128 - addr % 128
      State.reduceRange fuel (s.reduceAt addr op (b.take step) false) (addr + step) op (b.drop step)

/-- REDUCTION_REQUEST (R344, R345): `more` says that another request is queued for the line; `e` is what the reads of it find. -/
def execReductionRequest (addr : Nat) (op : RedOp) (data : List Byte) (more : Bool) (e : ErrMap) (s : State) : Out :=
  if !isHbm addr then .fault .addressHole else .next (s.finding e fun s => s.reduceAt addr op data more)

/-- LOCKED_FILL_RESUME (R346): the fill that waits in a set takes the first slot, not pinned, whose lock is released. -/
def execLockedFillResume (slice : Fin 128) (set : Fin 2048) (s : State) : Out :=
  .next (
    let key := slice.val * 2048 + set.val
    let x := s.llcSet key
    match x.lockedWays.find? fun w => !(x.way w).pinned with
    | some w => s.unlockSlot key w
    | none =>
      if x.waiting.isEmpty then s
      else
        match x.victim with
        | some (y, w) => (s.setLlc key y).resumeFill key w
        | none => s)

/-! ### HBM controllers (R350-R358) -/

/-- The key of a bank. -/
def bankIdKey (q : BankId) : Nat := q.stack.val * 4096 + q.pc.val * 64 + q.bank.val

/-- R353: freed entries of a bank queue go to the earliest requests that wait for the bank; the overflows they leave take requests
from the inputs of the stack's slices. -/
def State.bankRefill (s : State) (k : Nat) : State :=
  let q := tget [] s.banks k
  let w := tget [] s.hbmWait k
  let n := 16 - q.length
  let s := { s with banks := tset [] s.banks k (q ++ w.take n), hbmWait := tset [] s.hbmWait k (w.drop n) }
  (List.range 8).foldl (fun s i => s.acceptReqs (k / 4096 / 4 * 32 + 8 * (k / 4096 % 4) + i)) s

/-- The key of a row within its stack. -/
def rowKey (pc bank row : Nat) : Nat := (pc * 64 + bank) * 16384 + row

/-- R357: note a corrected error of a row; 8 in a pass, or an uncorrectable one, make a repair due. -/
def StackRegs.noteRow (r : StackRegs) (key n : Nat) : StackRegs :=
  { r with rowCe := tset 0 r.rowCe key (min 8 (tget 0 r.rowCe key + n)) }

/-- R350: the controller records what a read of the stack at bank `q`, row `row` finds. -/
def State.hbmNote (s : State) (q : BankId) (row : Nat) (e : MemErr) : State :=
  let x := q.stack.val
  let r := s.stack x
  let arg := q.bank.val + row * 256
  let k := rowKey q.pc.val q.bank.val row
  match e with
  | .stackReport => (s.setStack x { r with odecc := satInc r.odecc 1 }).raise 0x252 (srcStack x) q.pc.val 0 0
  | .stackCorrected =>
    (s.setStack x (({ r with ce := satInc r.ce 1 } : StackRegs).noteRow k 1)).raise 0x250 (srcStack x) q.pc.val 0 arg
  | .stackUncorrectable =>
    (s.setStack x (({ r with
      ue := true, uePc := BitVec.ofNat 6 q.pc.val, ueBank := BitVec.ofNat 6 q.bank.val,
      ueRow := BitVec.ofNat 14 row } : StackRegs).noteRow k 8)).raise 0x251 (srcStack x) q.pc.val 0 arg
  | _ => s

/-- R350: a read of the stack that no access awaits is uncorrectable: the line is poisoned, or dropped when its page has no owner. -/
def State.hbmErr (s : State) (q : BankId) (row line : Nat) (e : MemErr) : State :=
  let s := s.hbmNote q row e
  if e ≠ .stackUncorrectable then s else if s.ownerOf (line * 128) ≠ 0 then s.poisonLine line else s.dropLine line

/-- HBM_ISSUE (R353, R354): the oldest request of a bank queue issues to the stack; 128 bytes move; the freed entry goes to the
earliest waiting request. Nothing issues before training completes (R358). -/
def execHbmIssue (q : BankId) (s : State) : Out :=
  .next (
    let x := q.stack.val
    if !(s.stack x).ready then s
    else
      let s := s.bankRefill (bankIdKey q)
      match tget [] s.banks (bankIdKey q) with
      | [] => s
      | r :: rest =>
        let s := { s with banks := tset [] s.banks (bankIdKey q) rest }
        let s := s.bankRefill (bankIdKey q)
        let s := s.countDie (x / 4) (if r.write then 0x0A else 0x09) (x % 4) 128
        let s := s.bwAdd (x / 4) (x % 4) (b2n r.write) 128
        r.errs.foldl (fun s e => s.hbmNote q (rowOf (r.line * 128)) e) s)

/-- HBM_REFRESH (R351): a per-bank refresh, or RFM, runs; it changes no data. -/
def execHbmRefresh (q : BankId) (s : State) : Out :=
  .next (
    let r := s.stack q.stack.val
    if r.ready then s.setStack q.stack.val { r with refreshes := r.refreshes + 1 } else s)

/-- REFRESH_DOUBLE (R355): above 85 degrees the controller doubles the refresh rate and records 0x255. -/
def execRefreshDouble (stack : Fin 16) (temp : BitVec 8) (s : State) : Out :=
  .next (
    let r := s.stack stack.val
    if decide (temp.toNat ≤ 85) || r.refx2 then s
    else (s.setStack stack.val { r with refx2 := true }).raise 0x255 (srcStack stack.val) temp.toNat 0 0)

/-- REFRESH_RATE_RESTORE (R355): at 85 degrees or below, normal refresh again. -/
def execRefreshRateRestore (stack : Fin 16) (temp : BitVec 8) (s : State) : Out :=
  .next (if temp.toNat ≤ 85 then s.setStack stack.val { s.stack stack.val with refx2 := false } else s)

/-- R352: the bank and row of the 256-byte unit `u` of a stack. -/
def unitBank (stack : Fin 16) (u : Nat) : BankId × Nat :=
  (⟨stack, Fin.ofNat 64 (nfld u 5 0 ^^^ nfld u 13 8), Fin.ofNat 64 (nfld u 13 8 ^^^ nfld u 19 14)⟩, nfld u 27 14)

/-- PATROL_SCRUB (R356): unit `unit` of a stack is read; a corrected unit is written back corrected, which changes no data. A
pass over all 250,000,000 units counts in SCRUBS and starts the corrected counts of its rows again. -/
def execPatrolScrub (stack : Fin 16) (unit : Nat) (e : MemErr) (s : State) : Out :=
  .next (
    let x := stack.val
    if !(s.stack x).ready || decide (unit ≥ 250000000) then s
    else
      let b := unitBank stack unit
      let line := (x * 0x1000000000 + unit * 256) / 128
      let s := s.countDie (x / 4) 0x09 (x % 4) 256
      let s := s.bwAdd (x / 4) (x % 4) 0 256
      let s := if e = .stackUncorrectable then s.ensureLine line else s
      let s := if e = .stackCorrected || e = .corrected then (s.countDie (x / 4) 0x0A (x % 4) 256).bwAdd (x / 4) (x % 4) 1 256 else s
      let s := s.hbmErr b.1 b.2 line e
      let r := s.stack x
      s.setStack x (if unit ≠ r.patrol then r else if unit + 1 = 250000000 then { r with patrol := 0, scrubs := satInc r.scrubs 1, rowCe := [] }
        else { r with patrol := unit + 1 }))

/-- SOFT_REPAIR (R357): a row whose corrected errors reached 8 in a pass, or that gave an uncorrectable error, is repaired under a
hold of its bank; no data changes; a hard repair is scheduled for the next module reset. -/
def execSoftRepair (q : BankId) (row : BitVec 14) (s : State) : Out :=
  .next (
    let x := q.stack.val
    let r := s.stack x
    let k := rowKey q.pc.val q.bank.val row.toNat
    if tget 0 r.rowCe k < 8 then s
    else
      let s := s.setStack x { r with sppr := satInc r.sppr 1, rowCe := tset 0 r.rowCe k 0, hardRepairs := r.hardRepairs ++ [k] }
      let s := s.raise 0x253 (srcStack x) q.bank.val 0 row.toNat
      s.raise 0x254 (srcStack x) q.bank.val 0 row.toNat)

/-! ### Counter clears -/

/-- SPECC_CE_CLR (R324). -/
def execSpeccCeClr (core : Fin 256) (s : State) : Out :=
  .next (s.modCore core.val fun k => { k with cpy := { k.cpy with specc := setFld k.cpy.specc 15 0 0 } })

/-- L1_ECC_CLR (R363). -/
def execL1EccClr (core : Fin 256) (s : State) : Out :=
  .next (s.modCore core.val fun k => { k with l1dCount := 0, l1iCount := 0 })

/-- LLC_CE_CLR (R364). -/
def execLlcCeClr (slice : Fin 128) (s : State) : Out :=
  .next (s.setSlice slice.val { s.slice slice.val with ce := 0 })

/-- LLC_STAT_CLR (R364). -/
def execLlcStatClr (slice : Fin 128) (s : State) : Out :=
  .next (s.setSlice slice.val { s.slice slice.val with demoted := 0 })

/-- QFULL_CLR (R365). -/
def execQfullClr (stack : Fin 16) (s : State) : Out :=
  .next (s.setStack stack.val { s.stack stack.val with qfull := 0 })

/-- MC_CE_CLR (R365). -/
def execMcCeClr (stack : Fin 16) (s : State) : Out :=
  .next (s.setStack stack.val { s.stack stack.val with ce := 0, odecc := 0 })

end Sys2Proof.Machine
end

