-- ==== Sys2Proof/Machine/MgmtOps.lean ====
section
/-! DEFINITION. Named operations over the management plane's state: mailboxes, functions and MSI-X messages, ALERT causes, pods,
the always-on store (chapters 16, 17). -/

namespace Sys2Proof.Machine

/-- Apply `f` to the management plane. -/
def State.modMgmt (s : State) (f : Mgmt → Mgmt) : State := { s with mgmt := f s.mgmt }

/-- Mailbox `m`: 0-63 host, 64 + i internal mailbox i (R472). -/
def State.mbx (s : State) (m : Nat) : Mbx := tget Mbx.reset s.mgmt.mbx m

/-- Replace mailbox `m`. -/
def State.setMbx (s : State) (m : Nat) (x : Mbx) : State :=
  s.modMgmt fun g => { g with mbx := tset Mbx.reset g.mbx m x }

/-- Function `f`. -/
def State.func (s : State) (f : Nat) : Func := tget Func.reset s.mgmt.funcs f

/-- Replace function `f`. -/
def State.setFunc (s : State) (f : Nat) (x : Func) : State :=
  s.modMgmt fun g => { g with funcs := tset Func.reset g.funcs f x }

/-- Apply `f` to the power state. -/
def State.modPwr (s : State) (f : Pwr → Pwr) : State := s.modMgmt fun g => { g with pwr := f g.pwr }

/-- Apply `f` to the boot state. -/
def State.modBoot (s : State) (f : Boot → Boot) : State := s.modMgmt fun g => { g with boot := f g.boot }

/-- Apply `f` to the granary. -/
def State.modGrn (s : State) (f : Granary → Granary) : State := s.modMgmt fun g => { g with grn := f g.grn }

/-- Pod `p`. -/
def State.pod (s : State) (p : Nat) : PodReg := tget PodReg.reset s.mgmt.pwr.pods p

/-- Replace pod `p`. -/
def State.setPod (s : State) (p : Nat) (x : PodReg) : State :=
  s.modPwr fun w => { w with pods := tset PodReg.reset w.pods p x }

/-- R18: the cores of a pod. -/
def coresOfPod (p : Nat) : List Nat := (List.range 8).map fun i => 8 * p + i

/-- R45, R486: the pod of a core takes waves and issues: its STATE is RUN, or UNPARKING with the slew
over, and the reference is good. -/
def State.podRuns (s : State) (c : Nat) : Bool :=
  let p := s.pod (podOfCore c)
  (p.state == 0 || (p.state == 3 && p.ready)) && s.mgmt.boot.state != .halted

/-- R45, R486: the pod of a core takes no wave: it is parked, its rail goes to retention or has not come back, or the module is
halted. -/
def State.podStopped (s : State) (c : Nat) : Bool :=
  let p := s.pod (podOfCore c)
  p.state == 2 || (p.state == 1 && p.ready) || (p.state == 3 && !p.ready) || s.mgmt.boot.state == .halted

/-- R486: the core whose scratchpad or register window holds a physical address. -/
def coreAt (pa : Nat) : Option Nat :=
  match regionOf pa with
  | .scratch c _ => some c
  | .coreReg c _ => some c
  | _ => none

/-- R486: an access at a physical address waits at the fabric port of a parked pod. -/
def State.padWaits (s : State) (pa : Nat) : Bool :=
  match coreAt pa with
  | some c => s.podStopped c
  | none => false

/-- R486: some translated piece waits. -/
def State.piecesWait (s : State) (l : List (Nat × Nat × W64)) : Bool := l.any fun p => s.padWaits p.1

/-- R564: boot has completed (step 10), and no loss of the reference has halted the module (R45). -/
def State.booted (s : State) : Bool := s.mgmt.boot.done && s.mgmt.boot.state != .halted

/-- R45: the PCIe island stands. -/
def State.pcieStands (s : State) : Bool := s.mgmt.pcieDown || s.mgmt.boot.state == .halted

/-- R45, R545: the host reaches the module: boot has completed and the PCIe island runs. -/
def State.hostUp (s : State) : Bool := s.booted && !s.pcieStands

/-- R513, R583: AVAIL: set at the end of boot, and clear while test access is active: any TAP instruction but IDCODE and BYPASS. -/
def State.available (s : State) : Bool := s.pmc.avail && (s.mgmt.jtag == 0x01 || s.mgmt.jtag == 0xFF)

/-! ### MSI-X (R479, R483) -/

/-- The reset value of an MSI-X table entry: its vector mask is set (PCIe; log entry 43). -/
def msixMasked : W128 := BitVec.ofNat 128 (2 ^ 96)

/-- R483: function `f` sends vector `v`: a masked vector sets its pending bit. -/
def State.msix (s : State) (f v : Nat) : State :=
  let x := s.func f
  if bit (tget msixMasked x.msix v) 96 then (if x.pba.contains v then s else s.setFunc f { x with pba := x.pba ++ [v] })
  else s.modMgmt fun g => { g with msgs := g.msgs ++ [(f, v)] }

/-- R483: the functions whose bound domain is `d` send vector `v`. -/
def State.domainMsix (s : State) (d : DomNo) (v : Nat) : State :=
  if d = 0 then s
  else s.mgmt.funcs.foldl (fun s e => if e.2.dom = d then s.msix e.1 v else s) s

/-- R483: a bound vector is sent for a changed object; changes before the delivery coalesce into one message. -/
def State.irqObject (s : State) (d : DomNo) (obj : Nat) : State :=
  s.mgmt.funcs.foldl (fun s e =>
    if e.2.dom = d then
      e.2.irqs.foldl (fun s v =>
        if v.2 = some obj && !s.mgmt.msgs.contains (e.1, v.1) then s.msix e.1 v.1 else s) s
    else s) s

/-! ### ALERT_N (R490) -/

/-- ALERT_N: some cause stands or has not been acknowledged. -/
def State.setAlert (s : State) : State :=
  let on := s.mgmt.pwr.causes ||| s.mgmt.pwr.unacked != 0
  if on && !s.alert then ({ s with alert := true } : State).msix 0 1 else { s with alert := on }

/-- R490: cause `i` is raised; `stands` says that it is present now, and not only an event. -/
def State.alertCause (s : State) (i : Nat) (stands : Bool) : State :=
  (s.modPwr fun w => { w with causes := setBit w.causes i (stands || bit w.causes i), unacked := setBit w.unacked i true }).setAlert

/-- R490: cause `i` is no longer present. -/
def State.alertGone (s : State) (i : Nat) : State :=
  (s.modPwr fun w => { w with causes := setBit w.causes i false }).setAlert

/-- R490: ALERT_ACK: a cause that is no longer present is acknowledged. -/
def State.alertAck (s : State) (mask : W32) : State :=
  (s.modPwr fun w => { w with unacked := w.unacked &&& ~~~(mask.setWidth 6 &&& ~~~w.causes) }).setAlert

/-! ### The always-on store (R503) -/

/-- R503: write an entry to the always-on store. -/
def State.aosWrite (s : State) (code value : Nat) (det : W64) : State :=
  { s with evr := { s.evr with aos := aosPut s.evr.aos ⟨code, BitVec.ofNat 32 value, det, s.timeOf 4, s.mgmt.boot.bootn⟩ } }

/-- An occurrence of a starred code: recorded, and written to the always-on store (R503, R506). -/
def State.raiseAos (s : State) (code : Nat) (src : Src) (value arg : Nat) : State :=
  (s.raise code src value 0 arg).aosWrite code value (detWord src 0 arg)

/-! ### Free choices -/

/-- The first of `fuel` numbers from `k`, modulo `n`, that satisfies `p`. -/
def findFrom (n : Nat) (p : Nat → Bool) : Nat → Nat → Option Nat
  | 0, _ => none
  | fuel + 1, k => if p (k % n) then some (k % n) else findFrom n p fuel (k + 1)

/-- The first element, at or after a free starting point, that satisfies `p`: a choice the spec leaves open among free instances
(log entry 44). -/
def findFree (n : Nat) (start : W64) (p : Nat → Bool) : Option Nat := findFrom n p n (start.toNat % n)

/-- The next free value of the model's stream. -/
def State.fresh (s : State) : State × W64 := ({ s with freeCtr := s.freeCtr + 1 }, Config.free64 s.freeCtr)

end Sys2Proof.Machine
end

