-- ==== Sys2Proof/Machine/SyncOps.lean ====
section
/-! DEFINITION. Synchronisation objects: words, operations, statuses, waiters, residency, signals (chapter 14),
and the capture request a trigger object makes (R512). -/

namespace Sys2Proof.Machine

/-- The key of object `obj` of domain `d`'s namespace. -/
def objKey (d : DomNo) (obj : Nat) : Nat := d * 65536 + obj

/-- R404: the object lies in a granted range. -/
def State.objExists (s : State) (d : DomNo) (obj : Nat) : Bool :=
  decide (obj < 65536) && s.sync.grants.any fun r => decide (r.1 = d) && decide (r.2.1 ≤ obj) && decide (obj < r.2.1 + r.2.2)

/-- R407: the object's word. -/
def State.objWord (s : State) (d : DomNo) (obj : Nat) : W64 := tget 0 s.sync.words (objKey d obj)

/-- Replace the object's word. -/
def State.setObj (s : State) (d : DomNo) (obj : Nat) (x : W64) : State :=
  { s with sync := { s.sync with words := tset 0 s.sync.words (objKey d obj) x } }

/-- R405: the home die of an object. -/
def objDie (obj : Nat) : Nat := obj / 16384

/-- R407: TYPE. -/
def objType (x : W64) : Nat := fld x 63 61

/-- R407: STATUS. -/
def objStatus (x : W64) : Nat := fld x 60 53

/-- R408: the operations. -/
inductive ObjOp where
  | inc (n : Nat)
  | dec (n : Nat)
  | set (v : W64)
  | cfg (v : W64)
  | arrive
  deriving DecidableEq, Repr

/-- R408: whether a CFG value is acceptable: type not reserved, a barrier's EXPECT non-zero, reserved bits zero. -/
def cfgOk (v : W64) : Bool :=
  match objType v with
  | 0 => decide (fld v 52 32 = 0)
  | 1 => decide (fld v 52 32 = 0)
  | 2 => decide (fld v 52 48 = 0) && decide (fld v 31 16 ≠ 0)
  | 3 => decide (fld v 52 1 = 0)
  | 4 => decide (fld v 52 41 = 0)
  | _ => false

/-- R408: the word a CFG write stores: TYPE, EXPECT, CORE and EN from v, every other field zero. -/
def cfgWord (v : W64) : W64 :=
  let t : W64 := setFld 0 63 61 (objType v)
  match objType v with
  | 2 => setFld t 31 16 (fld v 31 16)
  | 4 => setFld t 40 32 (fld v 40 32)
  | _ => t

/-- R410: an arrival: ARRIVED + 1, completing the phase at EXPECT. -/
def arriveWord (x : W64) : W64 :=
  let a := fld x 15 0 + 1
  if a = fld x 31 16 then setFld (setFld x 15 0 0) 47 32 (fld x 47 32 + 1) else setFld x 15 0 a

/-- R408: the word after an operation; none where the type does not accept it. A semaphore's YDEC is accepted only
when it fits. -/
def objApply (x : W64) : ObjOp → Option W64
  | .inc n =>
    match objType x with
    | 0 => some (setFld x 31 0 (fld x 31 0 + n))
    | 1 => some (setFld x 31 0 (satAdd 32 (fld x 31 0) n))
    | 3 => some (setFld x 0 0 1)
    | 4 => some (setFld x 31 0 (fld x 31 0 + n))
    | _ => none
  | .dec n =>
    match objType x with
    | 0 => some (setFld x 31 0 (fld x 31 0 + (2 ^ 32 - n % 2 ^ 32)))
    | 1 => some (setFld x 31 0 (fld x 31 0 - n))
    | 3 => some (setFld x 0 0 0)
    | _ => none
  | .set v =>
    match objType x with
    | 0 => some (setFld (setFld x 31 0 (fld v 31 0)) 60 53 0)
    | 1 => some (setFld (setFld x 31 0 (fld v 31 0)) 60 53 0)
    | 3 => some (setFld (setFld x 0 0 (fld v 0 0)) 60 53 0)
    | 4 => some (setFld (setFld x 31 0 (fld v 31 0)) 60 53 0)
    | _ => none
  | .cfg v => if cfgOk v then some (cfgWord v) else none
  | .arrive => if objType x = 2 then some (arriveWord x) else none

/-- WAIT, SIGNAL, SET, REMOTE, CONFIG (R116). -/
def rWAIT : Nat := 0x1
/-- SIGNAL. -/
def rSIGNAL : Nat := 0x2
/-- SET. -/
def rSET : Nat := 0x4
/-- REMOTE. -/
def rREMOTE : Nat := 0x8
/-- CONFIG. -/
def rCONFIG : Nat := 0x10

/-- R112: a sync-range hull's first object and module id. -/
def syncFirst (h : W128) : Nat := nfld (hBase h) 15 0
/-- R112: a sync-range hull's module id. -/
def syncModule (h : W128) : Nat := nfld (hBase h) 27 16

/-- R120 on a sync-range hull for an object of this module. -/
def localSyncFault (s : State) (h : W128) (mask obj : Nat) : Option Nat :=
  match hullCheck4 s h 2 mask with
  | some c => some c
  | none =>
    if obj < syncFirst h || syncFirst h + hLen h ≤ obj || syncModule h ≠ s.moduleId.toNat then some 0x0D else none

/-- R408: YWAIT with operand p is satisfied by the word. -/
def waitHolds (x : W64) (p : W64) : Bool :=
  let diff := (fld x 31 0 + (2 ^ 32 - p.toNat % 2 ^ 32)) % 2 ^ 32
  match objType x with
  | 0 => decide (diff < 2 ^ 31)
  | 1 => decide (p.toNat ≤ fld x 31 0)
  | 2 => decide (fld x 47 32 ≠ fld p 15 0)
  | 3 => bit x 0
  | 4 => decide (diff < 2 ^ 31)
  | _ => false

/-- R409: fold a signal's status into a word whose STATUS is zero. -/
def mergeStatus (x : W64) (status : Nat) : W64 :=
  if status ≠ 0 && objStatus x = 0 then setFld x 60 53 status else x

/-- R405, R420: an operation on a non-resident object fetches its word first; a resident object without waiters
gives up its entry when the die's 16,384 entries are taken. -/
def State.objFetch (s : State) (d : DomNo) (obj : Nat) : State :=
  let die := objDie obj
  let k := objKey d obj
  let l := tget [] s.sync.resident die
  if l.contains k then s
  else
    let s := { s with sync := { s.sync with fills := tset 0 s.sync.fills die (satInc (tget 0 s.sync.fills die) 1) } }
    let s := s.raise 0x330 (srcDie die) 0 d obj
    let s := s.countDie die 0x0F 0 1
    if l.length < 16384 then { s with sync := { s.sync with resident := tset [] s.sync.resident die (l ++ [k]) } }
    else
      match l.find? fun e => !s.sync.waiters.any fun w => decide (objKey w.dom w.obj = e) with
      | none => s
      | some v =>
        let s := { s with sync := { s.sync with
          resident := tset [] s.sync.resident die (l.filter (fun e => decide (e ≠ v)) ++ [k]),
          spills := tset 0 s.sync.spills die (satInc (tget 0 s.sync.spills die) 1) } }
        let s := s.raise 0x330 (srcDie die) 1 (v / 65536) (v % 65536)
        s.countDie 4 0x49 0 1

/-- R416: pass over the waiters of one object in arrival order, with the word: satisfied waiters become released;
a semaphore's parked YDECs are served strictly first-come, taking their amounts. Answers the waiters and the word. -/
def serveWaiters (d : DomNo) (obj : Nat) : List Waiter → W64 → Bool → List Waiter × W64
  | [], x, _ => ([], x)
  | w :: t, x, blocked =>
    if w.dom ≠ d || w.obj ≠ obj then
      let r := serveWaiters d obj t x blocked
      (w :: r.1, r.2)
    else
      match w.wait with
      | .ywait p =>
        let r := serveWaiters d obj t x blocked
        ((if waitHolds x p then { w with wait := .released x (objStatus x) false } else w) :: r.1, r.2)
      | .ydec n =>
        if !blocked && decide (n ≤ fld x 31 0) then
          let r := serveWaiters d obj t (setFld x 31 0 (fld x 31 0 - n)) blocked
          ({ w with wait := .released x (objStatus x) false } :: r.1, r.2)
        else
          let r := serveWaiters d obj t x true
          (w :: r.1, r.2)
      | .released _ _ _ =>
        let r := serveWaiters d obj t x blocked
        (w :: r.1, r.2)

/-- R408, R135: release every waiter of an object with FLT_SYNC_RESET (0x51) and the word before the reset. -/
def resetWaiters (d : DomNo) (obj : Nat) (x : W64) (l : List Waiter) : List Waiter :=
  l.map fun w =>
    if w.dom = d && decide (w.obj = obj) then
      match w.wait with
      | .released _ _ _ => w
      | _ => { w with wait := .released x 0x51 true }
    else w

/-- R512: a capture request: Tc is the first multiple of 1,000 ns at least 4 us away; a request before an earlier
capture's Tc is ignored and counted. -/
def State.requestCapture (s : State) (mode : Nat) (mbx : Option Nat) : State :=
  match s.pmc.capture with
  | some _ => { s with pmc := { s.pmc with missed := satInc s.pmc.missed 1 } }
  | none =>
    let tc := (s.time.toNat + 4000 + 999) / 1000 * 1000
    { s with pmc := { s.pmc with capture := some ⟨mode, BitVec.ofNat 64 tc, mbx⟩ } }

/-- R511: each operation that changes the trigger object's word triggers MODE while AVAIL. -/
def State.objTrigger (s : State) (d : DomNo) (obj : Nat) (before after : W64) : State :=
  let t := s.pmc.trig
  if bit t 30 && s.available && decide (fld t 15 0 = obj) && decide (fld t 27 16 = d) && decide (before ≠ after) &&
      decide (fld t 29 28 < 3) then
    s.requestCapture (fld t 29 28) none
  else s

/-- R408: a YINC on an enabled doorbell makes vector 33 pending in its core, when that core is assigned to the
domain whose namespace holds the object. -/
def State.ringBell (s : State) (d : DomNo) (x : W64) (op : ObjOp) : State :=
  match op with
  | .inc _ =>
    if decide (objType x = 4) && bit x 40 && decide ((s.core (fld x 39 32)).domain = d) then s.pendVec (fld x 39 32) 33
    else s
  | _ => s

/-- R483: a YINC or YSET (YSET with CFG too) that changes an object sends the vectors bound to it. -/
def State.objIrq (s : State) (d : DomNo) (obj : Nat) (op : ObjOp) (before after : W64) : State :=
  match op with
  | .dec _ => s
  | .arrive => s
  | _ => if before = after then s else s.irqObject d obj

/-- How many waiting YDECs a pass of R417 performed: each counts as a sync operation of its own (R508). -/
def decsServed (before after : List Waiter) : Nat :=
  (before.zip after).countP fun p => match p.1.wait, p.2.wait with
    | .ydec _, .released _ _ _ => true
    | _, _ => false

/-- R408-R411, R416: perform an operation that the type accepts (`x'` is the word it gives): fetch, word, status,
waiters, doorbell, trigger. -/
def State.objPerform (s : State) (d : DomNo) (obj : Nat) (op : ObjOp) (x' : W64) (status : Nat) : State :=
  let s := s.objFetch d obj
  let x := s.objWord d obj
  let x' := mergeStatus x' status
  let s := s.countDie (objDie obj) 0x0E 0 1
  match op with
  | .cfg _ =>
    let s := { s with sync := { s.sync with waiters := resetWaiters d obj x s.sync.waiters } }
    ((s.setObj d obj x').objTrigger d obj x x').objIrq d obj op x x'
  | _ =>
    let r := serveWaiters d obj s.sync.waiters x' false
    let s := s.countDie (objDie obj) 0x0E 0 (decsServed s.sync.waiters r.1)
    let s := { s with sync := { s.sync with waiters := r.1 } }
    (((s.setObj d obj r.2).ringBell d x op).objTrigger d obj x r.2).objIrq d obj op x r.2

/-- R409: a signal that finds no object, or a type that does not accept it, performs nothing and records 0x332. -/
def State.objSignal (s : State) (d : DomNo) (obj : Nat) (op : ObjOp) (status : Nat) : State :=
  if !s.objExists d obj then s.raise 0x332 (srcDie (objDie obj)) 0 d obj
  else
    match objApply (s.objWord d obj) op with
    | none => s.raise 0x332 (srcDie (objDie obj)) (objType (s.objWord d obj)) d obj
    | some x =>
      let t := s.objPerform d obj op x status
      match op with
      | .arrive => if s.objWord d obj = t.objWord d obj then t else t.irqObject d obj
      | _ => t

/-- R268, R408: a descriptor's SIGNAL: kind 1 is YINC by AMOUNT, kind 2 YARRIVE, in the namespace of its hull. -/
def State.signal (s : State) (g : Signal) (status : Nat) : State :=
  match g.kind with
  | 1 => s.objSignal (hSeal g.hull) g.obj (.inc g.amount) status
  | 2 => s.objSignal (hSeal g.hull) g.obj .arrive status
  | _ => s

/-- R416: add a waiter at the end of the arrival order. -/
def State.addWaiter (s : State) (w : Waiter) : State := { s with sync := { s.sync with waiters := s.sync.waiters ++ [w] } }

/-- R417: remove a party's waiter entry; nothing it awaited is consumed. A YDEC already released at a semaphore has
taken its amount and is not undone. -/
def State.dropWaiter (s : State) (p : WaitParty) : State :=
  { s with sync := { s.sync with waiters := s.sync.waiters.filter fun w => decide (w.party ≠ p) } }

/-- The waiter entry of a party, if it holds one. -/
def State.waiterOf (s : State) (p : WaitParty) : Option Waiter := s.sync.waiters.find? fun w => decide (w.party = p)

/-- R421: reset every object of a domain's namespace to zero, releasing its waiters with FLT_SYNC_RESET. -/
def State.resetNamespace (s : State) (d : DomNo) : State :=
  let ws := s.sync.waiters.map fun w =>
    if w.dom = d then
      match w.wait with
      | .released _ _ _ => w
      | _ => { w with wait := .released (s.objWord w.dom w.obj) 0x51 true }
    else w
  let trig := s.pmc.trig
  let obj := fld trig 15 0
  let before := s.objWord d obj
  let s := { s with sync := { s.sync with
    waiters := ws, words := tkeep (fun k => decide (k / 65536 ≠ d)) s.sync.words } }
  if fld trig 27 16 = d then s.objTrigger d obj before 0 else s

end Sys2Proof.Machine
end

