-- ==== Sys2Proof/Machine/MbxOps.lean ====
section
/-! DEFINITION. The mailbox framework: how a command is accepted, checked, answered (R472-R477). -/

namespace Sys2Proof.Machine

/-- Field of `n` bytes at offset `o` of the captured command (R474). -/
def Mbx.at (x : Mbx) (o n : Nat) : Nat := leAt x.cap o n

/-- The opcode of the captured command. -/
def Mbx.opcode (x : Mbx) : Nat := x.at 0 2

/-- R475: the domain a mailbox speaks for: none for the PF, the bound domain of a VF, the domain of an internal mailbox. -/
def State.callerDom (s : State) (m : Nat) : DomNo :=
  if m = 0 then 0 else if m < 64 then (s.func m).dom else (s.mbx m).dom

/-- R496: a mailbox as an event's source. -/
def srcMbx (m : Nat) : Src := ⟨4, 9, m⟩

/-- R474: the STATUS codes. -/
inductive Sts where
  | ok | badop | badparam | noauth | nores | state | refused | aborted | incomplete
  deriving DecidableEq, Repr

/-- R474: the code of a status. -/
def Sts.code : Sts → Nat
  | .ok => 0
  | .badop => 1
  | .badparam => 2
  | .noauth => 3
  | .nores => 4
  | .state => 5
  | .refused => 6
  | .aborted => 7
  | .incomplete => 8

/-- A result field: offset and bytes. -/
abbrev ResField := Nat × List Byte

/-- A result field of `n` little-endian bytes. -/
def rf (o n v : Nat) : ResField := (o, leBytes n v)

/-- R474: the 64 response bytes: opcode and tag echoed, status, detail, results, zero elsewhere. -/
def rspBytes (x : Mbx) (st : Sts) (detail : Nat) (res : List ResField) : List Byte :=
  let fs : List ResField := [(0, bytesAt x.cap 0 4), rf 4 1 st.code, rf 6 2 detail] ++ res
  (List.range 64).map fun o =>
    match fs.find? fun f => decide (f.1 ≤ o) && decide (o < f.1 + f.2.length) with
    | some f => (f.2.drop (o - f.1)).headD 0
    | none => 0

/-- R473: the notification of a completed command. -/
def State.mbxNotify (s : State) (m : Nat) : State :=
  let x := s.mbx m
  if m < 64 then (if bit x.cfg 0 then s.msix m 0 else s)
  else
    let core := fld x.cfg 8 1
    let s := if bit x.cfg 0 && decide (x.dom ≠ 0) && decide ((s.core core).domain = x.dom) then s.pendVec core 42 else s
    let obj := fld x.cfg 25 10
    if bit x.cfg 9 && s.objExists x.dom obj then s.objSignal x.dom obj (.inc 1) 0 else s

/-- R473, R474: mailbox `m` completes: the response is written, BUSY cleared, DONE set, COUNT incremented, 0x180 recorded for any
status but OK, then the caller notified. A discarded response (R482) only clears BUSY. -/
def State.respond (s : State) (m : Nat) (st : Sts) (detail : Nat) (res : List ResField) : State :=
  let x := s.mbx m
  if x.drop then s.setMbx m { x with busy := false, drop := false, stage := 0, arg := [] }
  else
    let y := { x with rsp := rspBytes x st detail res, busy := false, done := true, count := x.count + 1, stage := 0, arg := [] }
    let s := s.setMbx m y
    let s := if st = .ok then s
      else s.raise 0x180 (srcMbx m) st.code (s.callerDom m) (x.opcode + m * 2 ^ 16)
    (s.countDie 4 0x40 0 1).mbxNotify m

/-- A command answered OK without results. -/
def State.respondOk (s : State) (m : Nat) : State := s.respond m .ok 0 []

/-- R475: who may issue a command. The offset is that of its DOM parameter. -/
inductive Auth where
  | any
  | pf
  | pfDom (o : Nat)
  | dom (o : Nat)
  | domHost (o : Nat)
  deriving DecidableEq, Repr

/-- R475: the domain a command acts for, or the failure: status and detail. -/
def State.authorise (s : State) (m : Nat) (a : Auth) : (Sts × Nat) ⊕ DomNo :=
  let x := s.mbx m
  let named (o : Nat) : (Sts × Nat) ⊕ DomNo :=
    let d := x.at o 2
    if d = 0 || d > 4095 then .inl (.badparam, o)
    else if !s.live d then .inl (.state, o)
    else .inr d
  let own (o : Nat) : (Sts × Nat) ⊕ DomNo :=
    let c := s.callerDom m
    let d := x.at o 2
    if c = 0 || (decide (d ≠ 0) && decide (d ≠ c)) then .inl (.noauth, 0)
    else if !s.live c then .inl (.state, o)
    else .inr c
  match a with
  | .any => .inr (s.callerDom m)
  | .pf => if m = 0 then .inr 0 else .inl (.noauth, 0)
  | .pfDom o => if m = 0 then named o else .inl (.noauth, 0)
  | .dom o => if m = 0 then named o else own o
  | .domHost o => if m = 0 then named o else if m < 64 then own o else .inl (.noauth, 0)

/-- R474: the first reserved byte that is not zero; `used` are the parameter ranges [a, b). -/
def Mbx.reservedFail (x : Mbx) (used : List (Nat × Nat)) : Option Nat :=
  (List.range 64).find? fun o =>
    decide (4 ≤ o) && decide (x.at o 1 ≠ 0) && !used.any fun r => decide (r.1 ≤ o) && decide (o < r.2)

/-- R556: the commands that succeed in DECOMMISSIONED. -/
def decomOps : List Nat := [0x0001, 0x0003, 0x0700, 0x0600]

/-- R474: mailbox `m` has been answered BADPARAM for a byte before `o`. -/
def State.refusedBefore (s : State) (m o : Nat) : Bool :=
  !(s.mbx m).busy && decide (leAt (s.mbx m).rsp 4 1 = 2) && decide (leAt (s.mbx m).rsp 6 2 < o)

/-- R473: no doorbell that waits comes before mailbox `m`'s, in ascending index after the last one served. -/
def State.turn (s : State) (m : Nat) : Bool :=
  let place (i : Nat) : Nat := (i + 319 - s.mgmt.served) % 320
  s.mgmt.mbx.all fun e => decide (e.1 = m) || !e.2.busy || decide (e.2.stage ≠ 0) || decide (place m ≤ place e.1)

/-- R474-R477: Luami begins the command that mailbox `m` holds, if it is `op`: the checks every command shares, then `body` with the
domain the command acts for. BADPARAM names the first failing byte, a parameter's or a reserved one. A command that is not waiting, or before the end of boot (R545), is no command; once a module reset is due
it is cut short (R544). Doorbells are served in turn (R473). Luami's own accesses to memory find no error (log entry 102). -/
def State.serve (s : State) (m op : Nat) (used : List (Nat × Nat)) (a : Auth) (body : State → DomNo → State) : State :=
  let x := s.mbx m
  if !x.busy || x.stage ≠ 0 || x.opcode ≠ op || !s.booted then s
  else if s.mgmt.boot.due.isSome then s.respond m .aborted 0 []
  else if !s.turn m then s
  else
    let s := s.modMgmt fun g => { g with served := m }
    let run := s.finding [] fun s =>
      if s.mgmt.lc.state = 4 && !decomOps.contains op then s.respond m .state 0 []
      else
        match s.authorise m a with
        | .inl e => s.respond m e.1 e.2 []
        | .inr d => body s d
    match x.reservedFail used with
    | none => run
    | some o => if !x.drop && run.refusedBefore m o then run else s.respond m .badparam o []

/-- A command that has begun waits to respond (R476, R477), remembering `arg`. -/
def State.holdCmd (s : State) (m : Nat) (arg : List Nat) : State := s.setMbx m { s.mbx m with stage := 1, arg := arg }

/-- R476: a tick-bound command has been accepted; it is applied at the next tick boundary. -/
def State.acceptTick (s : State) (m : Nat) : State :=
  (s.holdCmd m []).modPwr fun w => { w with tcmds := w.tcmds ++ [m] }

/-- R476: a staged command has been accepted. -/
def State.acceptStaged (s : State) (m : Nat) (x : Staged) : State :=
  (s.holdCmd m []).modMgmt fun g => { g with epoch := { g.epoch with waiting := g.epoch.waiting ++ [(some m, x)] } }

/-- Respond to every mailbox that waits with opcode `op`. -/
def State.respondWaiting (s : State) (op : Nat) (st : Sts) (res : List ResField) : State :=
  (List.range 320).foldl (fun s m =>
    let x := s.mbx m
    if x.busy && decide (x.stage = 1) && decide (x.opcode = op) then s.respond m st 0 res else s) s

/-- R477: the opcodes that are listed. -/
def opcodeListed (op : Nat) : Bool :=
  (decide (0x0001 ≤ op) && decide (op ≤ 0x0008)) || (decide (0x0100 ≤ op) && decide (op ≤ 0x010B)) ||
  (decide (0x0200 ≤ op) && decide (op ≤ 0x020A) && decide (op ≠ 0x0202)) || (decide (0x0300 ≤ op) && decide (op ≤ 0x0302)) ||
  (decide (0x0400 ≤ op) && decide (op ≤ 0x0403)) || (decide (0x0500 ≤ op) && decide (op ≤ 0x0507)) ||
  (decide (0x0600 ≤ op) && decide (op ≤ 0x060C)) || (decide (0x0700 ≤ op) && decide (op ≤ 0x0709))

/-- R473: a doorbell: BUSY mailboxes count an overrun; an opcode that is not listed is answered at once with BADOP (R8, R477). -/
def State.doorbell (s : State) (m : Nat) : State :=
  let x := s.mbx m
  if !s.booted then s
  else if x.busy then (s.setMbx m { x with ovr := true }).raise 0x181 (srcMbx m) m (s.callerDom m) 0
  else
    let cap := (List.range 64).map (tget 0 x.cmd)
    let s := s.setMbx m { x with cap := cap, busy := true, since := s.timeOf 4, stage := 0, arg := [], drop := false }
    if opcodeListed (leAt cap 0 2) then s else s.respond m .badop 0 []

/-- MBX_DOORBELL (R473). -/
def execMbxDoorbell (m : Fin 320) (s : State) : Out := .next (s.doorbell m.val)

/-- R474: a mailbox's command is cut short with ABORTED. -/
def State.abortMbx (s : State) (m : Nat) : State := if (s.mbx m).busy then s.respond m .aborted 0 [] else s

end Sys2Proof.Machine
end

