-- ==== Sys2Proof/Machine/GrnOps.lean ====
section
/-! DEFINITION. The granary's operations: capacity, wear, device right checks, transfers, commits (chapter 18), and the placement of
a hull in a hull page. -/

namespace Sys2Proof.Machine

/-! ### Hull-page words -/

/-- R118, R474: the physical address of the hull-page word at `va` of domain `d`, or the failure of the command whose parameter at
offset `o` names it. -/
def State.hullSpot (s : State) (d : DomNo) (va o : Nat) : (Sts × Nat) ⊕ Nat :=
  if va % 16 ≠ 0 || va ≥ 2 ^ 57 then .inl (.badparam, o)
  else
    match s.translate d va .hullRead with
    | .ok pa _ => .inr pa
    | _ => .inl (.refused, 118)

/-- Luami writes a hull into a hull page. -/
def State.putHull (s : State) (pa : Nat) (h : W128) : State := s.writeMem pa (leBytes 16 h.toNat)

/-- The hull in the hull-page word at a physical address. -/
def State.hullAt (s : State) (pa : Nat) : W128 := BitVec.ofNat 128 (s.memNat pa 16)

/-- Domain `d` now holds a right that Luami granted. -/
def State.addRight (s : State) (d : DomNo) (h : W128) : State := s.modDom d fun x => { x with rights := x.rights ++ [h] }

/-! ### Capacity, wear (R519, R520, R535) -/

/-- R520: the user capacity in bytes. -/
def userCapacity : Nat := 12800000000000

/-- R535: the endurance budget in bytes. -/
def wearBudget : Nat := 24000000000000000

/-- Object `o`. -/
def State.obj (s : State) (o : Nat) : GrnObj := tget GrnObj.none s.mgmt.grn.objs o

/-- Replace object `o`. -/
def State.setGrnObj (s : State) (o : Nat) (x : GrnObj) : State :=
  s.modGrn fun g => { g with objs := tset GrnObj.none g.objs o x }

/-- Object `o` exists: every object has a kind. -/
def State.objThere (s : State) (o : Nat) : Bool := (s.obj o).kind != 0

/-- R519: bytes reserved by objects, and by deleted ones whose reads have not ended. -/
def Granary.reserved (g : Granary) : Nat :=
  g.objs.foldl (fun n e => n + e.2.cap) (g.dying.foldl (fun n e => n + e.2.1) 0)

/-- R520: free bytes. -/
def Granary.free (g : Granary) : Nat := userCapacity - g.reserved

/-- R535: READONLY. -/
def Granary.readonly (g : Granary) : Bool := decide (3300 ≤ g.avgpe.toNat) || decide (g.spare.toNat < 5)

/-- R535: percent of the endurance budget used. -/
def Granary.pct (g : Granary) : Nat := g.written * 100 / wearBudget

/-- R535: bytes written; 0x405 at each further 10 percent. -/
def State.wear (s : State) (n : Nat) : State :=
  let p := s.mgmt.grn.pct
  let s := s.modGrn fun g => { g with written := g.written + n }
  let q := s.mgmt.grn.pct
  if p / 10 < q / 10 then s.raise 0x405 srcDieM q 0 0 else s

/-- R539: GRN_STAT. Until the granary accepts commands READONLY and FREEPCT read their reset value, 0 (log entry 132). -/
def State.grnStat (s : State) : Nat :=
  let g := s.mgmt.grn
  b2n g.ready + b2n (g.ready && g.readonly) * 2 + b2n g.holdup * 4 + b2n g.holding * 8 +
    (if g.ready then g.free * 100 / userCapacity else 0) * 16 + min g.xfers.length 64 * 2048

/-- R539: GRN_WEAR. -/
def State.grnWear (s : State) : Nat :=
  let g := s.mgmt.grn
  (g.written / 1000000000) % 2 ^ 32 + min g.pct 1023 * 2 ^ 32 + g.avgpe.toNat * 2 ^ 42

/-- R539: GRN_BLK. -/
def State.grnBlk (s : State) : Nat :=
  let g := s.mgmt.grn
  g.factbad.toNat + g.grownbad.toNat * 2 ^ 16 + g.spare.toNat * 2 ^ 32

/-- R539: GRN_ERR. -/
def State.grnErr (s : State) : Nat :=
  let g := s.mgmt.grn
  g.corrhi.toNat + g.uncorr.toNat * 2 ^ 16 + g.refresh.toNat * 2 ^ 32

/-- A free 32-bit event value where a count does not fit (an event's VALUE is 32 bits, R496). -/
def eventValue (s : State) (n : Nat) : Nat := if n < 2 ^ 32 then n else (Config.free64 s.freeCtr).toNat % 2 ^ 32

/-! ### Authority over an object (R521) -/

/-- R521, R120: the device right hull at `va` of domain `d` covers object `o` with `mask`. The PF needs none. -/
def State.grnAuth (s : State) (m : Nat) (d : DomNo) (va o mask : Nat) : Option (Sts × Nat) :=
  if m = 0 then none
  else
    match s.hullSpot d va 40 with
    | .inl e => some e
    | .inr pa =>
      match hullCheck s (s.hullAt pa) 5 mask (9 * 2 ^ 48 + o) 1 with
      | none => none
      | some _ => some (.noauth, 0)

/-- R521: the device right hull over one object with `rights`. -/
def grnHull (d : DomNo) (o rights : Nat) : W128 := mkHull 5 rights d 0 1 (9 * 2 ^ 48 + o)

/-! ### Transfers (R526-R530) -/

/-- The transfer with a number. -/
def State.xfer (s : State) (n : W32) : Option GrnXfer := s.mgmt.grn.xfers.find? fun x => x.num == n

/-- Replace a transfer. -/
def State.setXfer (s : State) (x : GrnXfer) : State :=
  s.modGrn fun g => { g with xfers := g.xfers.map fun y => if y.num = x.num then x else y }

/-- R529, R531: a write waits for earlier writes of its object, and for a commit that was accepted before it. -/
def State.writeBlocked (s : State) (x : GrnXfer) : Bool :=
  ((s.mgmt.grn.xfers.takeWhile fun y => decide (y.num ≠ x.num)).any fun y => y.write && decide (y.obj = x.obj)) ||
  s.mgmt.mbx.any fun e =>
    e.2.busy && decide (e.2.stage = 1) && decide (e.2.opcode = 0x0608) && decide (e.2.at 12 4 = x.obj) && !e.2.arg.contains x.num.toNat

/-- R527: the bytes of the page that a transfer moves next. -/
def GrnXfer.step (x : GrnXfer) : Nat :=
  min (x.len - x.moved) (match x.win with | some _ => 65536 | none => 65536 - (x.addr + x.moved) % 65536)

/-- R527: the memory side of a transfer's next page: the physical address (none for the host), or the code that stops it. -/
def State.xferSide (s : State) (x : GrnXfer) (n : Nat) : Nat ⊕ Option Nat :=
  match x.win with
  | some w =>
    let y := tget HostWin.none (s.dom x.dom).wins w
    if decide (x.addr + x.moved + n ≤ y.len) && (if x.write then y.rd else y.wr) then .inr none else .inl 0x40
  | none =>
    match s.translate x.dom (x.addr + x.moved) (if x.write then .read else .write) with
    | .ok pa leaf => if bit leaf 5 then .inl 0x11 else .inr (some pa)
    | .pageIn => .inl 0x11
    | .fault c _ => .inl (if c = 0x14 then 0x11 else c)

/-- R526, R529: byte `i` of the image a read works on; beyond CLEN it is zero; a backing object that holds pages reads free. -/
def State.imageByte (s : State) (x : GrnXfer) (i : Nat) : Byte :=
  if x.clen ≤ i then 0 else if (s.obj x.obj).paged ≠ [] then Config.freeByte x.num.toNat i else tget 0 x.src i

/-- The data units of a transfer's range. -/
def unitsOf (off n : Nat) : List Nat := (List.range ((n + 4095) / 4096)).map (off / 4096 + ·)

/-- R527: the flash unit of the next page that cannot be read, with its channel. -/
def xferBad (x : GrnXfer) (n : Nat) (env : GrnEnv) : Option (Nat × Nat) :=
  let us := unitsOf (x.off + x.moved) n
  if x.write then none
  else
    match env with
    | .flash ch u =>
      if us.contains u then some (ch.val, u)
      else (us.find? x.bad.contains).map fun u => ((Config.freeByte x.obj u).toNat % 32, u)
    | _ => (us.find? x.bad.contains).map fun u => ((Config.freeByte x.obj u).toNat % 32, u)

/-- R527, R537: an uncorrectable flash read of object `o`: counted, recorded, and the unit stays uncorrectable. -/
def State.flashLost (s : State) (o ch u : Nat) : State :=
  let s := s.modGrn fun g => { g with uncorr := satInc g.uncorr 1 }
  let s := s.raise 0x404 srcDieM ch 0 o
  let y := s.obj o
  if s.objThere o && !y.bad.contains u then s.setGrnObj o { y with bad := y.bad ++ [u] } else s

/-- R526: bytes enter an object's open image. -/
def State.openWrite (s : State) (o off : Nat) (b : List Byte) : State :=
  let y := s.obj o
  (s.setGrnObj o { y with
    opened := memPut y.opened off b, written := y.written + b.length,
    fresh := y.fresh ++ (unitsOf off b.length).filter fun u => !y.fresh.contains u }).wear b.length

/-- R524: the tweak of data unit `u` of object `o`. -/
def tweakOf (o u : Nat) : BitVec 128 := BitVec.ofNat 128 (o * 2 ^ 32 + u)

/-- The key pair of a key id, while the key store holds it. -/
def Granary.keyPair (g : Granary) (k : Nat) : Option (BitVec 512) := if k = 0 then some Config.luamiKey else tget none g.material k

/-- R524, R525: what the flash stores for data unit `u` of the committed image of object `o`: the bytes under the object's key; none
once the key's material is gone. -/
def State.flashUnit (s : State) (o u : Nat) : Option (List Byte) :=
  (s.mgmt.grn.keyPair (s.obj o).key).map fun k =>
    Config.xtsAes256 k (tweakOf o u) ((List.range 4096).map fun i => tget 0 (s.obj o).data (u * 4096 + i))

/-- R527: one page of a transfer moves. -/
def State.xferPage (s : State) (x : GrnXfer) (env : GrnEnv) : State :=
  let n := x.step
  match s.xferSide x n with
  | .inl c => s.setXfer { x with status := some c }
  | .inr side =>
    match xferBad x n env with
    | some (ch, u) => (s.setXfer { x with status := some 0x14 }).flashLost x.obj ch u
    | none =>
      if side = none && (decide (env = .pcieError) || s.pcieStands) then s.setXfer { x with status := some 0x52 }
      else
        let s := s.setXfer { x with moved := x.moved + n }
        if x.write then
          let r := match side with
            | some pa => s.readMem pa n
            | none => (s.bwAdd 4 0 1 n, bytesAt (match env with | .hostData b => b | _ => []) 0 n)
          (r.1.openWrite x.obj (x.off + x.moved) r.2).countDie 4 0x45 0 n
        else
          let b := (List.range n).map fun i => s.imageByte x (x.off + x.moved + i)
          let s := match side with | some pa => s.writeMem pa b | none => s.bwAdd 4 0 0 n
          s.countDie 4 0x44 0 n

/-- R486: the memory side of a transfer's next page lies in a parked pod. -/
def State.xferParked (s : State) (x : GrnXfer) : Bool :=
  match s.xferSide x x.step with
  | .inr (some pa) => s.padWaits pa
  | _ => false

/-- GRN_TRANSFER (R527): the movers move one page of an outstanding transfer. -/
def execGrnTransfer (num : BitVec 32) (env : GrnEnv) (e : ErrMap) (s : State) : Out :=
  .next (s.finding e fun s =>
    match s.xfer num with
    | some x => if x.status.isSome || decide (x.len ≤ x.moved) || (x.write && s.writeBlocked x) || s.xferParked x then s
      else s.xferPage x env
    | none => s)

/-- R528: a transfer completes: it leaves the list, capacity that waited for it is freed, its SIGNAL is performed. -/
def State.xferEnd (s : State) (x : GrnXfer) (status : Nat) : State :=
  let s := s.modGrn fun g =>
    let xs := g.xfers.filter fun y => decide (y.num ≠ x.num)
    { g with xfers := xs, dying := g.dying.filter fun d => xs.any fun y => decide (y.obj = d.1) && !y.write }
  match x.sig with
  | none => s
  | some w =>
    match fld w 1 0 with
    | 1 => s.objSignal x.dom (fld w 23 8) (.inc (fld w 47 32)) status
    | 2 => s.objSignal x.dom (fld w 23 8) .arrive status
    | _ => s

/-- GRN_TRANSFER_DONE (R528). -/
def execGrnTransferDone (num : BitVec 32) (s : State) : Out :=
  .next (
    match s.xfer num with
    | some x =>
      match x.status with
      | some c => s.xferEnd x c
      | none => if x.len ≤ x.moved then s.xferEnd x 0 else s
    | none => s)

/-- The transfers that `p` picks complete with FLT_CANCELLED. -/
def State.cancelXfers (s : State) (p : GrnXfer → Bool) : State :=
  (s.mgmt.grn.xfers.filter p).foldl (fun s x => s.xferEnd x 0x50) s

/-! ### Commits, deletion, crypto-erase (R525, R531, R538) -/

/-- R532, R538: an object's open image returns to its committed image. -/
def State.dropOpen (s : State) (o : Nat) : State :=
  let y := s.obj o
  if s.objThere o then s.setGrnObj o { y with opened := y.data, written := 0, fresh := [] } else s

/-- R531 step 3: the open image becomes the committed image. -/
def State.grnCommit (s : State) (o clen : Nat) : State :=
  let y := s.obj o
  let d := tkeep (fun k => decide (k < clen)) y.opened
  (s.setGrnObj o { y with
    gen := y.gen + 1, clen := clen, ctime := s.timeOf 4, data := d, opened := d, written := 0, fresh := [],
    bad := y.bad.filter fun u => !y.fresh.contains u && decide (u * 4096 < clen) }).raise 0x400 srcDieM (eventValue s clen) 0 o

/-- R525: the objects under the keys that `p` picks go; transfers on them complete with FLT_CANCELLED, reads of an object deleted before
among them: no key is left to read it. -/
def State.eraseObjects (s : State) (p : Nat → Bool) : State :=
  let g := s.mgmt.grn
  let gone := (g.objs.filter fun e => p e.2.key).map Prod.fst
  let dead := (g.dying.filter fun d => p d.2.2).map Prod.fst
  let s := s.cancelXfers fun x => gone.contains x.obj || dead.contains x.obj
  s.modGrn fun g => { g with
    objs := tkeep (fun k => !gone.contains k) g.objs, dying := g.dying.filter fun d => !gone.contains d.1 && !p d.2.2 }

/-- R538: an object is deleted: writes on it are cancelled (R526), reads go on and hold its capacity. -/
def State.grnDelete (s : State) (o : Nat) : State :=
  let y := s.obj o
  let s := s.cancelXfers fun x => x.write && decide (x.obj = o)
  s.modGrn fun g => { g with
    objs := tdel o g.objs,
    dying := if g.xfers.any fun x => decide (x.obj = o) then g.dying ++ [(o, y.cap, y.key)] else g.dying }

/-- GRN_BLOCK_REFRESH (R536, R537): a block is rewritten in the background; no object changes. -/
def execGrnBlockRefresh (chan : Fin 32) (env : RefreshEnv) (s : State) : Out :=
  .next (
    let s := s.modGrn fun g => { g with
      refresh := satInc g.refresh 1, corrhi := (if env.corrected then satInc g.corrhi 1 else g.corrhi),
      grownbad := (if env.retired then satInc g.grownbad 1 else g.grownbad),
      avgpe := (if g.avgpe.toNat < env.avgpe.toNat then env.avgpe else g.avgpe),
      spare := (if env.spare.toNat < g.spare.toNat then env.spare else g.spare) }
    let s := s.raise 0x403 srcDieM chan.val 0 0
    if env.retired then s.raise 0x402 srcDieM chan.val 0 0 else s)

/-- GRN_ERR_CLR (R539). -/
def execGrnErrClr (s : State) : Out := .next (s.modGrn fun g => { g with corrhi := 0, uncorr := 0, refresh := 0 })

end Sys2Proof.Machine
end

