-- ==== Sys2Proof/Machine/Granary.lean ====
section
/-! DEFINITION. The granary's mailbox commands (R523-R538). -/

namespace Sys2Proof.Machine

/-- R538: before READY every granary command completes with STATE. -/
def State.grnServe (s : State) (m op : Nat) (used : List (Nat × Nat)) (a : Auth) (body : State → DomNo → State) : State :=
  s.serve m op used a fun s d => if s.mgmt.grn.ready then body s d else s.respond m .state 0 []

/-- GRN_INFO. -/
def execGrnInfo (m : Fin 320) (s : State) : Out :=
  .next (s.grnServe m.val 0x0600 [] .any fun s _ =>
    let g := s.mgmt.grn
    s.respond m.val .ok 0 [rf 8 8 userCapacity, rf 16 8 g.free, rf 24 1 (b2n g.ready + b2n g.readonly * 2 + b2n g.holdup * 4),
      rf 25 1 (min g.pct 255), rf 26 2 g.spare.toNat, rf 28 4 g.objs.length])

/-- GRN_HEALTH. -/
def execGrnHealth (m : Fin 320) (s : State) : Out :=
  .next (s.grnServe m.val 0x060B [] .any fun s _ =>
    s.respond m.val .ok 0 [rf 8 8 s.grnWear, rf 16 8 s.grnBlk, rf 24 8 s.grnErr])

/-- GRN_LIST: the ids at or above the first, ascending; at most 12. -/
def execGrnList (m : Fin 320) (s : State) : Out :=
  .next (s.grnServe m.val 0x060C [(8, 12)] .pf fun s _ =>
    let first := (s.mbx m.val).at 8 4
    let ids := ((s.mgmt.grn.objs.map Prod.fst).filter fun o => decide (first ≤ o)).take 12
    s.respond m.val .ok 0 [rf 8 2 ids.length, (16, ids.flatMap fun o => leBytes 4 o)])

/-- GRN_KEY_CREATE (R523): a key id not in use. -/
def execGrnKeyCreate (m : Fin 320) (s : State) : Out :=
  .next (s.grnServe m.val 0x0601 [(16, 24)] .pf fun s _ =>
    let g := s.mgmt.grn
    let r := s.fresh
    match findFrom 65535 (fun k => (tget none g.keys (k + 1)).isNone) (g.keys.length + 1) r.2.toNat with
    | none => s.respond m.val .nores 0 []
    | some k =>
      if 65535 ≤ g.keys.length then s.respond m.val .nores 0 []
      else
        (r.1.modGrn fun g => { g with
          keys := tput (k + 1) (some ((s.mbx m.val).at 16 8)) g.keys,
          material := tput (k + 1) (some (Config.keyPair r.1.freeCtr)) g.material }).respond m.val .ok 0 [rf 8 2 (k + 1)])

/-- GRN_KEY_BIND (R523). -/
def execGrnKeyBind (m : Fin 320) (s : State) : Out :=
  .next (s.grnServe m.val 0x0602 [(8, 12)] (.pfDom 8) fun s d =>
    let k := (s.mbx m.val).at 10 2
    let g := s.mgmt.grn
    if k ≠ 0 && (tget none g.keys k).isNone then s.respond m.val .state 10 []
    else if g.xfers.any fun x => decide (x.dom = d) then s.respond m.val .state 0 []
    else (s.modGrn fun g => { g with binds := tset 0 g.binds d k }).respondOk m.val)

/-- R525: a key's material and the objects under it are destroyed; bindings to it go; `who` asked. -/
def State.keyErase (s : State) (k who : Nat) : State :=
  let s := s.eraseObjects fun x => decide (x = k)
  (s.modGrn fun g => { g with keys := tdel k g.keys, material := tdel k g.material, binds := tfilter (fun _ b => decide (b ≠ k)) g.binds }).raise 0x407 srcDieM who 0 0

/-- GRN_KEY_ERASE: only the PF issues it, so the requesting domain is 0, the host. -/
def execGrnKeyErase (m : Fin 320) (s : State) : Out :=
  .next (s.grnServe m.val 0x0603 [(8, 10)] .pf fun s _ =>
    let k := (s.mbx m.val).at 8 2
    if k = 0 then s.respond m.val .badparam 8 []
    else if (tget none s.mgmt.grn.keys k).isNone then s.respond m.val .state 8 []
    else
      let n := (s.mgmt.grn.objs.filter fun e => decide (e.2.key = k)).length
      (s.keyErase k 0).respond m.val .ok 0 [rf 8 4 n])

/-- R519, R520, R538: the failure of a creation of `cap` bytes under key `k`, if any. -/
def Granary.createFail (g : Granary) (k cap : Nat) : Bool :=
  let quota := (tget none g.keys k).getD 0
  let used := g.objs.foldl (fun n e => if e.2.key = k then n + e.2.cap else n) 0
  g.readonly || (decide (quota ≠ 0) && decide (quota < used + cap)) || decide (g.free < cap)

/-- GRN_CREATE. -/
def execGrnCreate (m : Fin 320) (s : State) : Out :=
  .next (s.grnServe m.val 0x0604 [(8, 11), (16, 32)] (.dom 8) fun s d =>
    let x := s.mbx m.val
    let kind := x.at 10 1
    let cap := x.at 16 8
    let g := s.mgmt.grn
    let k := tget 0 g.binds d
    if kind < 1 || kind > 4 then s.respond m.val .badparam 10 []
    else if m.val ≠ 0 && decide (2 < kind) then s.respond m.val .noauth 0 []
    else if cap % 4096 ≠ 0 || cap < 4096 || 2 ^ 42 < cap then s.respond m.val .badparam 16 []
    else if k = 0 then s.respond m.val .state 0 []
    else if g.createFail k cap then s.respond m.val .nores 0 []
    else
      let r := s.fresh
      match findFrom 0xFFFFFFFE (fun i => !g.usedIds.contains (i + 1)) (g.usedIds.length + 1) r.2.toNat with
      | none => s.respond m.val .nores 0 []
      | some i =>
        let o := i + 1
        let make (s : State) : State := s.modGrn fun g => { g with
          objs := tset GrnObj.none g.objs o ({ GrnObj.none with kind := kind, key := k, cap := cap }), usedIds := g.usedIds ++ [o] }
        if kind = 4 then (make r.1).respond m.val .ok 0 [rf 8 4 o]
        else
          match s.hullSpot d (x.at 24 8) 24 with
          | .inl e => s.respond m.val e.1 e.2 []
          | .inr pa =>
            let h := grnHull d o 7
            (((make r.1).putHull pa h).addRight d h).respond m.val .ok 0 [rf 8 4 o])

/-- GRN_GRANT (R522): no domain receives a right over kinds 4-6 (R519). -/
def execGrnGrant (m : Fin 320) (s : State) : Out :=
  .next (s.grnServe m.val 0x0605 [(8, 11), (12, 16), (24, 32)] (.pfDom 8) fun s d =>
    let x := s.mbx m.val
    let o := x.at 12 4
    if x.at 10 1 > 7 then s.respond m.val .badparam 10 []
    else if !s.objThere o then s.respond m.val .state 12 []
    else if 4 ≤ (s.obj o).kind then s.respond m.val .refused 519 []
    else if tget 0 s.mgmt.grn.binds d = 0 || tget 0 s.mgmt.grn.binds d ≠ (s.obj o).key then s.respond m.val .refused 522 []
    else
      match s.hullSpot d (x.at 24 8) 24 with
      | .inl e => s.respond m.val e.1 e.2 []
      | .inr pa =>
        let h := grnHull d o (x.at 10 1)
        ((s.putHull pa h).addRight d h).respondOk m.val)

/-- R268: a SIGNAL word that breaks its layout. -/
def badSignal (w : W64) : Bool :=
  decide (fld w 1 0 = 3) || decide (fld w 7 2 ≠ 0) || decide (fld w 31 24 ≠ 0) || decide (fld w 63 48 ≠ 0) ||
  (if fld w 1 0 = 1 then decide (fld w 47 32 = 0) else decide (fld w 47 32 ≠ 0))

/-- R526, R527, R538: GRN_READ (`write` false) or GRN_WRITE is accepted. -/
def State.grnAccept (s : State) (m : Nat) (write : Bool) (d : DomNo) : State :=
  let x := s.mbx m
  let fl := x.at 10 1
  let host := fl.testBit 1
  let o := x.at 12 4
  let off := x.at 16 8
  let len := x.at 24 8
  let addr := x.at 32 8
  let sig : W64 := BitVec.ofNat 64 (x.at 48 8)
  let y := s.obj o
  let g := s.mgmt.grn
  if fl > 3 then s.respond m .badparam 10 []
  else if host && decide (m ≠ 0) then s.respond m .noauth 0 []
  else if (if host then decide (15 < x.at 11 1) else decide (x.at 11 1 ≠ 0)) then s.respond m .badparam 11 []
  else if off % 4096 ≠ 0 then s.respond m .badparam 16 []
  else if len % 4096 ≠ 0 || len < 4096 || 2 ^ 42 < len then s.respond m .badparam 24 []
  else if !host && (decide (addr % 4096 ≠ 0) || decide (2 ^ 57 < addr + len)) then s.respond m .badparam 32 []
  else if fl.testBit 0 && badSignal sig then s.respond m .badparam 48 []
  else
    match s.grnAuth m d (x.at 40 8) o (if write then 2 else 1) with
    | some e => s.respond m e.1 e.2 []
    | none =>
      if !s.objThere o then s.respond m .state 12 []
      else if y.cap < off + len then s.respond m .badparam (if y.cap ≤ off then 16 else 24) []
      else if write && !g.holdup then s.respond m .state 0 []
      else if write && g.readonly then s.respond m .nores 0 []
      else if (g.xfers.filter fun z => decide (z.dom = d)).length ≥ 8 || g.xfers.length ≥ 64 then s.respond m .nores 0 []
      else
        let n := Config.firstXfer + g.nextXfer
        let t : GrnXfer := ⟨n, d, write, (if host then some (x.at 11 1) else none), o, off, len, addr,
          (if fl.testBit 0 then some sig else none), 0, none, y.clen, (if write then [] else y.data), (if write then [] else y.bad)⟩
        (s.modGrn fun g => { g with xfers := g.xfers ++ [t], nextXfer := g.nextXfer + 1 }).respond m .ok 0 [rf 8 4 n.toNat]

/-- GRN_READ. -/
def execGrnRead (m : Fin 320) (s : State) : Out :=
  .next (s.grnServe m.val 0x0606 [(8, 56)] (.dom 8) fun s d => s.grnAccept m.val false d)

/-- GRN_WRITE. -/
def execGrnWrite (m : Fin 320) (s : State) : Out :=
  .next (s.grnServe m.val 0x0607 [(8, 56)] (.dom 8) fun s d => s.grnAccept m.val true d)

/-- R531 steps 2-4, once no write accepted before the commit is outstanding. A commit whose object has been erased or deleted does
not take effect (R540). -/
def State.grnCommitNow (s : State) (m : Nat) : State :=
  let x := s.mbx m
  let o := x.at 12 4
  if !s.objThere o then s.respond m .state 12 []
  else
    let s := s.grnCommit o (x.at 16 8)
    s.respond m .ok 0 [rf 8 8 (s.obj o).gen.toNat]

/-- GRN_COMMIT (R531): sent again, it goes on once every write that was accepted before it has signalled. -/
def execGrnCommit (m : Fin 320) (s : State) : Out :=
  .next (
    let x := s.mbx m.val
    if x.busy && decide (x.stage = 1) && decide (x.opcode = 0x0608) then
      if s.mgmt.grn.xfers.any fun y => x.arg.contains y.num.toNat then s else s.grnCommitNow m.val
    else s.grnServe m.val 0x0608 [(8, 10), (12, 24), (40, 48)] (.dom 8) fun s d =>
      let o := x.at 12 4
      match s.grnAuth m.val d (x.at 40 8) o 2 with
      | some e => s.respond m.val e.1 e.2 []
      | none =>
        if !s.objThere o then s.respond m.val .state 12 []
        else if (s.obj o).cap < x.at 16 8 then s.respond m.val .badparam 16 []
        else if !s.mgmt.grn.holdup then s.respond m.val .state 0 []
        else if s.mgmt.grn.readonly then s.respond m.val .nores 0 []
        else
          match (s.mgmt.grn.xfers.filter fun y => y.write && decide (y.obj = o)).map fun y => y.num.toNat with
          | [] => s.grnCommitNow m.val
          | ns => s.holdCmd m.val ns)

/-- GRN_DELETE: a backing object goes only after its domain is FREE (R540). -/
def execGrnDelete (m : Fin 320) (s : State) : Out :=
  .next (s.grnServe m.val 0x0609 [(8, 10), (12, 16), (40, 48)] (.dom 8) fun s d =>
    let x := s.mbx m.val
    let o := x.at 12 4
    match s.grnAuth m.val d (x.at 40 8) o 4 with
    | some e => s.respond m.val e.1 e.2 []
    | none =>
      if !s.objThere o then s.respond m.val .state 12 []
      else if s.doms.any fun e => decide (e.2.state ≠ 0) && decide (e.2.backing = o) then s.respond m.val .refused 540 []
      else (s.grnDelete o).respondOk m.val)

/-- GRN_OBJSTAT. -/
def execGrnObjstat (m : Fin 320) (s : State) : Out :=
  .next (s.grnServe m.val 0x060A [(8, 10), (12, 16), (40, 48)] (.dom 8) fun s d =>
    let x := s.mbx m.val
    let o := x.at 12 4
    match s.grnAuth m.val d (x.at 40 8) o 1 with
    | some e => s.respond m.val e.1 e.2 []
    | none =>
      let y := s.obj o
      if !s.objThere o then s.respond m.val .state 12 []
      else s.respond m.val .ok 0 [rf 8 1 y.kind, rf 10 2 y.key, rf 16 8 y.cap, rf 24 8 y.clen, rf 32 8 y.gen.toNat,
        rf 40 8 y.written, rf 48 8 y.ctime.toNat])

end Sys2Proof.Machine
end

