-- ==== Sys2Proof/Machine/Flit.lean ====
section
/-! DEFINITION. The encodings of the links: the packet header (R450), the flit header and CRC (R439, R440), the Reed-Solomon block
code (R438). -/

namespace Sys2Proof.Machine

/-! ### Packets (R450) -/

/-- The 32 header bytes. -/
def pktHeader (p : Packet) : List Byte :=
  leBytes 4 (p.kind + b2n p.epoch * 2 ^ 4 + b2n p.esc * 2 ^ 5 + p.hidx * 2 ^ 6 + p.hops * 2 ^ 8 + p.port0 * 2 ^ 10 +
    p.port1 * 2 ^ 16 + p.port2 * 2 ^ 22) ++
  leBytes 4 (p.dst + p.src * 2 ^ 12 + p.status * 2 ^ 24) ++
  leBytes 4 (p.srcdom + p.tag * 2 ^ 12) ++
  leBytes 4 (p.data.length + p.chan * 2 ^ 12 + p.op * 2 ^ 24) ++
  leBytes 8 p.addr ++
  leBytes 4 (p.rowlen + b2n p.first * 2 ^ 25 + b2n p.last * 2 ^ 26) ++
  leBytes 4 p.cseq

/-- The data, padded with zeros to a multiple of 4 bytes. -/
def pktPad (n : Nat) : Nat := (n + 3) / 4 * 4

/-- A packet as its bytes. -/
def pktBytes (p : Packet) : List Byte :=
  pktHeader p ++ p.data ++ List.replicate (pktPad p.data.length - p.data.length) 0

/-- The length of the packet that begins a byte list, when its header is whole. -/
def pktLen (b : List Byte) : Option Nat :=
  if b.length < 32 then none else some (32 + pktPad (nfld (leAt b 12 4) 8 0))

/-- A packet read from its bytes. A LEN above 256 is out of the field's range and marks the packet bad. -/
def pktOf (b : List Byte) : Packet :=
  let w0 := leAt b 0 4
  let w1 := leAt b 4 4
  let w2 := leAt b 8 4
  let w3 := leAt b 12 4
  let w5 := leAt b 24 4
  let w6 := leAt b 28 4
  { kind := nfld w0 3 0, epoch := w0.testBit 4, esc := w0.testBit 5, hidx := nfld w0 7 6, hops := nfld w0 9 8,
    port0 := nfld w0 15 10, port1 := nfld w0 21 16, port2 := nfld w0 27 22, dst := nfld w1 11 0, src := nfld w1 23 12,
    status := nfld w1 31 24, srcdom := nfld w2 11 0, tag := nfld w2 27 12, chan := nfld w3 23 12, op := nfld w3 31 24,
    addr := leAt b 16 8, rowlen := nfld w5 24 0, first := w5.testBit 25, last := w5.testBit 26, cseq := nfld w6 15 0,
    data := (b.drop 32).take (nfld w3 8 0),
    bad := decide (nfld w0 31 28 ≠ 0) || decide (nfld w2 31 28 ≠ 0) || decide (nfld w3 11 9 ≠ 0) || decide (nfld w5 31 27 ≠ 0) ||
      decide (nfld w6 31 16 ≠ 0) || decide (nfld w3 8 0 > 256) }

/-! ### CRC-32 (R439) -/

/-- One bit of the reflected CRC-32. -/
def crcBit (c : Nat) : Nat := if c % 2 = 1 then (c / 2) ^^^ 0xEDB88320 else c / 2

/-- One byte. -/
def crcByte (c : Nat) (b : Byte) : Nat :=
  crcBit (crcBit (crcBit (crcBit (crcBit (crcBit (crcBit (crcBit (c ^^^ b.toNat))))))))

/-- The CRC-32 of IEEE 802.3 over a byte list. -/
def crc32 (l : List Byte) : Nat := (l.foldl crcByte 0xFFFFFFFF) ^^^ 0xFFFFFFFF

/-! ### Flits (R439, R440) -/

/-- R440: a flit's header fields and payload. -/
structure Flit where
  seq    : Nat
  ackseq : Nat
  nak    : Bool
  ctrl   : Bool
  vc     : Nat
  cls    : Nat
  cr0    : Nat
  cr1    : Nat
  lreq   : Nat
  lreqv  : Bool
  payload : List Byte
  bad    : Bool
  deriving DecidableEq, Repr

/-- The 252 bytes before the CRC. -/
def flitBody (f : Flit) : List Byte :=
  leBytes 4 (f.seq + f.ackseq * 2 ^ 12 + b2n f.nak * 2 ^ 24 + b2n f.ctrl * 2 ^ 25 + f.vc * 2 ^ 26 + f.cls * 2 ^ 29) ++
  leBytes 4 (f.payload.length + f.cr0 * 2 ^ 8 + f.cr1 * 2 ^ 20) ++
  leBytes 8 (f.lreq + b2n f.lreqv * 2 ^ 16) ++ f.payload ++ List.replicate (236 - f.payload.length) 0

/-- The 256 bytes of a flit. -/
def flitBytes (f : Flit) : List Byte := flitBody f ++ leBytes 4 (crc32 (flitBody f))

/-- A flit read from 256 bytes; `bad` when its CRC is wrong, a reserved bit is set or FILL is out of range. -/
def flitOf (b : List Byte) : Flit :=
  let w0 := leAt b 0 4
  let w1 := leAt b 4 4
  let w2 := leAt b 8 8
  let fill := nfld w1 7 0
  { seq := nfld w0 11 0, ackseq := nfld w0 23 12, nak := w0.testBit 24, ctrl := w0.testBit 25, vc := nfld w0 28 26,
    cls := nfld w0 30 29, cr0 := nfld w1 19 8, cr1 := nfld w1 31 20, lreq := nfld w2 15 0, lreqv := w2.testBit 16,
    payload := (b.drop 16).take (min fill 236),
    bad := w0.testBit 31 || decide (nfld w2 63 17 ≠ 0) || decide (fill > 236) || decide (leAt b 252 4 ≠ crc32 (b.take 252)) }

/-! ### The block code (R438) -/

/-- Double in GF(2^8) with the polynomial x^8 + x^4 + x^3 + x^2 + 1. -/
def gfDouble (a : Nat) : Nat := if a < 128 then 2 * a else (2 * a) ^^^ 0x11D

/-- Product in GF(2^8), over the low `n` bits of `b`. -/
def gfMulBits : Nat → Nat → Nat → Nat
  | 0, _, _ => 0
  | n + 1, a, b => (if b % 2 = 1 then a else 0) ^^^ gfMulBits n (gfDouble a) (b / 2)

/-- Product in GF(2^8). -/
def gfMul (a b : Nat) : Nat := gfMulBits 8 a b

/-- Powers of α = 2. -/
def gfPow : Nat → Nat
  | 0 => 1
  | n + 1 => gfDouble (gfPow n)

/-- The inverse: the 254th power. -/
def gfInv (a : Nat) : Nat :=
  let a2 := gfMul a a
  let a4 := gfMul a2 a2
  let a8 := gfMul a4 a4
  let a16 := gfMul a8 a8
  let a32 := gfMul a16 a16
  let a64 := gfMul a32 a32
  let a128 := gfMul a64 a64
  gfMul a2 (gfMul a4 (gfMul a8 (gfMul a16 (gfMul a32 (gfMul a64 a128)))))

/-- Polynomials have their constant term first. Evaluate at `x`. -/
def gfEval (p : List Nat) (x : Nat) : Nat := p.foldr (fun c r => c ^^^ gfMul x r) 0

/-- Multiply two polynomials. -/
def gfPolyMul (p q : List Nat) : List Nat :=
  p.foldr (fun c r =>
    let a := q.map (gfMul c)
    let r := 0 :: r
    (List.range (max a.length r.length)).map fun i => a.getD i 0 ^^^ r.getD i 0) []

/-- R438: the generator: roots α^0 to α^7. -/
def rsGen : List Nat := (List.range 8).foldl (fun g i => gfPolyMul g [gfPow i, 1]) [1]

/-- One step of the division by the generator: the remainder (constant term first) after one more message byte. -/
def rsStep (r : List Nat) (b : Nat) : List Nat :=
  let f := b ^^^ r.getD 7 0
  (List.range 8).map fun i => (if i = 0 then 0 else r.getD (i - 1) 0) ^^^ gfMul f (rsGen.getD i 0)

/-- The 8 parity bytes of 128 message bytes, highest term first (the first byte of a codeword is its highest term: DESIGN CHOICE). -/
def rsParity (m : List Nat) : List Nat := (m.foldl rsStep (List.replicate 8 0)).reverse

/-- The syndromes of a codeword of 136 bytes. -/
def rsSyndromes (c : List Nat) : List Nat := (List.range 8).map fun j => gfEval c.reverse (gfPow j)

/-- Berlekamp-Massey: from the syndromes, the error locator. State: locator, previous locator, length, shift, last discrepancy. -/
def rsLocator (syn : List Nat) : List Nat :=
  let step := fun (st : List Nat × List Nat × Nat × Nat × Nat) (n : Nat) =>
    let (l, b, len, m, bb) := st
    let d := (List.range (len + 1)).foldl (fun d i => d ^^^ gfMul (l.getD i 0) (if i ≤ n then syn.getD (n - i) 0 else 0)) 0
    if d = 0 then (l, b, len, m + 1, bb)
    else
      let k := gfMul d (gfInv bb)
      let sh := List.replicate m 0 ++ b.map (gfMul k)
      let l' := (List.range (max l.length sh.length)).map fun i => l.getD i 0 ^^^ sh.getD i 0
      if 2 * len ≤ n then (l', l, n + 1 - len, 1, d) else (l', b, len, m + 1, bb)
  ((List.range 8).foldl step ([1], [1], 0, 1, 1)).1

/-- R438: decode one codeword of 136 bytes: the corrected bytes and the positions corrected, or none when it has more errors than
can be corrected. -/
def rsDecode (c : List Nat) : Option (List Nat × List Nat) :=
  let syn := rsSyndromes c
  if syn.all (· == 0) then some (c, [])
  else
    let loc := rsLocator syn
    let pos := (List.range 136).filter fun i => gfEval loc (gfInv (gfPow (135 - i))) == 0
    let omega := (gfPolyMul syn loc).take 8
    let dloc := (List.range (loc.length - 1)).map fun i => if i % 2 = 0 then loc.getD (i + 1) 0 else 0
    let fix := pos.foldl (fun c i =>
      let x := gfPow (135 - i)
      let xi := gfInv x
      let e := gfMul x (gfMul (gfEval omega xi) (gfInv (gfEval dloc xi)))
      c.set i (c.getD i 0 ^^^ e)) c
    if pos.length ≤ 4 && (rsSyndromes fix).all (· == 0) then some (fix, pos) else none

/-- Every second byte of a list, from the `o`-th. -/
def evens (l : List Byte) (o : Nat) : List Nat := (List.range (l.length / 2)).map fun i => (l.getD (2 * i + o) 0).toNat

/-- R438: the 272-byte block of a 256-byte flit. -/
def rsBlock (f : List Byte) : List Byte :=
  let p0 := rsParity (evens f 0)
  let p1 := rsParity (evens f 1)
  f ++ (List.range 8).flatMap fun i => [BitVec.ofNat 8 (p0.getD i 0), BitVec.ofNat 8 (p1.getD i 0)]

/-- R438: decode a block: the 256 flit bytes and the block positions corrected. -/
def rsUnblock (b : List Byte) : Option (List Byte × List Nat) :=
  if b.length ≠ 272 then none
  else
    match rsDecode (evens b 0), rsDecode (evens b 1) with
    | some (c0, e0), some (c1, e1) =>
      some ((List.range 256).map fun i => BitVec.ofNat 8 (if i % 2 = 0 then c0.getD (i / 2) 0 else c1.getD (i / 2) 0),
        e0.map (2 * ·) ++ e1.map (2 * · + 1))
    | _, _ => none

end Sys2Proof.Machine
end

