-- ==== Sys2Proof/Machine/LinkOps.lean ====
section
/-! DEFINITION. Routes, injection of packets, trackers, replies, lane masks and port states: what every source of packets and every
port event shares (R436, R444, R445, R447, R452-R458). -/

namespace Sys2Proof.Machine

/-- Port `k`. -/
def State.port (s : State) (k : Nat) : Port := tget Port.reset s.link.ports k

/-- Replace port `k`. -/
def State.setPort (s : State) (k : Nat) (p : Port) : State :=
  { s with link := { s.link with ports := tset Port.reset s.link.ports k p } }

/-- Apply `f` to port `k`. -/
def State.modPort (s : State) (k : Nat) (f : Port → Port) : State := s.setPort k (f (s.port k))

/-- The switch of die `d`. -/
def State.switch (s : State) (d : Nat) : Switch := tget Switch.reset s.link.switches d

/-- Replace the switch of die `d`. -/
def State.setSwitch (s : State) (d : Nat) (x : Switch) : State :=
  { s with link := { s.link with switches := tset Switch.reset s.link.switches d x } }

/-- Laser group `g`. -/
def State.lasers (s : State) (g : Nat) : Lasers := tget Lasers.reset s.link.lasers g

/-- Replace laser group `g`. -/
def State.setLasers (s : State) (g : Nat) (x : Lasers) : State :=
  { s with link := { s.link with lasers := tset Lasers.reset s.link.lasers g x } }

/-- A port is UP or DEGRADED. -/
def State.portUsable (s : State) (k : Nat) : Bool := decide ((s.port k).state = 2) || decide ((s.port k).state = 3)

/-! ### Routes (R452-R455) -/

/-- R454: the table that new packets of a die use: the shadow from COMMIT on. -/
def Switch.newTable (x : Switch) : Bool := if x.busy then !x.active else x.active

/-- R454: some die retired its last epoch less than 20 ms ago: Luami does not commit again yet. -/
def State.epochRests (s : State) : Bool :=
  (List.range 4).any fun d =>
    let r := (s.switch d).retired
    r ≠ 0 && decide (s.time.toNat < r.toNat - 1 + 20000000)

/-- A route entry. -/
def Switch.entry (x : Switch) (tbl : Bool) (m : Nat) : W64 := tget 0 (if tbl then x.rt1 else x.rt0) m

/-- The ports of route A or B of an entry, with its hop count. -/
def routePorts (e : W64) (b : Bool) : List Nat :=
  let o := if b then 20 else 0
  let hops := fld e (o + 19) (o + 18)
  ((List.range 3).map fun i => fld e (o + 6 * i + 5) (o + 6 * i)).take hops

/-- R453: route A, then route B, whichever has a usable first port and at most `n` hops. -/
def State.chooseRoute (s : State) (e : W64) (n : Nat) : Option (List Nat) :=
  let ok := fun (r : List Nat) => !r.isEmpty && decide (r.length ≤ n) && s.portUsable (r.headD 0)
  if ok (routePorts e false) then some (routePorts e false)
  else if ok (routePorts e true) then some (routePorts e true)
  else none

/-- R453: the route of a new packet from die `d` to module `m`. -/
def State.routeFor (s : State) (d m : Nat) : Option (List Nat) :=
  let x := s.switch d
  let e := x.entry x.newTable m
  if bit e 40 && !bit e 41 then s.chooseRoute e 3 else none

/-- R453: whether a packet for module `m` can be injected on die `d`. -/
def State.canInject (s : State) (d m : Nat) : Bool := (s.routeFor d m).isSome

/-- R455: a new-epoch packet from die `d` waits while an older one to the same module on the same channel is unacknowledged. -/
def State.epochHeld (s : State) (d m vc : Nat) : Bool :=
  s.link.trackers.any fun t => decide (t.die = d) && decide (t.dst = m) && decide (t.vc = vc) &&
    decide (t.epoch ≠ (s.switch d).newTable)

/-- R447: the key of a channel and class. -/
def vcKey (vc cls : Nat) : Nat := vc * 4 + cls

/-- Put a packet at the end of a port's queue. -/
def State.enqueue (s : State) (k vc cls : Nat) (p : Packet) : State :=
  s.modPort k fun x => { x with tx := tset [] x.tx (vcKey vc cls) (tget [] x.tx (vcKey vc cls) ++ [⟨p, 0⟩]) }

/-- Write a route into the port fields of a packet, from hop `i`. -/
def Packet.setRoute (p : Packet) (i : Nat) (r : List Nat) : Packet :=
  let l := ([p.port0, p.port1, p.port2].take i ++ r)
  { p with port0 := l.getD 0 0, port1 := l.getD 1 0, port2 := l.getD 2 0, hops := i + r.length }

/-- R453: inject a packet on die `d`: it takes its route and enters the queue of its first port; none when it cannot be sent. -/
def State.inject (s : State) (d vc : Nat) (p : Packet) : Option State :=
  match s.routeFor d p.dst with
  | none => none
  | some r =>
    let p := { p.setRoute 0 r with epoch := (s.switch d).newTable, hidx := 0, esc := false, src := s.moduleId.toNat }
    let k := r.headD 0
    some ((s.bridge d (k / 9) (pktBytes p).length).enqueue k vc 1 p)

/-- R458: the first tag, from `t`, that is not in use and was not issued in the last 20 ms. -/
def State.findTag (s : State) : Nat → Nat → Option Nat
  | 0, _ => none
  | fuel + 1, t =>
    let last := (tget 0 s.link.tagTime t).toNat
    let recent := decide (last ≠ 0) && decide (s.time.toNat < last - 1 + 20000000)
    if recent || s.link.trackers.any fun x => decide (x.tag = t) then s.findTag fuel ((t + 1) % 65536) else some t

/-- R448, R458: reserve a tracker and inject its packet; none when no tag is free or the packet cannot be sent. -/
def State.sendTracked (s : State) (d vc : Nat) (p : Packet) (op : TrackOp) : Option State :=
  match s.findTag (min 65536 (s.link.tagTime.length + s.link.trackers.length + 1)) s.link.nextTag with
  | none => none
  | some t =>
    match s.inject d vc { p with tag := t } with
    | none => none
    | some s' => some { s' with link := { s'.link with
        trackers := s'.link.trackers ++ [⟨t, op, p.dst, vc, (s.switch d).newTable, d⟩],
        nextTag := (t + 1) % 65536, tagTime := tset 0 s'.link.tagTime t (s.time + 1) } }

/-- Whether a tag is free. -/
def State.tagFree (s : State) : Bool :=
  (s.findTag (min 65536 (s.link.tagTime.length + s.link.trackers.length + 1)) s.link.nextTag).isSome

/-- An empty packet for module `m`. -/
def Packet.to (m : Nat) : Packet :=
  ⟨0, false, false, 0, 0, 0, 0, 0, m, 0, 0, 0, 0, 0, 0, 0, 0, false, false, 0, [], false⟩

/-- R458: acknowledge a packet from die `d`: an ACK with a status goes to its source. -/
def State.ackTo (s : State) (d : Nat) (p : Packet) (status : Nat) : State :=
  (s.inject d 1 { Packet.to p.src with kind := 9, status := status, tag := p.tag, chan := p.chan }).getD s

/-- R453, R458: a packet that is discarded returns FLT_LINK_FAIL, unless it is itself a reply. -/
def State.returnFail (s : State) (d : Nat) (p : Packet) : State :=
  if p.kind = 9 || p.kind = 2 then s else s.ackTo d p 0x52

/-- R450, R453: a packet is discarded at port `k`, with event 0x34B. -/
def State.discard (s : State) (k : Nat) (p : Packet) : State :=
  (s.raise 0x34B (srcPort k) p.kind 0 k).returnFail (k / 9) p

/-- R453: forward a packet that has hops left from port `k`'s die: on its port, or rerouted, or discarded. -/
def State.forward (s : State) (k vc : Nat) (p : Packet) : State :=
  let d := k / 9
  let out := [p.port0, p.port1, p.port2].getD p.hidx 0
  let x := s.switch d
  if p.dst = s.moduleId.toNat && bit (x.entry x.newTable p.dst) 41 then s.discard k p
  else if s.portUsable out then (s.bridge d (out / 9) (pktBytes p).length).enqueue out (if p.esc then 7 else vc) (p.hidx + 1) p
  else if p.esc then s.discard k p
  else
    let tbl := if decide (p.epoch = x.newTable) || x.busy then p.epoch else x.active
    match (if bit (x.entry tbl p.dst) 40 then s.chooseRoute (x.entry tbl p.dst) (3 - p.hidx) else none) with
    | none => s.discard k p
    | some r =>
      let p' := { p.setRoute p.hidx r with esc := true }
      let s := s.raise 0x34C (srcPort k) p.hidx 0 k
      let o := r.headD 0
      (s.bridge d (o / 9) (pktBytes p').length).enqueue o 7 (p.hidx + 1) p'

/-! ### Stage-queue channels (R424, R460) -/

/-- A stage-queue channel. -/
def State.chan (s : State) (c : Nat) : StageChan := tget StageChan.none s.sync.chans c

/-- Replace a stage-queue channel. -/
def State.setChan (s : State) (c : Nat) (x : StageChan) : State :=
  { s with sync := { s.sync with chans := tset StageChan.none s.sync.chans c x } }

/-- R311: the far module of a channel. -/
def State.farOf (s : State) (chan : Nat) : Nat := (s.chan chan).farmod

/-- R460: a channel whose CLOSE could not be delivered is BROKEN. -/
def State.breakChan (s : State) (c : Nat) : State := s.setChan c { s.chan c with broken := true }

/-- R460: the CLOSE of a copy from die `d`, carrying its status: none when it cannot be sent, which breaks the channel. -/
def State.sendClose (s : State) (d : Nat) (it : CopyItem) (status : Nat) (op : TrackOp) : Option State :=
  let m := s.farOf it.desc.dsel
  s.sendTracked d 4 { Packet.to m with kind := 5, srcdom := it.dom, chan := it.desc.dsel, status := status, cseq := it.cseq.toNat } op

/-! ### Lane masks and port states (R436, R444, R445, R458, R466) -/

/-- The wavelengths a 16-bit mask holds. -/
def maskCount (m : W16) : Nat := popcount 16 m.toNat

/-- R445: the state of a port with its masks: UP with 16 in both directions, else DEGRADED. -/
def Port.laneState (p : Port) : Port :=
  { p with state := if maskCount p.txmask = 16 && maskCount p.rxmask = 16 then 2 else 3 }

/-- R436: a group goes dark once its four ports are OFF. -/
def State.lasersOff (s : State) (g : Nat) : State :=
  if (List.range 4).all fun i => decide ((s.port (4 * g + i)).state = 0) then s.setLasers g { s.lasers g with lit := false } else s

/-- The queued packets of a port, with their channels. -/
def Port.queued (p : Port) : List (Nat × TxPkt) := p.tx.flatMap fun e => e.2.map fun x => (e.1 / 4, x)

/-- R441, R458: the whole packets a port has received stay with its switch; their flits no longer hold a credit. -/
def Port.received (p : Port) : Table RxChan :=
  tmap RxChan.empty (fun c => ⟨[], [], c.pkts.map fun x => ⟨x.pkt, []⟩⟩) p.rx

/-- R458, R470: a port goes DOWN: unacknowledged flits are discarded and never sent again; packets still queued are rerouted, and
one whose bytes have begun to leave is lost. -/
def State.portDown (s : State) (k : Nat) : State :=
  let q := (s.port k).queued
  let s := s.modPort k fun p => { p with
    state := 5, replay := [], resend := [], nakSeen := false, tx := [], rx := p.received, used := [], shared := 0, rused := [],
    owed := [], txReq := none, rxReq := none }
  q.foldl (fun s e => if e.2.sent = 0 then s.forward k e.1 e.2.pkt else s) s

/-- R444, R445: a direction takes a new lane mask: each wavelength dropped records 0x343, each added 0x344; fewer than 8 puts the
port DOWN and the mask is not applied. -/
def State.setMask (s : State) (k : Nat) (tx : Bool) (m : W16) : State :=
  let p := s.port k
  if maskCount m < 8 then s.portDown k
  else
    let old := if tx then p.txmask else p.rxmask
    let s := s.setPort k (if tx then { p with txmask := m, txReq := none } else { p with rxmask := m, rxReq := none }).laneState
    (List.range 16).foldl (fun s n =>
      if bit old n && !bit m n then s.raise 0x343 (srcPort k) n 0 (k + b2n (!tx) * 256)
      else if !bit old n && bit m n then s.raise 0x344 (srcPort k) n 0 (k + b2n (!tx) * 256)
      else s) s

/-- R466: a request for ON or OFF begins its sequence, or has no effect in the state it asks for; a port in DOWN leaves it only
through OFF. -/
def State.startRequest (s : State) (k : Nat) (on : Bool) : State :=
  let p := s.port k
  if on then (if p.state = 0 then s.setPort k { p with state := 1 } else s)
  else if p.state = 2 || p.state = 3 || p.state = 5 then s.setPort k { p with state := 4 }
  else s

/-- R466: when a sequence completes, the latched request runs, or is dropped in the state it asks for. -/
def State.runLatched (s : State) (k : Nat) : State :=
  let p := s.port k
  if p.latched then ({ s with link := (s.setPort k { p with latched := false, lreq := false }).link } : State).startRequest k p.lreq else s

/-- R456: entry `m` of both tables of every die carries CONFLICT, event 0x349 is recorded and ALERT_N asserted. -/
def State.idConflict (s : State) (m : Nat) (serial : W64) : State :=
  let s := (List.range 4).foldl (fun s d =>
    let x := s.switch d
    s.setSwitch d { x with rt0 := tset 0 x.rt0 m (setBit (tget 0 x.rt0 m) 41 true),
                           rt1 := tset 0 x.rt1 m (setBit (tget 0 x.rt1 m) 41 true) }) s
  (s.raise 0x349 srcDieM m 0 (serial.toNat % 2 ^ 32)).alertCause 3 true

end Sys2Proof.Machine
end

