-- ==== Sys2Proof/Machine/Cancel.lean ====
section
/-! DEFINITION. Completion and cancellation of copies, prefetch streams and other work of a core, shared by the
copy engines, core reset, domain change and revocation (R135, R156, R316, R326). -/

namespace Sys2Proof.Machine

/-- R324: the CPY_ERR word of a copy. -/
def cpyErrWord (it : CopyItem) (status : Nat) : W64 :=
  BitVec.ofNat 64 (it.seq.toNat + status % 256 * 2 ^ 32 + it.eng % 8 * 2 ^ 40 + 2 ^ 43)

/-- R324: the CPY_ERRPOS word: row, plane, side, RVALID (0 for FLT_CANCELLED). -/
def cpyPosWord (it : CopyItem) (status : Nat) : W64 :=
  if status = 0x50 then 0
  else BitVec.ofNat 64 (it.row % 65536 + it.plane % 65536 * 2 ^ 16 + b2n it.errDest * 2 ^ 32 + b2n it.rvalid * 2 ^ 33)

/-- R316 step 2 for the die-engine sequence: DDONE is the least number not completed. -/
def advanceDone : Nat → W32 → List Nat → W32 × List Nat
  | 0, d, l => (d, l)
  | fuel + 1, d, l => if l.contains d.toNat then advanceDone fuel (d + 1) (l.filter fun x => decide (x ≠ d.toNat)) else (d, l)

/-- R283, R316: number `n` of a sequence has completed when the next number to complete is `next`. -/
def seqDone (next n : W32) : Bool := decide ((next - n - 1).toNat < 2 ^ 31)

/-- R316: copy `n` of engine `eng` of a core has completed. -/
def CopyUnit.copyEnded (u : CopyUnit) (eng : Nat) (n : W32) : Bool :=
  seqDone (if eng < 4 then (tget CopyChan.reset u.chans eng).done else u.deDone) n

/-- R317: an engine's FERR latch. -/
def CopyUnit.ferrOf (u : CopyUnit) (eng : Nat) : Bool :=
  if eng < 4 then (tget CopyChan.reset u.chans eng).ferr else u.deFerr

/-- R317: strands of a core that wait for a copy that has completed take FERR and go on. -/
def State.releaseCpwait (s : State) (c : Nat) : State :=
  (List.range 8).foldl (fun s i =>
    let w := site c i
    match (s.strand w).park with
    | .cpwait eng n gd =>
      let u := (s.core c).cpy
      if u.copyEnded eng n then
        ((s.modBank w fun b => b.writeG gd (boolW (u.ferrOf eng))).park w .none).retire w
      else s
    | _ => s) s

/-- R319, R322: the declaration of the streams that `p` picks ends; their fills in flight go on. -/
def Core.endStreams (k : Core) (p : Nat → Bool) : Core :=
  { k with pfills := k.pfills.map fun f => if p f.stream then { f with live := false } else f }

/-- R322: a cancelled prefetch stream goes IDLE, and its fills in flight complete and install. -/
def Core.cancelStreams (k : Core) : Core := { k.endStreams fun _ => true with pst := [] }

/-- R306: what FENCE.TASK waits for: the core's stores and TST rows, and the drains, stream descriptors and copies issued before it. -/
def Core.taskQuiet (k : Core) (copies : List (Nat × Nat)) (str acc : Nat) : Bool :=
  k.wbuf.isEmpty && !(k.tiles.any fun g => g.2.xfer.any fun x => decide (x.kind = .store)) &&
  decide ((k.acc.ddone - BitVec.ofNat 32 acc).toNat < 2 ^ 31) &&
  decide ((k.str.sdone - BitVec.ofNat 32 str).toNat < 2 ^ 31) &&
  copies.all fun e => k.cpy.copyEnded e.1 (BitVec.ofNat 32 e.2)

/-- R305, R306: the fills of demand misses that are outstanding at an invalidation of L1D deliver their data but do not install; a
second miss has sent no request yet (R97). -/
def Core.barFills (k : Core) : Core :=
  { k with strands := tmap Strand.reset (fun t => { t with miss := t.miss.map fun m => { m with fill := false } }) k.strands }

/-- R306: the effect of FENCE.TASK. -/
def Core.taskFence (k : Core) : Core := { k.cancelStreams.barFills with l1d := [], l1i := [] }

/-- R306: strands parked in FENCE.TASK go on once what they wait for has completed. -/
def State.releaseTaskFences (s : State) (c : Nat) : State :=
  (List.range 8).foldl (fun s i =>
    let w := site c i
    match (s.strand w).park with
    | .fenceTask copies str acc =>
      if (s.core c).taskQuiet copies str acc then (((s.modCore c Core.taskFence).park w .none).retire w) else s
    | _ => s) s

/-- R316 steps 2-4: a copy completes: its sequence advances, a non-zero status is recorded in CPY_ERR and FERR with
vector 34 (with 37 for a copy over a stage-queue channel, R159), and the SIGNAL is performed. -/
def State.copyDone (s : State) (it : CopyItem) (status : Nat) : State :=
  let s := s.modCore it.core fun k =>
    let u := k.cpy
    let u := if it.eng < 4 then
        let ch := tget CopyChan.reset u.chans it.eng
        let ch := { ch with done := it.seq + 1, ferr := ch.ferr || decide (status ≠ 0) }
        { u with chans := tset CopyChan.reset u.chans it.eng ch }
      else
        let r := advanceDone (u.deFin.length + 1) u.deDone (it.seq.toNat :: u.deFin)
        { u with deDone := r.1, deFin := r.2, deFerr := u.deFerr || decide (status ≠ 0) }
    let u := if status = 0 then u
      else { u with err := cpyErrWord it status, errPos := cpyPosWord it status, errAddr := it.errAddr }
    let k := { k with cpy := u }
    if status = 0 then k
    else if fld it.desc.ctrl 1 0 = 2 || fld it.desc.ctrl 3 2 = 2 then (k.pend 34).pend 37 else k.pend 34
  let s := (s.releaseCpwait it.core).releaseTaskFences it.core
  s.signal it.sig status

/-- R326, R460: a cancelled copy completes with FLT_CANCELLED; one toward a remote channel sends its CLOSE with that status first,
unless it has sent one. -/
def State.cancelCopy (s : State) (it : CopyItem) : State :=
  let c := it.desc.dsel
  let s := if fld it.desc.ctrl 3 2 ≠ 2 || it.phase = 3 || (s.chan c).broken then s
    else match s.sendClose (dieOfCore it.core) it 0x50 (.closeOnly c) with
      | some s => s
      | none => s.breakChan c
  s.copyDone it 0x50

/-- R326: cancel a list of copies, oldest first. -/
def State.cancelCopies (s : State) (l : List CopyItem) : State := l.foldl State.cancelCopy s

/-- Die `d`'s copy engines. -/
def State.diePool (s : State) (d : Nat) : DiePool := tget DiePool.reset s.diePools d

/-- Replace die `d`'s copy engines. -/
def State.setDiePool (s : State) (d : Nat) (p : DiePool) : State :=
  { s with diePools := tset DiePool.reset s.diePools d p }

/-- Remove from a die's pool and engines the copies that `p` picks; answers them, running ones first. -/
def DiePool.takeOut (x : DiePool) (p : CopyItem → Bool) : DiePool × List CopyItem :=
  let running := (List.range 16).filterMap fun e =>
    match (tget DieEngine.idle x.engines e).item with
    | some it => if p it then some (e, it) else none
    | none => none
  let eng := running.foldl (fun t r => tset DieEngine.idle t r.1 { tget DieEngine.idle t r.1 with item := none }) x.engines
  ({ x with pool := x.pool.filter fun it => !p it, engines := eng }, running.map Prod.snd ++ x.pool.filter p)

/-- R326: cancel the copies that `p` picks on the four channels of core `c`. -/
def State.cancelChannels (s : State) (c : Nat) (p : CopyItem → Bool) : State :=
  (List.range 4).foldl (fun s i =>
    let ch := tget CopyChan.reset (s.core c).cpy.chans i
    let out := ch.queue.filter p
    let s := s.modCore c fun k => { k with cpy := { k.cpy with
      chans := tset CopyChan.reset k.cpy.chans i ({ ch with queue := ch.queue.filter fun it => !p it }) } }
    s.cancelCopies out) s

/-- R326: cancel the copies that `p` picks on every die's engines. -/
def State.cancelDieCopies (s : State) (p : CopyItem → Bool) : State :=
  (List.range 4).foldl (fun s d =>
    let r := (s.diePool d).takeOut p
    (s.setDiePool d r.1).cancelCopies r.2) s

/-! ### Stream descriptors (R284, R287, R293) -/

/-- R267, R268: the SIGNAL of a stream descriptor, under its sync-range hull. -/
def StreamItem.signal (it : StreamItem) : Signal :=
  ⟨leAt it.desc 48 1 % 4, leAt it.desc 49 2, leAt it.desc 52 2, it.hs⟩

/-- R292: the completion record. -/
def StreamItem.record (it : StreamItem) (status : Nat) : W64 :=
  BitVec.ofNat 64 (it.seq.toNat + status % 256 * 2 ^ 32 + leAt it.desc 0 1 * 2 ^ 40 + min it.nf 32767 * 2 ^ 48 + 2 ^ 63)

/-- R284: strands of the core that wait for descriptor `n` take its status and go on. -/
def State.releaseSwait (s : State) (c : Nat) (n : W32) (status : Nat) : State :=
  (List.range 8).foldl (fun s i =>
    let w := site c i
    match (s.strand w).park with
    | .swait seq gd =>
      if seq = n then
        ((s.modBank w fun b => b.writeG gd (BitVec.ofNat 64 status)).park w .none).retire w
      else s
    | _ => s) s

/-- R287 steps 3 and 4: a descriptor completes: record, SDONE, SIGNAL; a non-zero status makes vector 35 pending. -/
def State.streamDone (s : State) (c : Nat) (it : StreamItem) (status : Nat) : State :=
  let s := s.modCore c fun k => { k with str := { k.str with
    records := tset 0 k.str.records (it.seq.toNat % 16) (it.record status), sdone := it.seq + 1 } }
  let s := (s.releaseSwait c it.seq status).releaseTaskFences c
  let s := if status = 0 then s else s.pendVec c 35
  if it.nosig then s else s.signal it.signal status

/-- R293: every descriptor of a core is cancelled, in sequence order. -/
def State.cancelStreamEngine (s : State) (c : Nat) : State :=
  let q := (s.core c).str.queue
  let s := s.modCore c fun k => { k with str := { k.str with queue := [] } }
  let s := s.dropWaiter (.stream c)
  q.foldl (fun s it => s.streamDone c { it with nosig := false } 0x50) s

/-- R156 step 2: every copy the core issued, its stream descriptors, and its prefetch streams. -/
def State.cancelCoreCopies (s : State) (c : Nat) : State :=
  let s := s.cancelChannels c fun _ => true
  let s := s.cancelDieCopies fun it => decide (it.core = c)
  let s := s.cancelStreamEngine c
  s.modCore c Core.cancelStreams

/-- Remove the waiter entries of every strand of a core. -/
def State.dropCoreWaiters (s : State) (c : Nat) : State :=
  { s with sync := { s.sync with waiters := s.sync.waiters.filter fun w =>
      match w.party with
      | .strand k _ => decide (k ≠ c)
      | .stream k => decide (k ≠ c)
      | _ => true } }

end Sys2Proof.Machine
end

