-- ==== Sys2Proof/Machine/TileOps.lean ====
section
/-! DEFINITION. Tile storage, configuration words, the order of tile accesses, tile-file errors, and reads and writes of a
core's units through its L1D and scratchpad (chapter 07). -/

namespace Sys2Proof.Machine

/-- The tile group of a strand (R164): 0 for A, 1 for B. -/
def groupOf (strand : Nat) : Nat := strand / 4

/-- Tile group `i` of core `c`. -/
def State.group (s : State) (c i : Nat) : TileGroup := tget TileGroup.reset (s.core c).tiles i

/-- Replace a tile group. -/
def State.setGroup (s : State) (c i : Nat) (x : TileGroup) : State :=
  s.modCore c fun k => { k with tiles := tset TileGroup.reset k.tiles i x }

/-- The next place in the core issue order of R177 and R228. -/
def State.takeOrd (s : State) (c : Nat) : State × Nat :=
  (s.modCore c fun k => { k with ord := k.ord + 1 }, (s.core c).ord)

/-! ### Configuration words (R168) -/

/-- The configuration word of tile `t` of group `g`. -/
def State.tcfgWord (s : State) (c g t : Nat) : W32 := tget 0 (s.group c g).cfg t

/-- V. -/
def cfgV (x : W32) : Bool := bit x 0
/-- ROWSM1 + 1. -/
def cfgRows (x : W32) : Nat := fld x 6 1 + 1
/-- Bytes per row. -/
def cfgBpr (x : W32) : Nat := 16 * (fld x 9 7 + 1)
/-- FORMAT. -/
def cfgFmt (x : W32) : Nat := fld x 13 10
/-- ROLE. -/
def cfgRole (x : W32) : Nat := fld x 16 14
/-- TBL. -/
def cfgTbl (x : W32) : Bool := bit x 17
/-- META. -/
def cfgMeta (x : W32) : Nat := fld x 21 18
/-- META_EN. -/
def cfgMetaEn (x : W32) : Bool := bit x 22
/-- SCALE. -/
def cfgScale (x : W32) : Nat := fld x 26 23
/-- SCALE_EN. -/
def cfgScaleEn (x : W32) : Bool := bit x 27

/-- R51: the format may be an activation operand. -/
def fmtAct (f : Nat) : Bool := f ≤ 12 && f != 9
/-- R51: the format may be a weight operand. -/
def fmtWeight (f : Nat) : Bool := f ≤ 12
/-- R51: the format may carry MX block scales. -/
def fmtScalable (f : Nat) : Bool := (4 ≤ f && f ≤ 8) || f == 10
/-- R51: the format may be a drain output. -/
def fmtDrain (f : Nat) : Bool := f != 9 && f != 14 && f != 15
/-- R170 rule 7: the format takes structured sparsity. -/
def fmtSparse (f : Nat) : Bool := [2, 3, 4, 5, 6, 7, 8, 10, 12].contains f

/-- R170: the first rule that word `t` of a block breaks, as a fault code. -/
def cfgWordFault (block : List Nat) (t : Nat) : Option Nat :=
  let x : W32 := BitVec.ofNat 32 (block.getD t 0)
  let role := cfgRole x
  let link (n : Nat) : W32 := BitVec.ofNat 32 (block.getD n 0)
  if fld x 31 28 ≠ 0 || (!cfgV x && x != 0) then some 0x24
  else if !cfgV x then none
  else if role ≥ 4 then some 0x24
  else if role = 0 && (cfgFmt x ≥ 14 || (cfgTbl x && cfgFmt x != 9)) then some 0x24
  else if (role = 1 || role = 2) &&
      !(cfgFmt x == 0 && cfgRows x == 64 && cfgBpr x == 16 * role && !cfgTbl x && !cfgMetaEn x && !cfgScaleEn x) then
    some 0x24
  else if role = 3 && !(cfgFmt x == 14 && !cfgTbl x && !cfgMetaEn x && !cfgScaleEn x &&
      (cfgBpr x == 16 || (cfgBpr x == 64 && (cfgRows x == 2 || cfgRows x == 4)))) then some 0x24
  else
    let m := link (cfgMeta x)
    let sc := link (cfgScale x)
    if cfgMetaEn x && !(cfgMeta x != t && cfgV m && (cfgRole m == 1 || cfgRole m == 2) && cfgRows x == 64) then some 0x24
    else if cfgMetaEn x && !fmtSparse (cfgFmt x) then some 0x20
    else if cfgScaleEn x && !(cfgScale x != t && cfgV sc && cfgRole sc == 3) then some 0x24
    else if cfgScaleEn x && !fmtScalable (cfgFmt x) then some 0x20
    else none

/-- R170: the first inconsistent word of a block: its tile and fault code. -/
def cfgBlockFault (block : List Nat) : Option (Nat × Nat) :=
  (List.range 16).findSome? fun t => (cfgWordFault block t).map fun c => (t, c)

/-! ### Rows -/

/-- A tile. -/
def TileGroup.tile (x : TileGroup) (t : Nat) : Tile := tget Tile.zero x.tiles t

/-- Replace a tile. -/
def TileGroup.setTile (x : TileGroup) (t : Nat) (y : Tile) : TileGroup := { x with tiles := tset Tile.zero x.tiles t y }

/-- Row `r` of a tile, as a little-endian number of 1,024 bits. -/
def State.tileRow (s : State) (c g t r : Nat) : BitVec 1024 := tget 0 ((s.group c g).tile t).rows r

/-- A tile's table store. -/
def State.tileTable (s : State) (c g t : Nat) : BitVec 256 := ((s.group c g).tile t).table

/-- R179: the tag of a tile row in a reuse latch; row 64 stands for the table store. -/
def latchTag (g t r : Nat) : Nat := (g * 16 + t) * 65 + r

/-- R179: a write of a latched row or table invalidates the latch. -/
def Core.dropLatch (k : Core) (p : Nat → Bool) : Core :=
  let f (o : Option Nat) : Option Nat := match o with | some x => if p x then none else some x | none => none
  { k with mats := tmap MatArray.reset (fun a => { a with latchA := f a.latchA, latchW := f a.latchW }) k.mats }

/-- Write row `r` of a tile. -/
def State.setTileRow (s : State) (c g t r : Nat) (x : BitVec 1024) : State :=
  let y := (s.group c g).tile t
  (s.setGroup c g ((s.group c g).setTile t { y with rows := tset 0 y.rows r x })).modCore c fun k =>
    k.dropLatch fun n => decide (n = latchTag g t r)

/-- Write a tile's table store. -/
def State.setTileTable (s : State) (c g t : Nat) (x : BitVec 256) : State :=
  let y := (s.group c g).tile t
  (s.setGroup c g ((s.group c g).setTile t { y with table := x })).modCore c fun k =>
    k.dropLatch fun n => decide (n = latchTag g t 64)

/-- Write bytes into a row at a byte offset. -/
def rowPut (x : BitVec 1024) (off : Nat) (b : List Byte) : BitVec 1024 :=
  setFld x (8 * (off + b.length) - 1) (8 * off) (leNat b)

/-- R190: what a tile-file read finds. An uncorrectable error is recorded and the core's domain is revoked. `row` is 64 for the
table store. -/
def State.tileErr (s : State) (c g t row : Nat) (e : MemErr) : State :=
  let arg := g + row % 64 * 2 ^ 8
  match e with
  | .corrected =>
    let s := s.modCore c fun k => { k with tileEcc := setFld k.tileEcc 15 0 (satAdd 16 (fld k.tileEcc 15 0) 1) }
    s.raise 0x230 (srcCore c) t 0 arg
  | .uncorrectable =>
    let s := s.modCore c fun k =>
      let x := setFld (setBit k.tileEcc 17 true) 18 18 g
      let x := setFld (setFld x 22 19 t) 28 23 (if row = 64 then 0 else row)
      { k with tileEcc := setBit x 29 (decide (row = 64)) }
    let d := (s.core c).domain
    (s.raise 0x231 (srcCore c) t d arg).wantRevoke d
  | _ => s

/-- R190: the granules of the first `n` bytes of a row (64: table store) are read and checked; granule `j` finds what `e` says of read
`base + j`. Answers the granules whose data an uncorrectable error withholds. -/
def State.tileCheck (s : State) (c g t row n : Nat) (e : ErrMap) (base : Nat) : State × List Nat :=
  (List.range ((n + 15) / 16)).foldl (fun a j =>
    (a.1.tileErr c g t row (errAt e (base + j)), if errAt e (base + j) = .uncorrectable then a.2 ++ [j] else a.2)) (s, [])

/-! ### The drain word (R232) -/

/-- FMT. -/
def dwFmt (x : W64) : Nat := fld x 3 0
/-- ACT. -/
def dwAct (x : W64) : Nat := fld x 9 6
/-- SCL. -/
def dwScl (x : W64) : Bool := bit x 10
/-- BIAS. -/
def dwBias (x : W64) : Bool := bit x 11
/-- MX. -/
def dwMx (x : W64) : Bool := bit x 12
/-- PAIR. -/
def dwPair (x : W64) : Bool := bit x 13
/-- IPATH. -/
def dwIpath (x : W64) : Bool := bit x 14
/-- CLR. -/
def dwClr (x : W64) : Bool := bit x 15
/-- TILE. -/
def dwTile (x : W64) : Nat := fld x 19 16
/-- ROW0. -/
def dwRow0 (x : W64) : Nat := fld x 33 28
/-- NR. -/
def dwNr (x : W64) : Nat := fld x 39 34 + 1
/-- NC. -/
def dwNc (x : W64) : Nat := fld x 45 40 + 1
/-- DCOL. -/
def dwDcol (x : W64) : Nat := b2n (bit x 46)
/-- STRIDE in bytes. -/
def dwStride (x : W64) : Nat := 16 * fld x 59 48

/-- R234: the destination rows. -/
def dwRows (x : W64) : Nat := if dwPair x then (dwNr x + 1) / 2 else dwNr x

/-- R234: the destination row of output row `o`. -/
def dwRowOf (x : W64) (o : Nat) : Nat := if dwPair x then o / 2 else o

/-! ### The order of tile accesses (R177, R178) -/

/-- A row of a pass is not masked (R202). -/
def Pass.live (p : Pass) (i : Nat) : Bool := decide (i < p.m) && p.mask.getLsbD i

/-- R199, R202, R203: the slots of a pass, in order: the tile row each reads and the activation rows it carries. A masked row takes no
slot but beside an unmasked row of its slot; a pass with K = 0 takes one slot and reads nothing. -/
def Pass.slots (p : Pass) : List (Nat × List Nat) :=
  if p.k = 0 then [(0, [])]
  else if p.two then
    (List.range ((p.m + 1) / 2)).filterMap fun u =>
      let l := [2 * u, 2 * u + 1].filter p.live
      if l = [] then none else some (u, l)
  else (List.range p.m).filterMap fun i => if p.live i then some (if p.paired then i / 2 else i, [i]) else none

/-- R177, R218: a pass has still to read row `row` of a tile, as activation or scale operand. -/
def Pass.reads (p : Pass) (g t row : Nat) : Bool :=
  decide (p.group = g) && (p.slots.drop p.next).any fun sl =>
    decide (sl.2 ≠ []) &&
      ((decide (p.tile ≤ t) && decide (t < p.tile + p.span) && decide (sl.1 = row)) || (decide (p.scale = some t) && sl.2.contains row))

/-- R177, R211: a reload has still to read row `row` (64: table store) of a tile of its data operand. -/
def Reload.reads (x : Reload) (g t row : Nat) : Bool :=
  !x.taken && decide (x.group = g) && decide (x.tile ≤ t) && decide (t < x.tile + x.span) &&
    (decide (row < x.ws.nrows) || (decide (row = 64) && decide (x.ws.fmt = 9)))

/-- A queued item of an array has still to read a row of a tile and is older than `ord`. -/
def MatItem.readsBefore (i : MatItem) (g t row ord : Nat) : Bool :=
  match i with
  | .reload x => x.reads g t row && decide (x.ord < ord)
  | .pass p => p.reads g t row && decide (p.ord < ord)

/-- R178: the hold whose accesses are still owed: none while its resumed transfer runs, which then owes them. -/
def TileGroup.standing (x : TileGroup) : Option Held :=
  match x.xfer with
  | some y => (match y.kind with | .load => none | .store => none | _ => x.held)
  | none => x.held

/-- R189: a row (64: table store) that a TZERO or TMOV has still to reach. -/
def TileXfer.ahead (x : TileXfer) (row : Nat) : Bool := if row = 64 then x.table else decide (x.next ≤ row)

/-- R177: an older instruction that has not yet read row `row` (64: table store) of a tile. -/
def State.readerBefore (s : State) (c g t row ord : Nat) : Bool :=
  let k := s.core c
  let gr := s.group c g
  (List.range 4).any (fun a => (tget MatArray.reset k.mats a).queue.any fun i => i.readsBefore g t row ord) ||
  k.vals.any (fun v => v.loads.any fun l => decide (l.2.ord < ord) &&
    (l.2.reads g t row || v.metas.any fun m => decide (m.1 = g) && decide (m.2.1 = t) && decide (row < m.2.2))) ||
  (match gr.standing with
    | some h => h.store && decide (h.tile = t) && decide (h.row ≤ row) && decide (h.ord < ord)
    | none => false) ||
  (List.range 2).any fun g' =>
    match (s.group c g').xfer with
    | some x =>
      decide (x.ord < ord) &&
      match x.kind with
      | .store => decide (g' = g) && decide (x.tile = t) && (x.table || decide (x.next ≤ row))
      | .move sg st => decide (sg = g) && decide (st = t) && x.ahead row
      | _ => false
    | none => false

/-- R177, R234: a drain to a tile has still to write row `row` of tile `t`, or of its scale tile `sc`. -/
def DrainItem.writesTile (d : DrainItem) (t sc row : Nat) : Bool :=
  decide (d.kind = 0) && decide (d.next < dwNr d.word) &&
    ((decide (dwTile d.word = t) && decide (dwRowOf d.word d.next ≤ row) && decide (row < dwRows d.word)) ||
      (dwMx d.word && decide (sc = t) && decide (d.next ≤ row) && decide (row < dwNr d.word)))

/-- R177: an older instruction that has not yet written row `row` (64: table store) of a tile. -/
def State.writerBefore (s : State) (c g t row ord : Nat) : Bool :=
  let k := s.core c
  let gr := s.group c g
  (match gr.standing with
    | some h => !h.store && decide (h.tile = t) && decide (h.row ≤ row) && decide (row < 64) && decide (h.ord < ord)
    | none => false) ||
  (match gr.xfer with
    | some x =>
      decide (x.ord < ord) && decide (x.tile = t) &&
      match x.kind with
      | .load => if x.table then decide (row = 64) else decide (x.next ≤ row) && decide (row < 64)
      | .store => false
      | _ => x.ahead row
    | none => false) ||
  k.acc.queue.any fun d =>
    decide (groupOf d.strand = g) && decide (d.ord < ord) && d.writesTile t (cfgScale (s.tcfgWord c g (dwTile d.word))) row

/-- A younger writer of a row must wait. -/
def State.mayWriteRow (s : State) (c g t row ord : Nat) : Bool :=
  !s.readerBefore c g t row ord && !s.writerBefore c g t row ord

/-! ### Reads and writes of a core's units -/

/-- R334: an L1D parity error: the line is invalidated, counted and recorded with its way. -/
def State.l1Parity (s : State) (c pa key : Nat) : State :=
  let s := s.modCore c fun k => { k with l1d := l1Drop k.l1d 8 pa, l1dCount := satInc k.l1dCount 1 }
  (s.raise 0x23E (srcCore c) (key % 8) 0 0).count c 0x18 0 1

/-- R319: the virtual line numbers of a stream's extent: rows ascending, addresses ascending, a line shared by two rows
counted at its first occurrence. -/
def PStream.lines (p : PStream) : List Nat :=
  ((List.range p.rows).flatMap fun (r : Nat) =>
    let a := ((p.addr : Int) + (r : Int) * p.stride).toNat
    (List.range ((a + p.rowlen - 1) / 128 - a / 128 + 1)).map fun i => a / 128 + i).eraseDups

/-- R321: the index of the line of a running level-0 stream that an access touches. -/
def streamIndex (p : PStream) (dom va : Nat) : Option Nat :=
  if decide (p.state = 1) && !p.l2 && decide (hSeal p.hull = dom) then p.lines.idxOf? (va / 128) else none

/-- R321: a demand access moves the consumption point of the core's running level-0 streams. -/
def Core.touchStreams (k : Core) (dom va : Nat) : Core :=
  if k.pst = [] then k
  else { k with pst := tmap PStream.reset (fun p =>
    match streamIndex p dom va with
    | some j => if p.touched < j + 1 then { p with touched := j + 1 } else p
    | none => p) k.pst }

/-- R183, R331, R334, R342: read bytes that lie in one line through the core: scratchpads directly, anything else through L1D, with every
buffered store of the core laid over them. A last-use read that hits L1D sends its mark to the line's home slice. Which stores of other
strands that issued after a TLD its rows observe is unspecified (R183); here a row observes every store issued before the row is moved
(log entry 129, DESIGN CHOICE). -/
def State.coreReadLine (s : State) (c pa n hint : Nat) (pin chaff : Bool) (alloc : Option Nat) : State × List Byte :=
  match regionOf pa with
  | .scratch _ _ =>
    let r := s.scratchRead pa n
    (r.1, overlay (s.core c).wbuf pa r.2)
  | _ =>
    let s := match l1Find (s.core c).l1d 8 pa with
      | some i => if s.lineErrs (lineOf pa) isParityErr = [] then s else s.l1Parity c pa i
      | none => s
    match l1Find (s.core c).l1d 8 pa with
    | some i =>
      let b := overlay (s.core c).wbuf pa (l1Bytes (s.core c).l1d i pa n)
      let s := s.modCore c fun k => { k with l1d := l1Hit k.l1d i }
      (if chaff && decide (hint = 2) then s.chaffMark (lineOf pa) else s, b)
    | none =>
      match (if isHbm pa then alloc else none) with
      | some age =>
        let line := pa / 128 * 128
        let r := s.homeRead line 128 hint pin chaff
        (r.1.modCore c fun k => { k with l1d := l1Install k.l1d 8 pa age (overlay k.wbuf line r.2) },
          overlay (s.core c).wbuf pa (bytesAt r.2 (pa % 128) n))
      | none =>
        let r := s.homeRead pa n hint pin chaff
        (r.1, overlay (s.core c).wbuf pa r.2)

/-- Read a range through the core, line by line. -/
def State.coreReadFuel : Nat → State → Nat → Nat → Nat → Nat → Bool → Bool → Option Nat → State × List Byte
  | 0, s, _, _, _, _, _, _, _ => (s, [])
  | fuel + 1, s, c, pa, n, hint, pin, chaff, alloc =>
    if n = 0 then (s, [])
    else
      let step := min n (128 - pa % 128)
      let r := s.coreReadLine c pa step hint pin chaff alloc
      let q := State.coreReadFuel fuel r.1 c (pa + step) (n - step) hint pin chaff alloc
      (q.1, r.2 ++ q.2)

/-- Read translated pieces through the core. -/
def State.coreRead (s : State) (c : Nat) (l : List (Nat × Nat × W64)) (hint : Nat) (pin : Bool) (alloc : Option Nat) : State × List Byte :=
  l.foldl (fun acc p =>
    let r := State.coreReadFuel (p.2.1 / 128 + 2) acc.1 c p.1 p.2.1 hint pin (decide (leafRet p.2.2 = 1)) alloc
    (r.1, acc.2 ++ r.2)) (s, [])

/-- R183: write bytes over translated pieces on a path of their own, visible at once to the core's loads. -/
def State.coreWrite (s : State) (c : Nat) (l : List (Nat × Nat × W64)) (b : List Byte) (hint : Nat) (pin : Bool) : State :=
  let s := s.piecesWrite l b hint pin
  (l.foldl (fun acc p =>
    ((acc.1 : State).modCore c fun k =>
      let lines := (List.range (p.2.1 / 128 + 2)).map fun i => p.1 / 128 * 128 + 128 * i
      { k with l1d := lines.foldl (fun t a =>
        let lo := max a p.1
        let hi := min (a + 128) (p.1 + p.2.1)
        if lo < hi && isHbm lo then l1Store t lo (bytesAt acc.2 (lo - p.1) (hi - lo)) else t) k.l1d }, acc.2.drop p.2.1)) (s, b)).1

/-- R330: a buffered store of the core still owes a write to a line that pieces touch. -/
def Core.storeOwed (k : Core) (l : List (Nat × Nat × W64)) : Bool :=
  k.wbuf.any fun e => l.any fun p => decide (p.1 / 128 ≤ lineOf e.pa) && decide (lineOf e.pa ≤ (p.1 + p.2.1 - 1) / 128)

end Sys2Proof.Machine
end

