-- ==== Sys2Proof/Machine/AccOps.lean ====
section
/-! DEFINITION. Accumulator memory: elements, modes, the order of slot accesses, errors (R224-R230, R258). -/

namespace Sys2Proof.Machine

/-- Apply `f` to core `c`'s accumulator unit. -/
def State.modAcc (s : State) (c : Nat) (f : AccUnit → AccUnit) : State := s.modCore c fun k => { k with acc := f k.acc }

/-- Array `a` of a core. -/
def Core.mat (k : Core) (a : Nat) : MatArray := tget MatArray.reset k.mats a

/-- Apply `f` to array `a` of core `c`. -/
def State.modMat (s : State) (c a : Nat) (f : MatArray → MatArray) : State :=
  s.modCore c fun k => { k with mats := tset MatArray.reset k.mats a (f (k.mat a)) }

/-- The key of an element. -/
def elemKey (slot row col : Nat) : Nat := slot * 4096 + row * 64 + col

/-- An accumulator element. -/
def AccUnit.elem (x : AccUnit) (slot row col : Nat) : W128 := tget 0 x.elems (elemKey slot row col)

/-- Replace an element. -/
def AccUnit.setElem (x : AccUnit) (slot row col : Nat) (v : W128) : AccUnit :=
  { x with elems := tset 0 x.elems (elemKey slot row col) v }

/-- Zero every element of a slot. -/
def AccUnit.zeroSlot (x : AccUnit) (slot : Nat) : AccUnit :=
  { x with elems := tkeep (fun k => decide (k / 4096 ≠ slot)) x.elems }

/-- Zero one row of a slot. -/
def AccUnit.zeroRow (x : AccUnit) (slot row : Nat) : AccUnit :=
  { x with elems := tkeep (fun k => decide (k / 64 ≠ slot * 64 + row)) x.elems }

/-- R225: a slot's mode. -/
def AccUnit.mode (x : AccUnit) (slot : Nat) : SlotMode := tget SlotMode.none x.modes slot

/-- R67, R75, R248: the bits of an element that a mode uses; the others are zero. -/
def elemOf (mode : Nat) (x : Nat) : W128 :=
  BitVec.ofNat 128 (match mode with | 1 => x % 2 ^ 125 | 2 => x % 2 ^ 32 | _ => x % 2 ^ 64)

/-- R258: what reading an element finds. -/
def State.accErr (s : State) (c slot row col : Nat) (e : MemErr) : State :=
  match e with
  | .corrected =>
    (s.modAcc c fun x => { x with ecc := setFld x.ecc 15 0 (satAdd 16 (fld x.ecc 15 0) 1) }).raise 0x234 (srcCore c) slot 0
      (row + col * 2 ^ 8)
  | .uncorrectable =>
    let d := (s.core c).domain
    let s := s.modAcc c fun x =>
      { x with ecc := setFld (setFld (setFld (setBit x.ecc 17 true) 22 18 slot) 28 23 row) 34 29 col }
    (s.raise 0x235 (srcCore c) slot d (row + col * 2 ^ 8)).wantRevoke d
  | _ => s

/-- A drain item still has row `row` of its slot to handle. -/
def DrainItem.owes (d : DrainItem) (row : Nat) : Bool :=
  if d.kind < 2 then
    decide (fld d.word 33 28 + d.next ≤ row) && decide (row ≤ fld d.word 33 28 + fld d.word 39 34)
  else decide (d.next = 0)

/-- R229: the least slot row that the edge of a queued pass has still to reach: every row before it starts. -/
def Pass.front (p : Pass) : Nat :=
  if p.next = 0 then 0 else match p.slots[p.next]? with | some sl => sl.2.headD 64 | none => 64

/-- R229: a pass queued in an array has still to come to row `row` of the slot. -/
def MatItem.writes (i : MatItem) (slot row ord : Nat) : Bool :=
  match i with
  | .pass p => decide (p.slot = slot) && decide (p.ord < ord) && decide (p.front ≤ row)
  | .reload _ => false

/-- R228, R229: an instruction older than `ord` has not finished with a row of a slot. -/
def Core.slotOwed (k : Core) (slot row ord : Nat) : Bool :=
  (k.acc.clears.any fun x => decide (x.1 = slot) && decide (x.2 < ord)) ||
  (k.acc.queue.any fun d => decide (d.slot = slot) && decide (d.ord < ord) && d.owes row) ||
  (List.range 4).any fun a =>
    (k.mat a).queue.any (fun i => i.writes slot row ord) ||
    (k.mat a).flights.any fun f =>
      decide (f.slot = slot) && decide (f.ord < ord) && f.acts.any fun e => decide (e.1 = row)

/-- R229: for any row of the slot. -/
def Core.slotOwedAny (k : Core) (slot ord : Nat) : Bool := (List.range 64).any fun r => k.slotOwed slot r ord

end Sys2Proof.Machine
end

