-- ==== Sys2Proof/Machine/Real.lean ====
section
/-! DEFINITION. The transcendental functions of R238 and R274: values to more than 150 bits beyond the bounds that the rules give, and
the bounds themselves. The result within a bound is free (log entry 18). -/

namespace Sys2Proof.Machine

/-- The fraction bits of the fixed-point numbers of this file. -/
def fxBits : Nat := 320

/-- An exact value as a fixed-point number, rounded down. -/
def fxOf (x : Fv) : Int :=
  match x with
  | .fin neg m e =>
    let v : Int := if neg then -(m : Int) else m
    if -(fxBits : Int) ≤ e then v * (2 ^ (e + fxBits).toNat : Nat) else v / (2 ^ (-(e + fxBits)).toNat : Nat)
  | _ => 0

/-- A fixed-point number as a value. -/
def fvFx (i : Int) : Fv := .fin (decide (i < 0)) i.natAbs (-(fxBits : Int))

/-- The product of two fixed-point numbers, rounded down. -/
def fxMul (a b : Int) : Int := a * b / (2 ^ fxBits : Nat)

/-- 1 with bits enough to be divided by any value of this file. -/
def fvOne : Fv := .fin false (2 ^ 1024) (-1024)

/-- ln 2. -/
def fxLn2 : Int := (List.range 330).foldl (fun a i => a + ((2 ^ fxBits / ((i + 1) * 2 ^ (i + 1)) : Nat) : Int)) 0

/-- `n` terms of the exponential series of `x` from term `i` on. -/
def expTerms (x : Int) : Nat → Nat → Int → Int
  | 0, _, _ => 0
  | n + 1, i, term => term + expTerms x n (i + 1) (fxMul term x / ((i + 1 : Nat) : Int))

/-- The exponential of a fixed-point number between 0 and 1. -/
def fxExp (x : Int) : Int := expTerms x 80 0 (2 ^ fxBits : Nat)

/-- A fixed-point number held between -`lim` and `lim`. -/
def fxClip (lim : Nat) (x : Int) : Int := max (-(lim * 2 ^ fxBits : Nat) : Int) (min (lim * 2 ^ fxBits : Nat) x)

/-- 2^x. -/
def fvExp2 (x : Fv) : Fv :=
  let y := fxClip 1024 (fxOf x)
  let k := y / (2 ^ fxBits : Nat)
  .fin false (fxExp (fxMul (y - k * (2 ^ fxBits : Nat)) fxLn2)).toNat (k - fxBits)

/-- e^x. -/
def fvExp (x : Fv) : Fv :=
  let y := fxClip 1024 (fxOf x)
  let k := y / fxLn2
  .fin false (fxExp (y - k * fxLn2)).toNat (k - fxBits)

/-- 1 / (1 + e^-x). -/
def fvSigmoid (x : Fv) : Fv := fvOne.div (fvOne.add (fvExp x.neg))

/-- tanh x = 2 sigmoid(2x) - 1, by its own series near 0: tanh x = (e^2x - 1) / (e^2x + 1). -/
def fvTanh (x : Fv) : Fv :=
  let e := fvExp (x.mul (.fin false 2 0))
  ((e.add fvOne.neg).mul fvOne).div (e.add fvOne)

/-- The terms of the series of atanh: `n` terms from power `p` = t^(2i+1) on. -/
def atanhTerms (t : Int) : Nat → Nat → Int → Int
  | 0, _, _ => 0
  | n + 1, i, p => p / ((2 * i + 1 : Nat) : Int) + atanhTerms t n (i + 1) (fxMul (fxMul p t) t)

/-- log2 of a finite value greater than 0. -/
def fvLog2 (m : Nat) (e : Int) : Fv :=
  let k : Int := (m.log2 : Int) + e
  let z := fxOf (.fin false m (e - k))
  let one : Int := (2 ^ fxBits : Nat)
  let t := (z - one) * one / (z + one)
  fvFx (k * one + 2 * atanhTerms t 120 0 t * one / fxLn2)

/-- The terms of the series of the error function: `n` terms from q = (-1)^i x^(2i+1) / i! on. -/
def erfTerms (x : Int) : Nat → Nat → Int → Int
  | 0, _, _ => 0
  | n + 1, i, q => q / ((2 * i + 1 : Nat) : Int) + erfTerms x n (i + 1) (-(fxMul (fxMul q x) x) / ((i + 1 : Nat) : Int))

/-- pi x 2^160, rounded down. -/
def piFixed : Nat := 0x3243F6A8885A308D313198A2E03707344A4093822

/-- erf x = 2 / sqrt(pi) x the series; its distance from 1 beyond 8 is below 2^-90. -/
def fvErf (x : Fv) : Fv :=
  let y := fxClip 8 (fxOf x)
  ((fvFx (2 * erfTerms y 400 0 y)).mul fvOne).div (.fin false (isqrt (piFixed * 2 ^ 160) 162 0) (-160))

/-- 1 / sqrt(m x 2^e) for m above 0, with bits enough that one rounding of it is the rounding of the exact value. -/
def fvRsqrt (m : Nat) (e : Int) : Fv :=
  let odd := e % 2 = 1
  let m := if odd then 2 * m else m
  let e := if odd then e - 1 else e
  let r := isqrt (2 ^ 256 / m) 129 0
  .fin false (2 * r + b2n (decide (r * r * m ≠ 2 ^ 256))) (-(e / 2) - 129)

/-- The magnitude of a value. -/
def Fv.abs : Fv → Fv
  | .nan => .nan
  | .inf _ => .inf false
  | .fin _ m e => .fin false m e

/-- A unit in the last place of FP32 at a value. -/
def ulp32 (x : Fv) : Fv :=
  match x with
  | .fin _ m e => .fin false 1 (if m = 0 then -149 else max ((m.log2 : Int) + e) (-126) - 23)
  | _ => .fin false 1 0

/-- R238, R274: an FP32 pattern lies within `ulps` units in the last place of a value, or, where the rule says so, within 2^-30. -/
def within32 (ulps : Nat) (near : Bool) (exact : Fv) (v : Nat) : Bool :=
  let d := ((f32 v).add exact.neg).abs
  !(f32 v).nonFinite && (!((ulp32 exact).mul (.fin false ulps 0)).lt d || (near && !(Fv.fin false 1 (-30)).lt d))

/-- R238, R274: the one fixed result of a function: the free pattern `v` where it keeps the bound, else the value rounded to FP32. -/
def bounded32 (ulps : Nat) (near : Bool) (exact : Fv) (v : W32) : Nat :=
  if within32 ulps near exact v.toNat then v.toNat else toF32 exact

end Sys2Proof.Machine
end

