-- ==== Sys2Proof/Machine/LossOps.lean ====
section
/-! DEFINITION. The schedule engine and the loss monitor (R389-R397), and what drains, stream descriptors and update passes report
to a loss-monitor slot. -/

namespace Sys2Proof.Machine

/-- 1.0 in FP32. -/
def one32 : Nat := 0x3F800000

/-- Loss-monitor slot `i`. -/
def State.lossSlot (s : State) (i : Nat) : LossSlot := tget LossSlot.reset s.upd.loss i

/-- Replace loss-monitor slot `i`. -/
def State.setLossSlot (s : State) (i : Nat) (x : LossSlot) : State :=
  { s with upd := { s.upd with loss := tset LossSlot.reset s.upd.loss i x } }

/-- Schedule slot `i`. -/
def State.schedSlot (s : State) (i : Nat) : SchedSlot := tget SchedSlot.reset s.upd.sched i

/-- Replace schedule slot `i`. -/
def State.setSchedSlot (s : State) (i : Nat) (x : SchedSlot) : State :=
  { s with upd := { s.upd with sched := tset SchedSlot.reset s.upd.sched i x } }

/-- R393: NFACC of a slot gains a count. -/
def State.lossAdd (s : State) (slot n : Nat) : State :=
  let x := s.lossSlot slot
  s.setLossSlot slot { x with nfacc := satInc x.nfacc n }

/-- R242, R291: the count of a core's drain or stream descriptor reaches the slot LMON_CLINK names. -/
def State.lossNonFinite (s : State) (c n : Nat) : State :=
  let x := tget 0 s.upd.clink c
  if bit x 8 then s.lossAdd (fld x 7 0) n else s

/-! ### The learning rate (R389, R390) -/

/-- R382: pow by binary exponentiation over the low `n` bits of `t`, most significant first. -/
def powBits (k t : Nat) : Nat → Nat → Nat
  | 0, r => r
  | n + 1, r =>
    let r := f32Mul r r
    powBits k t n (if t.testBit n then f32Mul r k else r)

/-- R382: pow(k, t). -/
def f32Pow (k t : Nat) : Nat := powBits k t (bitLen 64 t) one32

/-- An exact natural number. -/
def fvNat (n : Nat) : Fv := .fin false n 0

/-- FP32 quotient of exact values, one rounding. -/
def f32Div (x y : Fv) : Nat := toF32 (x.div y)

/-- FP32 reciprocal square root, one rounding. -/
def f32Rsqrt (x : Nat) : Nat :=
  match f32 x with
  | .nan => 0x7FC00000
  | .inf neg => if neg then 0x7FC00000 else 0
  | .fin neg m e =>
    if m = 0 then (if neg then 0xFF800000 else 0x7F800000)
    else if neg then 0x7FC00000
    else toF32 (fvRsqrt m e)

/-- floor(x) of an FP32 value at least 0. -/
def f32Floor (x : Nat) : Nat :=
  match f32 x with
  | .fin false m e => if 0 ≤ e then m * 2 ^ e.toNat else m / 2 ^ (-e).toNat
  | _ => 0

/-- cos of a fixed-point angle (160 fraction bits) by its Taylor series: `n` terms from term index `i`. -/
def cosFixed (x : Int) : Nat → Nat → Int → Int
  | 0, _, _ => 0
  | n + 1, i, term =>
    term + cosFixed x n (i + 1) (-(term * x / (2 ^ 160 : Nat) * x / (2 ^ 160 : Nat) / ((2 * i + 1) * (2 * i + 2) : Nat)))

/-- R390: the cosine table T[k]. -/
def cosTable (k : Nat) : Nat :=
  if k ≥ 1024 then 0
  else
    let c := cosFixed (piFixed * k / 1024 : Nat) 60 0 (2 ^ 160 : Nat)
    let v := (2 ^ 160 : Nat) + c
    toF32 (.fin false v.toNat (-161))

/-- R390: the cosine table at x. -/
def cosineAt (x : Nat) : Nat :=
  let sc := f32Mul x (toF32 (fvNat 1024))
  let k := f32Floor sc
  if k ≥ 1024 then cosTable 1024
  else f32Fma (f32Sub (cosTable (k + 1)) (cosTable k)) (f32Sub sc (toF32 (fvNat k))) (cosTable k)

/-- R389: the cycle that `tau` falls into: the position in it and its length. -/
def restartCycle (mult : Nat) : Nat → Nat → Nat → Nat × Nat
  | 0, tau, len => (tau, len)
  | fuel + 1, tau, len =>
    if tau < len then (tau, len)
    else
      let nx := min (f32Floor (toF32 ((fvNat len).mul (f32 mult)))) (2 ^ 31)
      if nx = len then (tau % len, len) else restartCycle mult fuel (tau - len) nx

/-- R389: the configuration of a slot breaks the rule. `counters` says that both its objects are counters. -/
def SchedSlot.bad (x : SchedSlot) (counters : Bool) : Bool :=
  let mult := f32 (fld x.restart 63 32)
  decide (fld x.shape 2 0 > 4) || (decide (fld x.decay 31 0 = 0) && decide (fld x.shape 2 0 ≠ 0)) ||
  (decide (fld x.restart 31 0 > 0) && (decide (mult = .nan) || mult.lt (fvNat 1) || (fvNat 16).lt mult)) || !counters

/-- R389: eta(t) of a slot. -/
def SchedSlot.etaAt (x : SchedSlot) (t : Nat) : Nat :=
  let base := fld x.rate 31 0
  let lo := fld x.rate 63 32
  let warm := fld x.shape 34 3
  if warm > 0 && t ≤ warm then f32Mul base (f32Div (fvNat t) (fvNat warm))
  else
    let tau := t - warm - 1
    let period := fld x.restart 31 0
    let r := if period > 0 then restartCycle (fld x.restart 63 32) (tau + 1) tau period else (tau, fld x.decay 31 0)
    let q := f32Div (fvNat (min r.1 r.2)) (fvNat r.2)
    let span := f32Sub base lo
    let eta := match fld x.shape 2 0 with
      | 0 => base
      | 1 => f32Fma span (f32Sub one32 q) lo
      | 2 => f32Fma span (cosineAt q) lo
      | 3 => f32Mul base (f32Rsqrt (f32Add one32 (f32Div (fvNat r.1) (fvNat r.2))))
      | _ => f32Mul base (f32Pow (fld x.decay 63 32) (r.1 / r.2))
    toF32 ((f32 eta).max (f32 lo))

/-- The slot's two objects are counters of the namespace of the domain it is granted to. -/
def State.schedCounters (s : State) (x : SchedSlot) : Bool :=
  let ok (o : Nat) : Bool := s.objExists x.dom o && decide (objType (s.objWord x.dom o) = 0)
  ok (fld x.shard 31 16) && ok (fld x.shard 47 32)

/-- R389: the engine sets ETA and CFGERR from the configuration and COUNT. -/
def State.schedEta (s : State) (i : Nat) : State :=
  let x := s.schedSlot i
  if x.bad (s.schedCounters x) then s.setSchedSlot i { x with cfgerr := true }
  else s.setSchedSlot i { x with cfgerr := false, eta := BitVec.ofNat 32 (x.etaAt x.count.toNat) }

/-- R391: the slot advances by one step. -/
def State.schedAdvance (s : State) (i : Nat) : State :=
  let x := s.schedSlot i
  let n := fld x.shard 15 0
  let s := s.objSignal x.dom (fld x.shard 31 16) (.dec n) 0
  let s := s.setSchedSlot i { x with count := x.count + 1 }
  let s := s.schedEta i
  let s := s.objSignal x.dom (fld x.shard 47 32) (.inc 1) 0
  let s := s.countDie 4 0x41 0 1
  s.raise 0x300 srcDieM n x.dom (i + (x.count + 1).toNat * 2 ^ 8)

/-- R391: a commit for step `t` at slot `i`. -/
def State.schedCommit (s : State) (i : Nat) (t : W32) : State :=
  let x := s.schedSlot i
  if x.count ≠ t then s.raise 0x307 srcDieM i x.dom t.toNat
  else
    let s := s.objSignal x.dom (fld x.shard 31 16) (.inc 1) 0
    let n := fld x.shard 15 0
    if !x.cfgerr && s.objExists x.dom (fld x.shard 31 16) && decide (n ≤ fld (s.objWord x.dom (fld x.shard 31 16)) 31 0) then
      s.schedAdvance i
    else s

/-- SCHED_COMMIT (R391): the oldest commit on its way to the slot arrives. -/
def execSchedCommit (slot : Fin 64) (s : State) : Out :=
  .next (
    match s.upd.commits.find? fun e => decide (e.1 = slot.val) with
    | none => s
    | some e =>
      let s := { s with upd := { s.upd with commits := s.upd.commits.eraseP fun e => decide (e.1 = slot.val) } }
      s.schedCommit slot.val e.2)

/-- R392: a write to COUNT. -/
def State.countWrite (s : State) (i : Nat) (v : W32) : State :=
  let x := s.schedSlot i
  let s := s.setSchedSlot i { x with count := v }
  let s := s.objSignal x.dom (fld x.shard 31 16) (.set 0) 0
  (s.schedEta i).raise 0x313 srcDieM i x.dom v.toNat

/-- COUNT_WRITE (R392). -/
def execCountWrite (slot : Fin 64) (value : BitVec 32) (s : State) : Out := .next (s.countWrite slot.val value)

/-- RECALC (R389). -/
def execRecalc (slot : Fin 64) (s : State) : Out := .next (s.schedEta slot.val)

/-! ### The loss monitor (R394-R397) -/

/-- R395: the slot is in configuration error. -/
def LossSlot.cfgErr (x : LossSlot) : Bool :=
  let tau := f32 (fld x.cfg0 31 0)
  let k := f32 (fld x.cfg0 63 32)
  tau.nonFinite || tau.lt (fvNat 1) || k.nonFinite || k.lt (fvNat 0)

/-- R394: test and fold a loss. -/
def LossSlot.fold (x : LossSlot) (loss : Nat) : LossSlot :=
  let mean := x.mean.toNat
  let var := x.var.toNat
  let d := f32Sub loss mean
  let warm := fld x.cfg1 15 0
  let lim := f32Mul (fld x.cfg0 63 32) (toF32 (f32 var).sqrt)
  if f32NonFinite loss then { x with spike := true }
  else if warm ≤ x.nsamp.toNat && decide (0 < x.nsamp.toNat) && (f32 lim).lt (f32 d) then { x with spike := true }
  else
    let x := { x with spike := false }
    let y := if x.nsamp = 0 then { x with mean := BitVec.ofNat 32 loss, var := 0 }
      else
        let alpha := f32Div (fvNat 1) (f32 (fld x.cfg0 31 0))
        let w := f32Mul alpha d
        { x with mean := BitVec.ofNat 32 (f32Fma alpha d mean),
                 var := BitVec.ofNat 32 (f32Mul (f32Fma w d var) (f32Sub one32 alpha)) }
    { y with nsamp := satInc y.nsamp 1 }

/-- R394: a store of (LOSS, STEP) to LMON_LOSS. -/
def State.lossStore (s : State) (i : Nat) (loss step : W32) : State :=
  let x := s.lossSlot i
  let s := s.countDie 4 0x42 0 1
  if x.cfgErr || (x.state == 2 && x.step == step) then s
  else s.setLossSlot i (({ x with step := step, state := 1, reason := 0 } : LossSlot).fold loss.toNat)

/-- LOSS_STORE (R394). -/
def execLossStore (slot : Fin 256) (loss step : BitVec 32) (s : State) : Out := .next (s.lossStore slot.val loss step)

/-- R396: the slot closes step `t` with a reason (1 SPIKE, 2 NONFINITE, 3 NOLOSS). -/
def State.gateClose (s : State) (i : Nat) (t : W32) (reason : Nat) : State :=
  let x := s.lossSlot i
  let s := s.setLossSlot i { x with
    step := t, state := 3, reason := BitVec.ofNat 2 reason, nfacc := 0, closed := satInc x.closed 1 }
  let s := s.raise (0x30F + reason) srcDieM i x.dom t.toNat
  let s := s.countDie 4 0x43 0 1
  let s := s.domainMsix x.dom 3
  let c := fld x.cfg1 48 41
  if x.dom ≠ 0 && decide ((s.core c).domain = x.dom) then s.pendVec c 39 else s

/-- R395, R396: a store of t to LMON_DECIDE. -/
def State.decideStore (s : State) (i : Nat) (t : W32) : State :=
  let x := s.lossSlot i
  if !bit x.cfg1 40 || (x.state == 2 && x.step == t) then s
  else if x.cfgErr || x.state != 1 || x.step != t then s.gateClose i t 3
  else if x.spike then s.gateClose i t 1
  else if fld x.cfg1 39 16 < x.nfacc.toNat then s.gateClose i t 2
  else s.setLossSlot i { x with state := 2, reason := 0, nfacc := 0 }

/-- DECIDE_STORE (R396). -/
def execDecideStore (slot : Fin 256) (step : BitVec 32) (s : State) : Out := .next (s.decideStore slot.val step)

/-- R401: CFG1.RESET zeroes MEAN, VAR and NSAMP. -/
def State.lossReset (s : State) (i : Nat) : State :=
  s.setLossSlot i { s.lossSlot i with mean := 0, var := 0, nsamp := 0 }

/-- LMON_RESET (R401). -/
def execLmonReset (slot : Fin 256) (s : State) : Out := .next (s.lossReset slot.val)

/-- R397: what an apply pass of step `t` finds at the gate. -/
inductive Gate where
  | waits | isOpen | closed
  deriving DecidableEq, Repr

/-- R397. -/
def State.gateOf (s : State) (i : Nat) (t : W32) : Gate :=
  let x := s.lossSlot i
  if !bit x.cfg1 40 then .isOpen
  else if x.step ≠ t then .waits
  else if x.state = 2 then .isOpen
  else if x.state = 3 then .closed
  else .waits

end Sys2Proof.Machine
end

