-- ==== Sys2Proof/Machine/Update.lean ====
section
/-! DEFINITION. The parameter update units: submission, the start checks, statistics and apply passes, completion, cancellation
(R367-R388, R402). -/

namespace Sys2Proof.Machine

/-! ### Units and queues -/

/-- Update unit `x`. -/
def State.updUnit (s : State) (x : Nat) : UpdUnit := tget UpdUnit.reset s.upd.units x

/-- Replace update unit `x`. -/
def State.setUpdUnit (s : State) (x : Nat) (u : UpdUnit) : State :=
  { s with upd := { s.upd with units := tset UpdUnit.reset s.upd.units x u } }

/-- Queue `q` of a unit. -/
def UpdUnit.queue (u : UpdUnit) (q : Nat) : UpdQueue := tget UpdQueue.reset u.queues q

/-- Replace queue `q` of unit `x`. -/
def State.setUpdQueue (s : State) (x q : Nat) (y : UpdQueue) : State :=
  let u := s.updUnit x
  s.setUpdUnit x { u with queues := tset UpdQueue.reset u.queues q y }

/-- Replace the head descriptor of a queue. -/
def State.setUpdHead (s : State) (x q : Nat) (it : UpdItem) : State :=
  let y := (s.updUnit x).queue q
  s.setUpdQueue x q { y with items := it :: y.items.drop 1 }

/-- The waiter party of a queue. -/
def updParty (x q : Nat) : WaitParty := .update (x * 16 + q)

/-- R370: a store to PUU_QSUBq by a core. -/
def State.qsub (s : State) (x q core : Nat) (value : W64) : State :=
  let y := (s.updUnit x).queue q
  if y.items.length ≥ 16 then (s.setUpdQueue x q { y with ovf := true }).raise 0x306 (srcStack x) q y.dom x
  else
    let n := y.done + BitVec.ofNat 32 y.items.length
    s.setUpdQueue x q { y with items := y.items ++ [UpdItem.queued n (fld value 56 7 * 128) core] }

/-- QSUB_SUBMIT (R370). -/
def execQsubSubmit (unit : Fin 16) (queue : Fin 16) (core : Fin 256) (value : BitVec 64) (s : State) : Out :=
  .next (if ((s.updUnit unit.val).queue queue.val).bound then s.qsub unit.val queue.val core.val value else s)

/-! ### Descriptor fields (R372-R374) -/

/-- CTRL. -/
def uCtrl (d : List Byte) : W64 := BitVec.ofNat 64 (leAt d 0 8)
/-- OP is the apply pass. -/
def uApply (d : List Byte) : Bool := fld (uCtrl d) 1 0 == 2
/-- SLOT. -/
def uSlot (d : List Byte) : Nat := fld (uCtrl d) 11 6
/-- GATE. -/
def uGate (d : List Byte) : Bool := bit (uCtrl d) 12
/-- LNK. -/
def uLnk (d : List Byte) : Bool := bit (uCtrl d) 13
/-- LSLOT. -/
def uLslot (d : List Byte) : Nat := fld (uCtrl d) 21 14
/-- FRZ. -/
def uFrz (d : List Byte) : Bool := bit (uCtrl d) 28
/-- The format code of the parameters. -/
def uPfmt (d : List Byte) : Nat := if bit (uCtrl d) 24 then 3 else 1
/-- The format code of the momentum. -/
def uMfmt (d : List Byte) : Nat := if bit (uCtrl d) 25 then 3 else 1
/-- The element size of the gradient. -/
def uGsize (d : List Byte) : Nat := match fld (uCtrl d) 27 26 with | 0 => 4 | 1 => 2 | _ => 16
/-- GANCH. -/
def uGanch (d : List Byte) : Int := toSigned 9 (fld (uCtrl d) 37 29)
/-- CANCH. -/
def uCanch (d : List Byte) : Int := toSigned 9 (fld (uCtrl d) 46 38)
/-- TANCH. -/
def uTanch (d : List Byte) : Int := toSigned 9 (fld (uCtrl d) 55 47)
/-- STEP. -/
def uStep (d : List Byte) : Nat := leAt d 8 4
/-- M. -/
def uM (d : List Byte) : Nat := leAt d 16 4
/-- N. -/
def uN (d : List Byte) : Nat := leAt d 20 4
/-- ROW0. -/
def uRow0 (d : List Byte) : Nat := leAt d 24 4
/-- MDIV. -/
def uMdiv (d : List Byte) : Nat := leAt d 28 4
/-- RSTR. -/
def uRstr (d : List Byte) : Nat := leAt d 96 4
/-- WAIT. -/
def uWait (d : List Byte) : W64 := BitVec.ofNat 64 (leAt d 104 8)
/-- SIGNAL. -/
def uSignal (d : List Byte) : W64 := BitVec.ofNat 64 (leAt d 112 8)
/-- SEED. -/
def uSeed (d : List Byte) : W64 := BitVec.ofNat 64 (leAt d 120 8)
/-- The size of a parameter. -/
def uPsize (d : List Byte) : Nat := fmtWidth (uPfmt d) / 8
/-- The size of a momentum. -/
def uMsize (d : List Byte) : Nat := fmtWidth (uMfmt d) / 8
/-- R374: A bank k, element i. -/
def uA (d : List Byte) (k i : Nat) : Nat := leAt d 56 8 + 4 * uM d * k + 4 * i
/-- R374: B bank k. -/
def uB (d : List Byte) (k : Nat) : Nat := leAt d 64 8 + 4 * uN d * k
/-- R374: CSUM bank k. -/
def uC (d : List Byte) (k : Nat) : Nat := leAt d 72 8 + 16 * uN d * k
/-- R374: TSUM bank k. -/
def uT (d : List Byte) (k : Nat) : Nat := leAt d 80 8 + 16 * k

/-- A tensor of the descriptor: byte offset of its base and element size; P, G and MOM. -/
def uRowAt (d : List Byte) (off size i : Nat) : Nat := leAt d off 8 + i * uRstr d * size

/-- R267, R268: WAIT and SIGNAL are well formed. -/
def waitSignalOk (w g : W64) : Bool :=
  fld w 1 0 != 3 && fld w 7 2 == 0 && fld w 31 24 == 0 && (fld w 1 0 != 0 || fld w 63 32 == 0) &&
  fld g 1 0 != 3 && fld g 7 2 == 0 && fld g 31 24 == 0 && fld g 63 48 == 0 &&
  (if fld g 1 0 = 1 then fld g 47 32 != 0 else fld g 47 32 == 0)

/-- R375 step 2. -/
def updStructOk (d : List Byte) : Bool :=
  let op := fld (uCtrl d) 1 0
  (op == 1 || op == 2) && fld (uCtrl d) 63 56 == 0 && fld (uCtrl d) 27 26 != 3 && zeroBytes d 12 4 && zeroBytes d 100 4 &&
  decide (1 ≤ uStep d) && decide (1 ≤ uM d) && decide (uM d ≤ 16777216) && decide (1 ≤ uN d) && decide (uN d ≤ 65536) &&
  decide (1 ≤ uMdiv d) && decide (uMdiv d < 2 ^ 31) && decide (1 ≤ uRstr d) && decide (uRstr d < 2 ^ 31) && decide (uN d ≤ uRstr d) &&
  waitSignalOk (uWait d) (uSignal d)

/-- R375 step 3. -/
def updAlignOk (d : List Byte) : Bool :=
  leAt d 32 8 % uPsize d == 0 && leAt d 40 8 % uGsize d == 0 && leAt d 48 8 % uMsize d == 0 && leAt d 56 8 % 4 == 0 &&
  leAt d 64 8 % 4 == 0 && leAt d 72 8 % 16 == 0 && leAt d 80 8 % 16 == 0 && (!uFrz d || leAt d 88 8 % 4 == 0)

/-- The box of P, G or MOM: bytes from row 0 to the end of the last row. -/
def uTensorLen (d : List Byte) (size : Nat) : Nat := ((uM d - 1) * uRstr d + uN d) * size

/-- R375 step 4: the boxes the descriptor's pass uses: (address, length). -/
def updBoxes (d : List Byte) : List (Nat × Nat) :=
  (if uApply d then [(leAt d 32 8, uTensorLen d (uPsize d)), (leAt d 48 8, uTensorLen d (uMsize d))] else []) ++
  [(leAt d 40 8, uTensorLen d (uGsize d)), (leAt d 56 8, 8 * uM d)] ++
  (if uN d = 1 then [] else
    (if uApply d then [(leAt d 64 8, 8 * uN d)] else []) ++ [(leAt d 72 8, 32 * uN d), (leAt d 80 8, 32)]) ++
  (if uFrz d then [(leAt d 88 8, (uM d + 7) / 8)] else [])

/-- R112, R120: a device right of a KIND with USE over an instance. -/
def devRightFault (s : State) (h : W128) (kind inst : Nat) : Option Nat :=
  match hullCheck4 s h 5 1 with
  | some c => some c
  | none => if hKind h = kind && decide (hInst h ≤ inst) && decide (inst < hInst h + hLen h) then none else some 0x0D

/-- The SIGNAL of a descriptor is one its queue's HS5 authorises. -/
def updSignalFault (s : State) (y : UpdQueue) (d : List Byte) : Option Nat :=
  if fld (uSignal d) 1 0 = 0 then none else localSyncFault s (tget 0 y.hs 5) rSIGNAL (fld (uSignal d) 23 8)

/-- R375 step 4: every hull the descriptor needs. -/
def updHullFault (s : State) (x : Nat) (y : UpdQueue) (d : List Byte) : Option Nat :=
  let mask := rREAD + rWRITE + rUNIT + if uApply d then 0 else rREDUCE
  match (updBoxes d).findSome? fun b => hullCheck s (tget 0 y.hs 1) 1 mask b.1 b.2 with
  | some c => some c
  | none =>
    match (if uApply d then devRightFault s (tget 0 y.hs 2) 5 (uSlot d) else none) with
    | some c => some c
    | none =>
      match (if (uApply d && uGate d) || uLnk d then devRightFault s (tget 0 y.hs 3) 6 (uLslot d) else none) with
      | some c => some c
      | none =>
        match devRightFault s (tget 0 y.hs 4) 4 x with
        | some c => some c
        | none =>
          match (if fld (uWait d) 1 0 = 2 then localSyncFault s (tget 0 y.hs 5) rWAIT (fld (uWait d) 23 8) else none) with
          | some c => some c
          | none => updSignalFault s y d

/-! ### Rules (R377, R378) -/

/-- R377: coefficient kn of a rule. -/
def ruleK (r : List Byte) (n : Nat) : Nat := leAt r (4 * (n - 1)) 4
/-- R377: mode bit `i`. -/
def ruleM (r : List Byte) (i : Nat) : Bool := (leAt r 48 1).testBit i

/-- The bytes of rule `r` of a unit. -/
def UpdUnit.rule (u : UpdUnit) (r : Nat) : List Byte :=
  (List.range 8).flatMap fun w => leBytes 8 (tget 0 u.rules (8 * r + w)).toNat

/-- R378: GO copies the stage into rule `r`. -/
def State.ruleCommit (s : State) (x r : Nat) : State :=
  let u := s.updUnit x
  let rules := (List.range 8).foldl (fun t w => tset 0 t (8 * r + w) (tget 0 u.stage w)) u.rules
  (s.setUpdUnit x { u with rules := rules }).raise 0x305 (srcStack x) r 0 x

/-- RULE_COMMIT (R378). -/
def execRuleCommit (unit : Fin 16) (rule : Fin 16) (s : State) : Out := .next (s.ruleCommit unit.val rule.val)

/-- PUU_NF_CLR (R399): CLR zeroes NAN and INF. -/
def execPuuNfClr (unit : Fin 16) (s : State) : Out :=
  .next (s.setUpdUnit unit.val { s.updUnit unit.val with nan := 0, infc := 0 })

/-! ### Completion (R386, R387) -/

/-- R399: the completion record. -/
def UpdItem.record (it : UpdItem) (status : Nat) : W64 :=
  BitVec.ofNat 64 (it.seq.toNat + status % 256 * 2 ^ 32 + fld (uCtrl it.desc) 1 0 * 2 ^ 40 +
    min (it.nan + it.infc) 1048575 * 2 ^ 42 + 2 ^ 63)

/-- The descriptors of `l` from the first that has not completed on; those before it leave the queue. -/
def afterCancelled (l : List UpdItem) : List UpdItem := l.dropWhile UpdItem.cancel

/-- R387: the head descriptor of a queue leaves it, and with it those behind it that cancellation has completed: DONE is the least number
not completed. -/
def UpdQueue.pop (y : UpdQueue) (it : UpdItem) : UpdQueue :=
  let rest := y.items.drop 1
  { y with items := afterCancelled rest, done := it.seq + 1 + BitVec.ofNat 32 (rest.length - (afterCancelled rest).length) }

/-- R387: what the completion of a descriptor of a queue does with a status, beside its place in the queue: counts, record, error,
commit, SIGNAL. -/
def State.updFinish (s : State) (x q : Nat) (it : UpdItem) (status : Nat) : State :=
  let u := s.updUnit x
  let y := u.queue q
  let n := it.nan + it.infc
  let u := { u with nan := satAdd 24 u.nan it.nan, infc := satAdd 24 u.infc it.infc }
  let y' := { y with err := y.err || decide (status ≠ 0), recs := tset 0 y.recs (it.seq.toNat % 16) (it.record status) }
  let s := s.setUpdUnit x { u with queues := tset UpdQueue.reset u.queues q y' }
  let s := if uLnk it.desc && decide (n ≠ 0) then s.lossAdd (uLslot it.desc) n else s
  let s := if n = 0 then s else s.raise 0x304 (srcStack x) n y.dom (x + q * 2 ^ 4)
  let s := if uApply it.desc && decide (status = 0) then
      { s with upd := { s.upd with commits := s.upd.commits ++ [(uSlot it.desc, BitVec.ofNat 32 (uStep it.desc))] } }
    else s
  let s := if status = 0 then s else s.pendVec it.core 36
  let g := uSignal it.desc
  if it.nosig then s else s.signal ⟨fld g 1 0, fld g 23 8, fld g 47 32, tget 0 y.hs 5⟩ status

/-- R387: the head descriptor of a queue completes with a status. -/
def State.updDone (s : State) (x q : Nat) (it : UpdItem) (status : Nat) : State :=
  (s.setUpdQueue x q (((s.updUnit x).queue q).pop it)).updFinish x q it status

/-- The SIGNAL of a descriptor that ends early is performed only where HS5 authorises it. -/
def State.updMuted (s : State) (x q : Nat) (it : UpdItem) : UpdItem :=
  { it with nosig := it.nosig || fld (uSignal it.desc) 1 0 == 3 || (updSignalFault s ((s.updUnit x).queue q) it.desc).isSome }

/-- A start check of the head fails: it completes at once; its SIGNAL only where HS5 authorises it. -/
def State.updFail (s : State) (x q : Nat) (it : UpdItem) (status : Nat) : State :=
  s.updDone x q (s.updMuted x q it) status

/-! ### Descriptor start (R371, R375) -/

/-- What trying a head comes to: it completed or began, or it waits. -/
structure UpdTry where
  st    : State
  acted : Bool
  deriving DecidableEq, Repr

/-- R375 step 8: translate every row of a tensor from row `m - fuel` on; `own` asks for the unit's own stack. -/
def State.updRows (s : State) (d : DomNo) (base stride n : Nat) (k : AccKind) (own : Option Nat) (m : Nat) : Nat → Option (Option Nat)
  | 0 => none
  | fuel + 1 =>
    match s.trRange d (base + (m - (fuel + 1)) * stride) n k with
    | .fault c _ _ => some (some c)
    | .pageIn _ => some none
    | .ok ps =>
      if ps.all fun p => (match regionOf p.1 with | .hbm st => own.all fun x => st == x | _ => false) then
        State.updRows s d base stride n k own m fuel
      else some (some 0x49)

/-- R375 step 8: the ranges that must translate: (base, stride, bytes, rows, write, own stack only). -/
def updRanges (d : List Byte) (r : List Byte) : List (Nat × Nat × Nat × Nat × Bool × Bool) :=
  let t (off size : Nat) (w : Bool) := (leAt d off 8, uRstr d * size, uN d * size, uM d, w, true)
  (if uApply d then [t 32 (uPsize d) true] else []) ++ [t 40 (uGsize d) false] ++
  (if uApply d && ruleM r 4 then [t 48 (uMsize d) true] else []) ++
  [(leAt d 56 8, 0, 8 * uM d, 1, !uApply d, true)] ++
  (if uFrz d then [(leAt d 88 8, 0, (uM d + 7) / 8, 1, false, true)] else []) ++
  (if uN d = 1 then []
   else (if uApply d then [(leAt d 64 8, 0, 8 * uN d, 1, bit (uCtrl d) 22, false)] else []) ++
    [(leAt d 72 8, 0, 32 * uN d, 1, !uApply d, false), (leAt d 80 8, 0, 32, 1, !uApply d, false)])

/-- R375 steps 8 and 9: none when the element phase may begin, `some none` while a page comes in, else the code. -/
def State.updPages (s : State) (x : Nat) (y : UpdQueue) (d r : List Byte) : Option (Option Nat) :=
  let dom := hSeal (tget 0 y.hs 1)
  match (updRanges d r).findSome? fun e =>
    s.updRows dom e.1 e.2.1 e.2.2.1 (if e.2.2.2.2.1 then .write else .read) (if e.2.2.2.2.2 then some x else none) e.2.2.2.1 e.2.2.2.1 with
  | some v => some v
  | none =>
    let g := uSignal d
    let sd := hSeal (tget 0 y.hs 5)
    let o := fld g 23 8
    let t := objType (s.objWord sd o)
    match fld g 1 0 with
    | 0 => none
    | 1 => if s.objExists sd o && (t == 0 || t == 1 || t == 3 || t == 4) then none else some (some 0x38)
    | _ => if s.objExists sd o && t == 2 then none else some (some 0x38)

/-- R375 step 5, R267: the WAIT of a head: none while it waits, else the failure code, 0 for none. -/
def State.updWait (s : State) (x q : Nat) (it : UpdItem) : State × Option Nat :=
  let w := uWait it.desc
  let v : W64 := BitVec.ofNat 64 (fld w 63 32)
  let d := hSeal (tget 0 ((s.updUnit x).queue q).hs 5)
  let o := fld w 23 8
  match fld w 1 0 with
  | 0 => (s, some 0)
  | 1 => (s, if seqDone (s.core it.core).acc.ddone (v.setWidth 32) then some 0 else none)
  | _ =>
    match s.waiterOf (updParty x q) with
    | some y =>
      match y.wait with
      | .released _ _ reset => (s.dropWaiter (updParty x q), some (if reset then 0x51 else 0))
      | _ => (s, none)
    | none =>
      if !s.objExists d o || objType (s.objWord d o) > 4 then (s, some 0x38)
      else
        let s := s.objFetch d o
        if waitHolds (s.objWord d o) v then (s, some 0) else (s.addWaiter ⟨updParty x q, d, o, .ywait v⟩, none)

/-- R375 steps 8 and 9 on a head; the rule is read here and the element phase begins. -/
def State.updStep8 (s : State) (x q : Nat) (it : UpdItem) : UpdTry :=
  let u := s.updUnit x
  let r := u.rule (fld (uCtrl it.desc) 5 2)
  match s.updPages x (u.queue q) it.desc r with
  | some none => ⟨s.setUpdHead x q { it with stage := 8 }, false⟩
  | some (some c) =>
    let s := if c = 0x49 then s.raise 0x302 (srcStack x) x (u.queue q).dom q else s
    ⟨s.updFail x q it c, true⟩
  | none =>
    let s := s.setUpdHead x q { it with stage := 9, rule := r }
    ⟨s.setUpdUnit x { s.updUnit x with runq := q, running := true }, true⟩

/-- R375 steps 6 and 7. -/
def State.updStep7 (s : State) (x q : Nat) (it : UpdItem) : UpdTry :=
  if uApply it.desc && uGate it.desc then
    match s.gateOf (uLslot it.desc) (BitVec.ofNat 32 (uStep it.desc)) with
    | .waits => ⟨s.setUpdHead x q { it with stage := 7 }, false⟩
    | .closed => ⟨s.updFail x q it 0x4A, true⟩
    | .isOpen => s.updStep8 x q it
  else s.updStep8 x q it

/-- R375 steps 5 and 6. -/
def State.updStep5 (s : State) (x q : Nat) (it : UpdItem) : UpdTry :=
  let w := s.updWait x q it
  match w.2 with
  | none => ⟨w.1.setUpdHead x q { it with stage := 5 }, false⟩
  | some 0 =>
    if uApply it.desc && decide (uStep it.desc ≠ (w.1.schedSlot (uSlot it.desc)).count.toNat) then
      ⟨(w.1.raise 0x301 (srcStack x) x ((w.1.updUnit x).queue q).dom q).updFail x q it 0x48, true⟩
    else w.1.updStep7 x q it
  | some c => ⟨w.1.updFail x q it c, true⟩

/-- R375 step 1: the descriptor's bytes, the code that failed, or none while its page comes in. -/
def State.updFetch (s : State) (y : UpdQueue) (addr : Nat) : Option (Sum Nat (State × List Byte)) :=
  let h := tget 0 y.hs 0
  match hullCheck s h 1 rREAD addr 128 with
  | some c => some (.inl c)
  | none =>
    match s.trRange (hSeal h) addr 128 .read with
    | .fault c _ _ => some (.inl c)
    | .pageIn _ => none
    | .ok ps =>
      if s.piecesWait ps then none
      else if ps.all fun p => isMemory p.1 then some (.inr (s.piecesRead ps 0 false)) else some (.inl 0x02)

/-- R375: try the head of a queue from the step it has reached. -/
def State.updTry (s : State) (x q : Nat) (it : UpdItem) : UpdTry :=
  let y := (s.updUnit x).queue q
  match it.stage with
  | 0 =>
    match s.updFetch y it.addr with
    | none => ⟨s, false⟩
    | some (.inl c) => ⟨s.updDone x q { it with nosig := true } c, true⟩
    | some (.inr r) =>
      let it := { it with desc := r.2 }
      let s := r.1.setUpdHead x q it
      if !updStructOk it.desc then ⟨(s.raise 0x302 (srcStack x) x y.dom q).updFail x q it 0x49, true⟩
      else if !updAlignOk it.desc then ⟨s.updFail x q it 0x02, true⟩
      else
        match updHullFault s x y it.desc with
        | some c => ⟨s.updFail x q it c, true⟩
        | none => s.updStep5 x q it
  | 5 => s.updStep5 x q it
  | 7 => s.updStep7 x q it
  | _ => s.updStep8 x q it

/-- R371: the unit tries the heads of its queues in ascending order after the one it served last, until one acts. -/
def State.updStart (s : State) (x : Nat) : State :=
  if (s.updUnit x).running then s
  else
    ((List.range 16).foldl (fun (t : UpdTry) i =>
      if t.acted then t
      else
        let q := ((t.st.updUnit x).runq + 1 + i) % 16
        match ((t.st.updUnit x).queue q).items with
        | [] => t
        | it :: _ => t.st.updTry x q it) ⟨s, false⟩).st

/-! ### Element phases (R379-R385) -/

/-- Read `n` bytes at `va` of a domain at home. -/
def State.updRead (s : State) (d : DomNo) (va n : Nat) : State × List Byte :=
  match s.trRange d va n .read with
  | .ok ps => (s.piecesRead ps 0 false)
  | _ => (s, List.replicate n 0)

/-- Write bytes at `va` of a domain at home. -/
def State.updWrite (s : State) (d : DomNo) (va : Nat) (b : List Byte) : State :=
  match s.trRange d va b.length .write with
  | .ok ps => s.piecesWrite ps b 0 false
  | _ => s

/-- Reduce WX128 elements into memory at `va` (R380). -/
def State.updReduce (s : State) (d : DomNo) (va : Nat) (b : List Byte) : State :=
  match s.trRange d va b.length .write with
  | .ok ps =>
    (ps.foldl (fun (a : State × List Byte) p =>
      (a.1.reduceRange (p.2.1 / 128 + 2) p.1 .addWx (a.2.take p.2.1), a.2.drop p.2.1)) (s, b)).1
  | _ => s

/-- R273, R383: clamp to [lo, hi]. -/
def fvClamp (x lo hi : Fv) : Fv := (x.max lo).min hi

/-- R379: a gradient element as FP32, scaled and clamped if GCLAMP: the converted value and the value used. -/
def updGrad (d r : List Byte) (b : List Byte) (j : Nat) : Nat × Nat :=
  let g := match fld (uCtrl d) 27 26 with
    | 0 => toF32 (fvOf 1 (leAt b (4 * j) 4))
    | 1 => toF32 (fvOf 3 (leAt b (2 * j) 2))
    | _ => wxToF32 (uGanch d) (BitVec.ofNat 128 (leAt b (16 * j) 16))
  (g, if ruleM r 6 then toF32 (fvClamp (f32 (f32Mul (ruleK r 11) g)) (f32 (ruleK r 12)).neg (f32 (ruleK r 12))) else g)

/-- R386: an element whose shown values are not all finite counts: as NaN when one of them, or a value on the way to them, is. -/
def UpdItem.note (it : UpdItem) (l way : List Fv) : UpdItem :=
  if !l.any Fv.nonFinite then it
  else if (l ++ way).contains .nan then { it with nan := it.nan + 1 }
  else { it with infc := it.infc + 1 }

/-- R385: the row is frozen. -/
def State.updFrozen (s : State) (dom : DomNo) (d : List Byte) (i : Nat) : State × Bool :=
  if uFrz d then
    let r := s.updRead dom (leAt d 88 8 + i / 8) 1
    (r.1, (leNat r.2).testBit (i % 8))
  else (s, false)

/-- R379: one unfrozen row of a statistics pass. -/
def State.statsRow (s : State) (x : Nat) (dom : DomNo) (it : UpdItem) (i : Nat) : State × UpdItem :=
  let d := it.desc
  let r := it.rule
  let k := uStep d % 2
  let n := uN d
  let b := s.updRead dom (uRowAt d 40 (uGsize d) i) (n * uGsize d)
  let gs := (List.range n).map (updGrad d r b.2)
  let k3 := f32 (ruleK r 3)
  let put (w : W128) (g : Nat) : W128 := wxAdd (uCanch d) (wxAdd (uCanch d) w ((f32 g).mul (f32 g))) k3
  let rs := gs.foldl (fun w g => put w g.2) 0
  let flags : W128 := setFld rs 119 0 0
  let csum := if n = 1 then it.csum
    else (gs.mapIdx fun j g => (j, g.2)).foldl (fun t e => tset 0 t e.1 (put (tget 0 t e.1) e.2 ||| flags)) it.csum
  let xm := f32Div (f32 (wxToF32 (uCanch d) rs)) (fvNat n)
  let a := b.1.updRead dom (uA d (1 - k) i) 4
  let anew := f32Fma (ruleK r 1) (leNat a.2) (f32Mul (ruleK r 2) xm)
  let s := a.1.updWrite dom (uA d k i) (leBytes 4 anew)
  let s := (s.countDie (x / 4) 0x0C (x % 4) (n / 2)).countDie (x / 4) 0x0C (x % 4) (n - n / 2)
  let it := gs.foldl (fun it g => it.note [f32 g.1] []) it
  let it := it.note [f32 anew] []
  (s, { it with csum := csum, tsum := if n = 1 then it.tsum else wxAdd (uTanch d) it.tsum (f32 anew) })

/-- R383: the values of one element of an apply pass: mnew, pnew, those whose being non-finite counts (R386: the gradient, u, what is
written), and the others on the way. -/
structure UpdElem where
  mnew : Nat
  pnew : Nat
  seen : List Fv
  way  : List Fv
  deriving DecidableEq, Repr

/-- A square root whose error lies below every FP32 quantity, with a sticky bit (R383). -/
def Fv.sqrtWide : Fv → Fv
  | .fin false m e =>
    let odd := e % 2 = 1
    let y := (if odd then 2 * m else m) * 2 ^ 512
    let r := isqrt y 320 0
    .fin false (2 * r + b2n (decide (r * r ≠ y))) (((if odd then e - 1 else e) - 512) / 2 - 1)
  | v => v.sqrt

/-- R383: sign. -/
def fvSign : Fv → Fv
  | .nan => .nan
  | .inf neg => .ofInt (if neg then -1 else 1)
  | .fin neg m _ => if m = 0 then .fin false 0 0 else .ofInt (if neg then -1 else 1)

/-- R383: one element; each line rounds once. -/
def updElem (r : List Byte) (it : UpdItem) (one : Bool) (g0 g m p a bn : Nat) : UpdElem :=
  let k (n : Nat) : Fv := f32 (ruleK r n)
  let mnew := if ruleM r 4 then toF32 (((k 4).mul (f32 m)).add ((k 5).mul (f32 g))) else 0
  let num := toF32 (((f32 it.q).mul (f32 mnew)).add ((k 7).mul (f32 g)))
  let v := if one then a else f32Div ((f32 a).mul (f32 bn)) (f32 it.mean)
  let den := if ruleM r 0 then toF32 ((((f32 it.c2).mul (f32 v)).sqrtWide).add (k 8)) else one32
  let sgn := ruleM r 1
  let u := if sgn then toF32 (fvSign (((k 6).mul (f32 mnew)).add ((k 7).mul (f32 g)))) else f32Div (f32 num) (f32 den)
  let u0 := u
  let u := if ruleM r 5 then toF32 (fvClamp (f32 u) (k 9).neg (k 9)) else u
  let d := if ruleM r 7 then toF32 (((k 10).mul (f32 p)).add (f32 u)) else u
  let pnew := toF32 (((f32 it.eta).neg.mul (f32 d)).add (f32 p))
  let way := if sgn then [] else [num] ++ if ruleM r 0 then [v, den] else []
  ⟨mnew, pnew, [g0, mnew, u0, u, pnew].map f32, ([g, d] ++ way).map f32⟩

/-- R384: a value as written, with the rounding that RND selects. -/
def updEnc (d : List Byte) (fmt i j word v : Nat) : Nat :=
  let rnd : Rnd := if bit (uCtrl d) 23 then .sr (philox (uSeed d) j (uRow0 d + i) (uStep d) word) else .rne
  fvEnc fmt false rnd (f32 v)

/-- Only infinities and NaN of a value as written matter to its count (R386). -/
def writtenFv (fmt x : Nat) : Fv := match fvOf fmt x with | .nan => .nan | .inf b => .inf b | .fin b _ _ => .fin b 0 0

/-- R383: one unfrozen row of an apply pass. -/
def State.applyRow (s : State) (x : Nat) (dom : DomNo) (it : UpdItem) (i : Nat) : State × UpdItem :=
  let d := it.desc
  let r := it.rule
  let n := uN d
  let mom := ruleM r 4
  let gb := s.updRead dom (uRowAt d 40 (uGsize d) i) (n * uGsize d)
  let mb := if mom then gb.1.updRead dom (uRowAt d 48 (uMsize d) i) (n * uMsize d) else (gb.1, [])
  let pb := mb.1.updRead dom (uRowAt d 32 (uPsize d) i) (n * uPsize d)
  let ab := pb.1.updRead dom (uA d (uStep d % 2) i) 4
  let a := leNat ab.2
  let es := (List.range n).map fun j =>
    let g := updGrad d r gb.2 j
    let m := if mom then toF32 (fvOf (uMfmt d) (leAt mb.2 (uMsize d * j) (uMsize d))) else 0
    let p := toF32 (fvOf (uPfmt d) (leAt pb.2 (uPsize d * j) (uPsize d)))
    let e := updElem r it (decide (n = 1)) g.1 g.2 m p a (tget 0 it.bnew j)
    (updEnc d (uPfmt d) i j 2 e.pnew, updEnc d (uMfmt d) i j 3 e.mnew, e)
  let s := ab.1.updWrite dom (uRowAt d 32 (uPsize d) i) (es.flatMap fun e => leBytes (uPsize d) e.1)
  let s := if mom then s.updWrite dom (uRowAt d 48 (uMsize d) i) (es.flatMap fun e => leBytes (uMsize d) e.2.1) else s
  let s := (s.countDie (x / 4) 0x0C (x % 4) (n / 2)).countDie (x / 4) 0x0C (x % 4) (n - n / 2)
  (s, es.foldl (fun it e =>
    it.note ([writtenFv (uPfmt d) e.1] ++ (if mom then [writtenFv (uMfmt d) e.2.1] else []) ++ e.2.2.seen) e.2.2.way) it)

/-- R382: what an apply pass computes once: bias corrections, momentum factor, rate, mean and column statistics. -/
def State.applyBegin (s : State) (dom : DomNo) (it : UpdItem) : State × UpdItem :=
  let d := it.desc
  let r := it.rule
  let t := uStep d
  let k := t % 2
  let n := uN d
  let corr (on : Bool) (kn : Nat) : Nat := if on then f32Div (f32 one32) (f32 (f32Sub one32 (f32Pow kn t))) else one32
  let it := { it with
    begun := true, c2 := corr (ruleM r 3) (ruleK r 1), q := f32Mul (ruleK r 6) (corr (ruleM r 2) (ruleK r 4)),
    eta := (s.schedSlot (uSlot d)).eta.toNat }
  if n = 1 then (s, it)
  else
    let tb := s.updRead dom (uT d k) 16
    let bb := tb.1.updRead dom (uB d (1 - k)) (4 * n)
    let cb := bb.1.updRead dom (uC d k) (16 * n)
    let mean := f32Div (f32 (wxToF32 (uTanch d) (BitVec.ofNat 128 (leNat tb.2)))) (fvNat (uMdiv d))
    let bn := (List.range n).map fun j =>
      let c := wxToF32 (uCanch d) (BitVec.ofNat 128 (leAt cb.2 (16 * j) 16))
      f32Fma (ruleK r 1) (leAt bb.2 (4 * j) 4) (f32Div (f32 (f32Mul (ruleK r 2) c)) (fvNat (uMdiv d)))
    let s := if bit (uCtrl d) 22 then cb.1.updWrite dom (uB d k) (bn.flatMap (leBytes 4)) else cb.1
    (s, { it with mean := mean, bnew := (bn.mapIdx fun j v => (j, v)).foldl (fun t e => tset 0 t e.1 e.2) [] })

/-- R380: the sums of a statistics pass go to their home slices, columns in blocks of at most 8,192. -/
def State.statsReduce (s : State) (dom : DomNo) (it : UpdItem) : State :=
  let d := it.desc
  let k := uStep d % 2
  if uN d = 1 then s
  else
    let s := (List.range ((uN d + 8191) / 8192)).foldl (fun s b =>
      let cnt := min 8192 (uN d - 8192 * b)
      s.updReduce dom (uC d k + 16 * 8192 * b) ((List.range cnt).flatMap fun j => leBytes 16 (tget 0 it.csum (8192 * b + j)).toNat)) s
    s.updReduce dom (uT d k) (leBytes 16 it.tsum.toNat)

/-- Handle up to `rows` further rows of the running pass with `row`, skipping frozen ones (R385). -/
def State.updRowsRun (row : State → UpdItem → Nat → State × UpdItem) (dom : DomNo) : Nat → State → UpdItem → State × UpdItem
  | 0, s, it => (s, it)
  | rows + 1, s, it =>
    if it.row ≥ uM it.desc then (s, it)
    else
      let f := s.updFrozen dom it.desc it.row
      let r := if f.2 then (f.1, { it with frozen := it.frozen + 1 }) else row f.1 it it.row
      State.updRowsRun row dom rows r.1 { r.2 with row := it.row + 1 }

/-- R385: event 0x303 counts skipped rows, in occurrences of at most 65,535. -/
def State.raiseFrozen (s : State) (x : Nat) (dom : DomNo) : Nat → Nat → State
  | 0, _ => s
  | fuel + 1, n =>
    if n = 0 then s
    else ((s.raiseN 0x303 (srcStack x) x (min n 65535) dom 0).countDie (x / 4) 0x0D (x % 4) (min n 65535)).raiseFrozen x dom fuel (n - 65535)

/-- One command's worth of rows of the descriptor that unit `x` runs, if it is a pass of the given kind. -/
def State.updPass (s : State) (x rows : Nat) (apply : Bool) : State :=
  let u := s.updUnit x
  let y := u.queue u.runq
  match y.items with
  | [] => s
  | it :: _ =>
    if !u.running || it.stage ≠ 9 || uApply it.desc != apply then s
    else
      let dom := hSeal (tget 0 y.hs 1)
      let b := if apply && !it.begun then s.applyBegin dom it else (s, it)
      let r := State.updRowsRun (fun s it i => if apply then s.applyRow x dom it i else s.statsRow x dom it i) dom rows b.1
        { b.2 with frozen := 0 }
      let s := r.1.raiseFrozen x y.dom 512 r.2.frozen
      let it := r.2
      if it.row ≥ uM it.desc then
        let s := if apply then s else s.statsReduce dom it
        s.setUpdHead x u.runq { it with stage := 10 }
      else s.setUpdHead x u.runq it

/-! ### Cancellation (R402) -/

/-- R402: a descriptor of a queue is cancelled: it completes with FLT_CANCELLED and keeps its place in the order of the queue. A descriptor
not yet read is read for its SIGNAL, where HS0 still allows it. -/
def State.updCancelOne (s : State) (x q : Nat) (it : UpdItem) : State :=
  let y := (s.updUnit x).queue q
  let r : State × UpdItem :=
    if it.stage = 0 then
      match s.updFetch y it.addr with
      | some (.inr r) => (r.1, r.1.updMuted x q { it with desc := r.2 })
      | _ => (s, { it with nosig := true })
    else (s, s.updMuted x q it)
  r.1.updFinish x q r.2 0x50

/-- R156, R402: the descriptors of a queue that `p` picks are cancelled, in sequence order; a running one stops at its row. Those at the
head leave the queue; one behind another leaves it when that has completed. -/
def State.updCancelWhere (s : State) (x q : Nat) (p : UpdItem → Bool) : State :=
  let u := s.updUnit x
  let y := u.queue q
  let p (it : UpdItem) : Bool := p it && !it.cancel
  let head := (y.items.head?.map p).getD false
  let s := if u.running && u.runq == q && head then s.setUpdUnit x { u with running := false } else s
  let s := if head then s.dropWaiter (updParty x q) else s
  let s := (y.items.filter p).foldl (fun s it => s.updCancelOne x q it) s
  let items := y.items.map fun it => if p it then { it with cancel := true } else it
  let rest := afterCancelled items
  s.setUpdQueue x q { (s.updUnit x).queue q with
    items := rest, done := ((s.updUnit x).queue q).done + BitVec.ofNat 32 (items.length - rest.length) }

/-- R402: every descriptor of a queue is cancelled. -/
def State.updCancelQueue (s : State) (x q : Nat) : State := s.updCancelWhere x q fun _ => true

/-- R369: a queue is unbound: its descriptors are cancelled and its hull slots emptied. -/
def State.updUnbind (s : State) (x q : Nat) : State :=
  let s := s.updCancelQueue x q
  s.setUpdQueue x q { (s.updUnit x).queue q with bound := false, dom := 0, hs := [] }

/-- R135, R156: the update-unit descriptors that core `c` submitted, to whichever queue, are cancelled. -/
def State.cancelCoreUpdates (s : State) (c : Nat) : State :=
  (List.range 16).foldl (fun s x => (List.range 16).foldl (fun s q => s.updCancelWhere x q fun it => decide (it.core = c)) s) s

/-- UPD_HEAD_START (R371, R375). `e` is what the check codes of memory find. -/
def execUpdHeadStart (unit : Fin 16) (e : ErrMap) (s : State) : Out := .next (s.finding e fun s => s.updStart unit.val)

/-- UPD_STATS_PASS (R379-R381): the next `rows` rows; after the last row the sums go out. -/
def execUpdStatsPass (unit : Fin 16) (rows : BitVec 25) (e : ErrMap) (s : State) : Out :=
  .next (s.finding e fun s => s.updPass unit.val rows.toNat false)

/-- UPD_APPLY_PASS (R382-R385): the next `rows` rows; before the first, what is computed once. -/
def execUpdApplyPass (unit : Fin 16) (rows : BitVec 25) (e : ErrMap) (s : State) : Out :=
  .next (s.finding e fun s => s.updPass unit.val rows.toNat true)

/-- UPD_DESC_COMPLETE (R387). -/
def execUpdDescComplete (unit : Fin 16) (s : State) : Out :=
  .next (
    let x := unit.val
    let u := s.updUnit x
    match (u.queue u.runq).items with
    | [] => s
    | it :: _ =>
      if u.running && it.stage == 10 then (s.setUpdUnit x { u with running := false }).updDone x u.runq it it.status else s)

end Sys2Proof.Machine
end

