-- ==== Sys2Proof/Machine/FaultOps.lean ====
section
/-! DEFINITION. Taking a fault or an interrupt, the double and third fault, and leaving a shadow bank
(chapter 06): the one shared way into and out of a handler. -/

namespace Sys2Proof.Machine

/-- R147: the vector a fault code enters; none for a status code, which never enters a vector, and for a code that is not listed. -/
def vectorOf : Nat → Option Nat
  | 0x01 => some 0
  | 0x02 => some 1
  | 0x03 | 0x04 => some 2
  | 0x08 | 0x09 | 0x0A | 0x0B | 0x0C | 0x0D | 0x0E | 0x0F => some 3
  | 0x10 | 0x11 | 0x12 | 0x13 => some 4
  | 0x14 => some 5
  | 0x18 | 0x19 | 0x1A | 0x1B => some 6
  | 0x1C => some 7
  | 0x20 | 0x21 => some 8
  | 0x24 => some 9
  | 0x28 | 0x29 | 0x2A => some 10
  | 0x30 => some 11
  | 0x38 => some 12
  | 0x40 | 0x41 | 0x42 => some 13
  | _ => none

/-- R153: the FLT_CAUSE word. -/
def causeWord (code vector level kind : Nat) (fromS1 callee : Bool) (dom prevCode prevVector : Nat) : W64 :=
  BitVec.ofNat 64 (code % 256 + vector % 64 * 2 ^ 8 + level % 4 * 2 ^ 14 + kind % 4 * 2 ^ 16 + b2n fromS1 * 2 ^ 18 +
    b2n callee * 2 ^ 19 + dom % 4096 * 2 ^ 20 + prevCode % 256 * 2 ^ 32 + prevVector % 64 * 2 ^ 40)

/-- R150: the level of a fault vector; 0 for a fault raised in a callee domain. -/
def State.faultLevel (s : State) (w : Site) (vector : Nat) : Nat :=
  let k := s.core w.core.val
  if (s.strand w).dom = k.domain then fld k.int.flevel (2 * vector + 1) (2 * vector) else 0

/-- R149: the strand's mask holds a level: only in S0, in the core's own domain, with MASKED set. -/
def State.maskHolds (s : State) (w : Site) (level : Nat) : Bool :=
  let t := s.strand w
  decide (t.cur = .s0) && decide (t.dom = (s.core w.core.val).domain) && bit t.smask 2 && decide (level ≤ fld t.smask 1 0)

/-- R119, R141, R142: what the first fetch of a handler at `pc` under code hull `h` meets. -/
inductive HandlerFetch where
  | ok
  | fault (code level : Nat)
  | pageIn
  deriving DecidableEq, Repr

/-- R119: the first fetch of a handler. -/
def State.handlerFetch (s : State) (h : W128) (pc : VAddr) : HandlerFetch :=
  match hullCheck s h 1 rEXEC pc.toNat 4 with
  | some c => .fault c 0
  | none =>
    match s.translate (hSeal h) pc.toNat .fetch with
    | .fault c l => .fault c l
    | .pageIn => .pageIn
    | .ok _ _ => .ok

/-- The banked items a shadow bank starts with: a copy with its loop registers cleared (R100, R151). -/
def Bank.shadow (b : Bank) (pc : VAddr) : Bank := { b with pc := pc, lc := 0, lstart := 0, lend := 0 }

/-- R192, R222, R259, R295: tile, array, accumulator and stream state at reset; the error registers and parity flags are kept. -/
def Core.resetUnits (k : Core) : Core :=
  { k with
    tiles := [], mats := tmap MatArray.reset (fun m => { MatArray.reset with perr := m.perr }) k.mats, vals := [],
    acc := { AccUnit.reset with ecc := k.acc.ecc }, str := { StreamUnit.reset with ecc := k.str.ecc } }

/-- R156 step 3: every strand HALTED and reset, the units reset, L1 invalid, pending interrupts cleared; routing, levels and the
timer are kept. -/
def Core.resetStrands (k : Core) : Core :=
  { (k.resetUnits).cancelStreams with
    strands := [], last := 7, ibufs := [], l1d := [], l1i := [], tlb := [], cpy := { CopyUnit.reset with specc := k.cpy.specc },
    int := { k.int with ipend := 0 } }

/-- R134: the core reports idle. -/
def State.coreIdle (s : State) (c : Nat) : State :=
  let d := (s.core c).domain
  (s.raise 0x208 (srcCore c) d d 0).domainMsix d 4

/-- R156: a third fault resets the core: its work is cancelled, its strands reset, events 0x20A and 0x208
recorded, vector 45 raised in the domain's other cores, and the domain revoked if its policy says so. A third fault in a
domain being revoked does nothing (R163). -/
def State.thirdFault (s : State) (w : Site) (codes : Nat × Nat × Nat) : State :=
  let c := w.core.val
  let d := (s.core c).domain
  if (s.dom d).state != 1 then s
  else
    let s := (s.cancelCoreCopies c).cancelCoreUpdates c
    let s := s.dropCoreWaiters c
    let s := s.modCore c Core.resetStrands
    let s := s.raise 0x20A (srcCore c) codes.1 d
      (codes.1 % 256 + codes.2.1 % 256 * 2 ^ 8 + codes.2.2 % 256 * 2 ^ 16 + w.strand.val * 2 ^ 24)
    let s := s.domainMsix d 4
    let s := s.pendAll ((s.dom d).cores.filter fun x => decide (x ≠ c)) 45
    let s := s.coreIdle c
    if (s.dom d).revokeOn3 then s.wantRevoke d else s

/-- R156: the three codes of event 0x20A of a strand in S2 whose third fault has code `third`: the code before S2's own (S1's, or
that of the fault whose entry to S1 failed; with neither 0, and S2's own comes first), S2's, the third (log entry 13). -/
def Strand.thirdCodes (t : Strand) (third : Nat) : Nat × Nat × Nat :=
  let before := if bit t.r2.cause 18 then fld t.r2.cause 39 32 else t.r2.first
  let code := fld t.r2.cause 7 0
  if before = 0 then (code, third, 0) else (before, code, third)

/-- R94: what the strand's instruction buffer holds is discarded. -/
def State.dropBuf (s : State) (w : Site) : State :=
  s.modCore w.core.val fun k => { k with ibufs := tset [] k.ibufs w.strand.val [] }

/-- R151 step 2 for S1: the banked items are copied, the record written, FLT_FTIME sampled; S1 is live and runs (R144). -/
def Strand.beginS1 (t : Strand) (callee : Bool) (e : EntryReq) (now : W64) : Strand :=
  let cause := causeWord e.code e.vector e.level e.kind false callee t.dom 0 0
  { t with
    b1 := t.bank.shadow t.bank.pc, r1 := ⟨cause, t.bank.pc, t.bank.pc, e.addr, e.info, now, 0⟩,
    live1 := true, cur := .s1, park := .none, gather := false, mdrain := none }

/-- R151 step 2 for S2. `first` is the code of the fault whose entry to S1 failed. -/
def Strand.beginS2 (t : Strand) (callee : Bool) (e : EntryReq) (first : Nat) (now : W64) : Strand :=
  let cause := causeWord e.code e.vector e.level e.kind t.live1 callee t.dom
    (if t.live1 then fld t.r1.cause 7 0 else 0) (if t.live1 then fld t.r1.cause 13 8 else 0)
  { t with
    b2 := t.bank.shadow t.bank.pc, r2 := ⟨cause, t.bank.pc, t.bank.pc, e.addr, e.info, now, first⟩,
    live2 := true, cur := .s2, park := .none, gather := false, mdrain := none }

/-- R152: an entry to S1 is abandoned: S1 is not live and S0 is as it was. -/
def Strand.abandonS1 (t : Strand) : Strand :=
  { t with b1 := Bank.reset, r1 := FaultRec.reset, live1 := false, cur := .s0, park := .none }

/-- R151 step 4: the handler's address is known: its first fetch is checked, and the handler runs. -/
def State.startHandler (s : State) (w : Site) (pc : VAddr) : State := (s.setPc w pc).park w .none

/-- R151 step 4 for S2: the double-fault handler's first fetch; a failing one is a third fault (R156). -/
def State.handleS2 (s : State) (w : Site) (e : EntryReq) (pc : VAddr) : State :=
  let t := s.strand w
  match s.handlerFetch (t.bank.readH 15) pc with
  | .fault c _ => s.thirdFault w (t.thirdCodes c)
  | .pageIn => s.park w (.entry e (some pc))
  | .ok => s.startHandler w pc

/-- R151, R155: enter S2; the handler address is HUL_DFPC of the strand's current domain. Every entry records event 0x20B, one that a
missing handler turns into a third fault too (DESIGN CHOICE, log entry 13). `first` is the code of the fault whose entry to S1 failed. -/
def State.enterS2 (s : State) (w : Site) (e : EntryReq) (first : Nat) : State :=
  let t := s.strand w
  let df := (s.dom t.dom).dfpc
  let callee := decide (t.dom ≠ (s.core w.core.val).domain)
  let s := (s.dropBuf w).count w.core.val 0x05 w.strand.val 1
  let s := s.raise 0x20B (srcCore w.core.val) e.vector t.dom (e.code + w.strand.val * 2 ^ 8 + e.kind * 2 ^ 11)
  let s := s.modStrand w fun t => t.beginS2 callee e first (s.timeOf (w.core.val / 64))
  if bit df 0 then s.handleS2 w e (BitVec.ofNat 57 (fld df 56 2 * 4)) else s.thirdFault w ((s.strand w).thirdCodes 0x10)

/-- R151 step 3: the vector entry as a load of the strand's core: an L1D hit or the home, with buffered stores laid
over it; a miss fills the line. -/
def State.vectorRead (s : State) (c pa : Nat) : State × W64 :=
  let k := s.core c
  match l1Find k.l1d 8 pa with
  | some i =>
    (s.setCore c { k with l1d := l1Hit k.l1d i },
     BitVec.ofNat 64 (leNat (overlay k.wbuf pa (l1Bytes k.l1d i pa 8))))
  | none =>
    let line := pa / 128 * 128
    if isHbm pa then
      let r := s.readMem line 128
      (r.1.modCore c fun k => { k with l1d := l1Install k.l1d 8 pa 1 r.2 },
        BitVec.ofNat 64 (leNat (overlay k.wbuf pa (bytesAt r.2 (pa % 128) 8))))
    else
      let r := s.readMem pa 8
      (r.1, BitVec.ofNat 64 (leNat (overlay k.wbuf pa r.2)))

/-- R152: a fault during entry to S1: that entry is abandoned and S2 is entered with kind 3. -/
def State.entryFails (s : State) (w : Site) (e : EntryReq) (code : Nat) (addr info : W64) : State :=
  (s.modStrand w Strand.abandonS1).enterS2 w ⟨code, e.vector, e.level, 3, addr, info⟩ e.code

/-- R151 step 4, R152: the handler's first fetch. -/
def State.handleS1 (s : State) (w : Site) (e : EntryReq) (pc : VAddr) : State :=
  match s.handlerFetch ((s.strand w).bank.readH 15) pc with
  | .fault c l => s.entryFails w e c (pc64 pc) (infoWord (some 15) none l false true false)
  | .pageIn => s.park w (.entry e (some pc))
  | .ok => (s.startHandler w pc).count w.core.val (if e.kind = 1 then 0x04 else 0x05) w.strand.val 1

/-- R151 step 3, R152: the vector entry is read in the current domain's tables; a page that is not resident parks the strand until it
is (R142). -/
def State.readVector (s : State) (w : Site) (e : EntryReq) : State :=
  let d := (s.strand w).dom
  let vb := (s.dom d).vbase
  let va := fld vb 56 9 * 512 + 8 * e.vector
  if !bit vb 0 then s.entryFails w e 0x10 0 0
  else
    match s.translate d va .read with
    | .fault c l => s.entryFails w e c (BitVec.ofNat 64 va) (infoWord none none l false false true)
    | .pageIn => s.park w (.entry e none)
    | .ok pa _ =>
      let r := s.vectorRead w.core.val pa
      if !bit r.2 0 || bit r.2 1 || decide (fld r.2 63 57 ≠ 0) then
        r.1.entryFails w e 0x10 (BitVec.ofNat 64 va) (infoWord none none 0 false false true)
      else r.1.handleS1 w e (BitVec.ofNat 57 (fld r.2 56 2 * 4))

/-- R151: enter S1 for a fault (kind 0) or an interrupt (kind 1). -/
def State.enterS1 (s : State) (w : Site) (e : EntryReq) : State :=
  let callee := decide ((s.strand w).dom ≠ (s.core w.core.val).domain)
  ((s.dropBuf w).modStrand w fun t => t.beginS1 callee e (s.timeOf (w.core.val / 64))).readVector w e

/-- R142, R151: an entry that waited for a page goes on with the step it stands at. -/
def State.resumeEntry (s : State) (w : Site) (e : EntryReq) (handler : Option VAddr) : State :=
  match handler, (s.strand w).cur with
  | none, _ => s.readVector w e
  | some pc, .s2 => s.handleS2 w e pc
  | some pc, _ => s.handleS1 w e pc

/-- R110: entry waits for the strand's outstanding accesses. -/
def Strand.owesData (t : Strand) : Bool := t.miss.isSome || t.miss2.isSome || !t.spLoads.isEmpty

/-- R91: how a strand waits for its outstanding accesses: parked on a miss; a load of another scratchpad, which is no miss (R97), leaves
it merely not ready. -/
def Strand.dataPark (t : Strand) : Park := if t.miss.isSome then .missReg else .none

/-- R151-R156: the strand at `w` takes a synchronous fault at its present pc. A code that enters no vector (R147) is no fault. -/
def State.takeFault (s : State) (w : Site) (f : Flt) : State :=
  let t := s.strand w
  match vectorOf f.code with
  | none => s
  | some vector =>
    if t.owesData then s.park w t.dataPark
    else
      let e : EntryReq := ⟨f.code, vector, s.faultLevel w vector, 0, f.addr, f.info⟩
      match t.cur with
      | .s0 => if s.maskHolds w e.level then s.enterS2 w { e with kind := 2 } 0 else s.enterS1 w e
      | .s1 => s.enterS2 w e 0
      | .s2 => s.thirdFault w (t.thirdCodes f.code)

/-- R161: vector 32 + i is deliverable to strand `st` of core `c`. -/
def State.deliverable (s : State) (c st i : Nat) : Bool :=
  let k := s.core c
  let t := k.strand st
  let route := if i < 16 then k.int.iroute0 else k.int.iroute1
  bit k.int.ipend i && bit route (4 * (i % 16) + 3) && t.running && s.podRuns c && decide (t.cur = .s0) && decide (t.dom = k.domain) &&
    !(bit t.smask 2 && decide (fld k.int.ilevel (2 * i + 1) (2 * i) ≤ fld t.smask 1 0))

/-- R161: the strand a pending vector goes to: its routed strand, or, when that one is HALTED, the lowest RUNNING
strand that can take it. -/
def State.vectorStrand (s : State) (c i : Nat) : Option Nat :=
  let k := s.core c
  let route := if i < 16 then k.int.iroute0 else k.int.iroute1
  let st := fld route (4 * (i % 16) + 2) (4 * (i % 16))
  if (k.strand st).running then (if s.deliverable c st i then some st else none)
  else (List.range 8).find? fun x => s.deliverable c x i

/-- R162: the vector index the strand takes: highest level, then lowest number. -/
def State.nextVector (s : State) (w : Site) : Option Nat :=
  let k := s.core w.core.val
  if k.int.ipend = 0 then none
  else (List.range 32).foldl (fun best i =>
    if s.vectorStrand w.core.val i = some w.strand.val then
      match best with
      | none => some i
      | some j => if fld k.int.ilevel (2 * j + 1) (2 * j) < fld k.int.ilevel (2 * i + 1) (2 * i) then some i else best
    else best) none

end Sys2Proof.Machine
end

