-- ==== Sys2Proof/Machine/Issue.lean ====
section
/-! DEFINITION. Issue: what every instruction does around its own effect: readiness, the fetch checks, the
instruction buffer, the end-of-loop step, and taking its fault (R90, R91, R93, R94, R99, R110, R119). -/

namespace Sys2Proof.Machine

/-- A register an instruction reads or writes, for R91's operand readiness. -/
inductive RegRef where
  | g (r : Nat)
  | v (r : Nat)
  | h (r : Nat)
  deriving DecidableEq, Repr

/-- The register an outstanding access will write. -/
def MissDest.reg : MissDest → Option RegRef
  | .greg r _ _ => if r = 0 then none else some (.g r)
  | .vreg r => some (.v r)
  | .hreg r => some (.h r)
  | .amo r _ _ _ _ => if r = 0 then none else some (.g r)
  | .gather => none
  | .hcall _ => none

/-- One of some accesses writes a register of a list. -/
def awaitedBy (l : List Miss) (uses : List RegRef) : Bool :=
  l.any fun m =>
    match m.dest.reg with
    | some r => uses.contains r
    | none => false

/-- R91: an operand awaits the data of a miss of the strand. -/
def Strand.awaitsMiss (t : Strand) (uses : List RegRef) : Bool := awaitedBy (t.miss.toList ++ t.miss2.toList) uses

/-- R91: an operand awaits an outstanding access of the strand: a miss, or a load of another core's scratchpad. -/
def Strand.awaits (t : Strand) (uses : List RegRef) : Bool := t.awaitsMiss uses || awaitedBy t.spLoads uses

/-- What an instruction's own effect amounts to. -/
inductive Res where
  /-- The instruction completes; the strand goes on to the next instruction. -/
  | done (s : State)
  /-- A control transfer to `pc`. -/
  | jump (s : State) (pc : VAddr)
  /-- A precise fault. -/
  | fault (s : State) (f : Flt)
  /-- The instruction has issued and has itself set where the strand goes on, or waits. -/
  | hold (s : State)
  /-- The instruction has not issued: the strand is not ready, and is parked for the reason given (R91). -/
  | wait (p : Park)
  /-- An MDRAIN with this drain word and this seed has issued, and parks the strand for its checks (R233, R240). -/
  | issued (p : Park) (word seed : W64)

/-- What fetching the strand's next instruction finds (R93, R119). -/
inductive Fetch where
  | ok (pa : Nat)
  | fault (f : Flt)
  | park (p : Park)
  deriving DecidableEq, Repr

/-- R94: the instructions that strand `st` of a core has buffered, the next one first. -/
def Core.ibuf (k : Core) (st : Nat) : List (VAddr × W32) := tget [] k.ibufs st

/-- R94: the strand's next instruction is in its buffer. -/
def State.buffered (s : State) (w : Site) : Bool :=
  match (s.core w.core.val).ibuf w.strand.val with
  | x :: _ => decide (x.1 = s.pcOf w)
  | [] => false

/-- R119: authorise and find the instruction at the strand's pc: hull check, translation, then the instruction buffer or L1I. -/
def State.fetchAt (s : State) (w : Site) : Fetch :=
  let b := s.bank w
  let h := b.readH 15
  match hullCheck s h 1 rEXEC b.pc.toNat 4 with
  | some c => .fault (fltA c b.pc.toNat 15 0 false true)
  | none =>
    match s.strandTr w.core.val (hSeal h) b.pc.toNat .fetch with
    | .walk => .park (.walk (hSeal h) b.pc.toNat .fetch 15)
    | .pageIn => .park (.pageIn (hSeal h) b.pc.toNat)
    | .fault c l => .fault (fltA c b.pc.toNat 15 l false true)
    | .ok pa _ =>
      if s.buffered w || (l1Find (s.core w.core.val).l1i 4 pa).isSome then .ok pa else .park (.l1i pa)

/-- R91, R162: the strand is RUNNING, not parked, takes no interrupt first, its next instruction is present, and no operand awaits an
outstanding access. -/
def State.canIssue (s : State) (w : Site) (uses : List RegRef) : Bool :=
  let t := s.strand w
  t.running && decide (t.park = .none) && (s.nextVector w).isNone &&
    (match s.fetchAt w with | .ok _ => true | _ => false) && !t.awaits uses

/-- R93, R94: the buffer of a strand whose instruction at `b.pc` is to be fetched next, filled from L1I in program order up to 4
instructions: fetch ends at a control transfer, at the end of the code hull, at a page whose translation is not cached and at a line
that L1I does not hold. Every fetch is a hit of its line (R332). -/
def State.fetchOn (s : State) (w : Site) : Nat → Bank → Table L1Line → List (VAddr × W32) → Table L1Line × List (VAddr × W32)
  | 0, _, l, q => (l, q)
  | n + 1, b, l, q =>
    let h := b.readH 15
    if (hullCheck s h 1 rEXEC b.pc.toNat 4).isSome then (l, q)
    else
      match s.strandTr w.core.val (hSeal h) b.pc.toNat .fetch with
      | .ok pa _ =>
        match l1Find l 4 pa with
        | some i =>
          let x : W32 := BitVec.ofNat 32 (leNat (l1Bytes l i pa 4))
          let q := q ++ [(b.pc, x)]
          if isTransfer x then (l1Hit l i, q) else s.fetchOn w n b.advance (l1Hit l i) q
        | none => (l, q)
      | _ => (l, q)

/-- R94: the bank as it stands when the instructions of a buffer have executed. -/
def Bank.past (b : Bank) (q : List (VAddr × W32)) : Bank := q.foldl (fun b _ => b.advance) b

/-- R93: fetch has stopped at the last instruction of a buffer. -/
def fetchStopped (q : List (VAddr × W32)) : Bool :=
  match q.getLast? with
  | some x => isTransfer x.2
  | none => false

/-- R94: the strand's buffer takes what L1I holds of the instructions that follow. -/
def State.refill (s : State) (w : Site) : State :=
  let k := s.core w.core.val
  let q := k.ibuf w.strand.val
  if fetchStopped q then s
  else
    let r := s.fetchOn w (4 - q.length) ((s.bank w).past q) k.l1i q
    s.setCore w.core.val { k with l1i := r.1, ibufs := tset [] k.ibufs w.strand.val r.2 }

/-- The bookkeeping of an issue: the strand issued last (R90), the event counts, the instruction's L1I hit if its buffer did not hold
it; it leaves the buffer. -/
def State.noteIssue (s : State) (w : Site) (pa : Nat) : State :=
  let q := (s.core w.core.val).ibuf w.strand.val
  let b := s.buffered w
  let s := s.modCore w.core.val fun k =>
    { k with
      last := w.strand.val, ibufs := tset [] k.ibufs w.strand.val (if b then q.drop 1 else []),
      l1i := (match if b then none else l1Find k.l1i 4 pa with | some i => l1Hit k.l1i i | none => k.l1i) }
  s.count w.core.val 0x01 w.strand.val 1

/-- A strand that is not ready is parked for a reason of R91's second table, or is simply not ready. A walk and an L1I miss count as
they start (R509). -/
def State.parkFor (s : State) (w : Site) (p : Park) : State :=
  match p with
  | .none => s
  | .l1i _ => (s.park w p).count w.core.val 0x12 w.strand.val 1
  | .walk _ _ _ _ => (s.park w p).count w.core.val 0x15 w.strand.val 1
  | _ => s.park w p

/-- What follows an instruction's own effect. `s0` is the state before the issue. -/
def State.settle (s0 : State) (w : Site) : Res → State
  | .done s => (s.retire w).refill w
  | .jump s pc => (((s.dropBuf w).setPc w pc).count w.core.val 0x03 w.strand.val 1).refill w
  | .fault s f => s.takeFault w f
  | .hold s => s
  | .wait p => s0.parkFor w p
  | .issued p word seed => (s0.modStrand w fun t => { t with mdrain := some (word, seed) }).parkFor w p

/-- R90, R91, R93, R110, R119: issue one instruction of strand `w`, which the wave has chosen (log entry 5). A strand that is HALTED or
parked issues nothing, nor does one that a pending interrupt comes to first (R162); a failing fetch faults or parks; an operand that
awaits a miss parks the strand, and one that awaits a load of another scratchpad leaves it not ready. -/
def State.issue (s : State) (w : Site) (uses : List RegRef) (body : State → Res) : State :=
  let t := s.strand w
  if !t.running || decide (t.park ≠ .none) || !s.podRuns w.core.val || (s.nextVector w).isSome then s
  else
    match s.fetchAt w with
    | .fault f => s.takeFault w f
    | .park p => s.parkFor w p
    | .ok pa =>
      if t.awaitsMiss uses then s.park w .missReg
      else if t.awaits uses then s
      else s.settle w (body (s.noteIssue w pa))

/-- R131: the strand's current domain is not its core's domain. -/
def State.inCallee (s : State) (w : Site) : Bool := decide ((s.strand w).dom ≠ (s.core w.core.val).domain)

/-- A unit instruction of R131: it faults with FLT_CALL_UNIT in a callee. -/
def State.unitBody (s : State) (w : Site) (r : Res) : Res := if s.inCallee w then .fault s (flt 0x1B) else r

/-- Sign-extended immediate as a 64-bit word (R107). -/
def sext64 {n : Nat} (x : BitVec n) : W64 := x.signExtend 64

/-- A branch or jump target: PC + offset x 4 (R108), modulo 2^57. -/
def State.target {n : Nat} (s : State) (w : Site) (off : BitVec n) : VAddr :=
  s.pcOf w + (off.signExtend 57) * 4

/-- The low 57 bits of a word with bits [1:0] cleared: a jump target (R108). -/
def toPc (x : W64) : VAddr := (x.setWidth 57) &&& ~~~3

end Sys2Proof.Machine
end

