-- ==== Sys2Proof/Machine/Operands.lean ====
section
/-! DEFINITION. The operand forms of the scalar and short-vector instructions (R107, R108) and the integer
arithmetic they share (R92, R109). -/

namespace Sys2Proof.Machine

/-- R108: a shift amount: bits [5:0]. -/
def shamt (x : W64) : Nat := x.toNat % 64

/-- Bits [127:64] of a 128-bit product. -/
def highHalf (p : Int) : W64 := BitVec.ofInt 64 (p / 2 ^ 64)

/-- R109: DIV. -/
def divS (x y : W64) : W64 :=
  if y = 0 then BitVec.allOnes 64 else BitVec.ofInt 64 (x.toInt.tdiv y.toInt)

/-- R109: DIVU. -/
def divU (x y : W64) : W64 := if y = 0 then BitVec.allOnes 64 else BitVec.ofNat 64 (x.toNat / y.toNat)

/-- R109: REM. -/
def remS (x y : W64) : W64 := if y = 0 then x else BitVec.ofInt 64 (x.toInt.tmod y.toInt)

/-- R109: REMU. -/
def remU (x y : W64) : W64 := if y = 0 then x else BitVec.ofNat 64 (x.toNat % y.toNat)

/-- R108: LUI's value: sign-extend(imm20 << 12). -/
def upperImm (imm : BitVec 20) : W64 := (imm.signExtend 64) <<< 12

/-- R form: g_d takes f(g_a, g_b). -/
def opR (w : Site) (d a b : RegField) (f : W64 → W64 → W64) (s : State) : Out :=
  .next (s.issue w [.g d.toNat, .g a.toNat, .g b.toNat] fun s => .done (s.setG w d (f (s.g w a) (s.g w b))))

/-- R form of one source: g_d takes f(g_a). -/
def opU (w : Site) (d a : RegField) (f : W64 → W64) (s : State) : Out :=
  .next (s.issue w [.g d.toNat, .g a.toNat] fun s => .done (s.setG w d (f (s.g w a))))

/-- I form: g_d takes f(g_a, sign-extended imm15). -/
def opI (w : Site) (d a : RegField) (imm : BitVec 15) (f : W64 → W64 → W64) (s : State) : Out :=
  .next (s.issue w [.g d.toNat, .g a.toNat] fun s => .done (s.setG w d (f (s.g w a) (sext64 imm))))

/-- I form of a shift: imm[14:6] must be 0, else FLT_ILLEGAL (R108). -/
def opShift (w : Site) (d a : RegField) (imm : BitVec 15) (f : W64 → Nat → W64) (s : State) : Out :=
  .next (s.issue w [.g d.toNat, .g a.toNat] fun s =>
    if imm.toNat ≥ 64 then .fault s (flt 0x01) else .done (s.setG w d (f (s.g w a) imm.toNat)))

end Sys2Proof.Machine
end

