-- ==== Sys2Proof/Machine/Control.lean ====
section
/-! DEFINITION. Branches, jumps, hardware loops, strand registers and the system operations: major opcodes
0x20-0x2C (R87-R89, R95, R99, R100, R108, R153, R186). -/

namespace Sys2Proof.Machine

/-- A conditional branch (R95, R108). -/
def branch (w : Site) (a b : RegField) (off : BitVec 15) (cond : W64 → W64 → Bool) (s : State) : Out :=
  .next (s.issue w [.g a.toNat, .g b.toNat] fun s =>
    if cond (s.g w a) (s.g w b) then .jump s (s.target w off) else .done s)

/-- BEQ. -/
def execBeq (w : Site) (a b : RegField) (off : BitVec 15) (s : State) : Out := branch w a b off (fun x y => x == y) s
/-- BNE. -/
def execBne (w : Site) (a b : RegField) (off : BitVec 15) (s : State) : Out := branch w a b off (fun x y => x != y) s
/-- BLT, signed. -/
def execBlt (w : Site) (a b : RegField) (off : BitVec 15) (s : State) : Out := branch w a b off (fun x y => x.slt y) s
/-- BGE, signed. -/
def execBge (w : Site) (a b : RegField) (off : BitVec 15) (s : State) : Out := branch w a b off (fun x y => !x.slt y) s
/-- BLTU. -/
def execBltu (w : Site) (a b : RegField) (off : BitVec 15) (s : State) : Out := branch w a b off (fun x y => x.ult y) s
/-- BGEU. -/
def execBgeu (w : Site) (a b : RegField) (off : BitVec 15) (s : State) : Out := branch w a b off (fun x y => !x.ult y) s

/-- JAL: g_d takes PC + 4; PC takes PC + off x 4 (R108). -/
def execJal (w : Site) (d : RegField) (off : BitVec 20) (s : State) : Out :=
  .next (s.issue w [.g d.toNat] fun s => .jump (s.setG w d (pc64 (s.pcOf w + 4))) (s.target w off))

/-- JALR: g_d takes PC + 4; PC takes (g_a + imm) with bits [1:0] cleared (R108). -/
def execJalr (w : Site) (d a : RegField) (imm : BitVec 15) (s : State) : Out :=
  .next (s.issue w [.g d.toNat, .g a.toNat] fun s =>
    .jump (s.setG w d (pc64 (s.pcOf w + 4))) (toPc (s.g w a + sext64 imm)))

/-- LOOP (R99): LEN 0 is reserved; LC not 0 faults with FLT_LOOP; a zero count skips the body. -/
def execLoop (w : Site) (a : RegField) (len : BitVec 15) (s : State) : Out :=
  .next (s.issue w [.g a.toNat] fun s =>
    let b := s.bank w
    if len = 0 then .fault s (flt 0x01)
    else if b.lc ≠ 0 then .fault s (flt 0x04)
    else
      let lend := b.pc + 4 * len.setWidth 57
      let s' := s.modBank w fun b => { b with lstart := b.pc + 4, lend := lend, lc := s.g w a }
      if s.g w a = 0 then .jump s' (lend + 4) else .done s')

/-- LBRK (R100): LC becomes 0 and control goes to PC + off x 4; field d must be 0. -/
def execLbrk (w : Site) (d : RegField) (off : BitVec 20) (s : State) : Out :=
  .next (s.issue w [] fun s =>
    if d ≠ 0 then .fault s (flt 0x01)
    else .jump (s.modBank w fun b => { b with lc := 0 }) (s.target w off))

/-! ### Strand registers (R87, R153, R168, R186) -/

/-- R186: the TILE_TSTART word. -/
def tstartWord (x : TileGroup) : W64 :=
  let busy := match x.xfer with | some _ => 2 ^ 11 | none => 0
  match x.held with
  | some h => BitVec.ofNat 64 (h.row % 64 + 2 ^ 6 + h.holder % 8 * 2 ^ 7 + b2n h.store * 2 ^ 10 + busy + h.tile % 16 * 2 ^ 12)
  | none => BitVec.ofNat 64 busy

/-- The SID word (R87). -/
def sidWord (w : Site) : W64 :=
  BitVec.ofNat 64 (w.strand.val + w.core.val * 2 ^ 3 + dieOfCore w.core.val * 2 ^ 11 + podOfCore w.core.val * 2 ^ 13 +
    groupOf w.strand.val * 2 ^ 18 + b2n (decide (w.core.val % 8 = 0)) * 2 ^ 19)

/-- The STRANDS word (R87): RUN and PARKED. PARKED of a HALTED strand reads 0, as at reset (DESIGN CHOICE, log entry 124). -/
def strandsWord (k : Core) : W64 :=
  BitVec.ofNat 64 ((List.range 8).foldl (fun n i =>
    n + b2n (k.strand i).running * 2 ^ i + b2n (decide ((k.strand i).park ≠ .none)) * 2 ^ (8 + i)) 0)

/-- The record of the running bank; zero in S0 (R153). -/
def Strand.rec? (t : Strand) : FaultRec :=
  match t.cur with
  | .s0 => FaultRec.reset
  | .s1 => t.r1
  | .s2 => t.r2

/-- The running bank's number and the live bits (R153). -/
def bankWord (t : Strand) : W64 :=
  BitVec.ofNat 64 ((match t.cur with | .s0 => 0 | .s1 => 1 | .s2 => 2) + b2n t.live1 * 4 + b2n t.live2 * 8)

/-- R254: ACC_DSTAT. -/
def dstatWord (a : AccUnit) : W64 :=
  BitVec.ofNat 64 (a.ddone.toNat + a.queue.length % 8 * 2 ^ 32 + b2n (!a.clears.isEmpty) * 2 ^ 35)

/-- R87: read a strand register; none for a reserved number. -/
def State.strandReg (s : State) (w : Site) (n : Nat) : Option W64 :=
  let t := s.strand w
  let b := t.bank
  let gr := s.group w.core.val (groupOf w.strand.val)
  match n with
  | 0x00 => some (pc64 b.pc)
  | 0x01 => some b.lc
  | 0x02 => some (pc64 b.lstart)
  | 0x03 => some (pc64 b.lend)
  | 0x04 => some b.gprog
  | 0x05 => some (sidWord w)
  | 0x06 => some (strandsWord (s.core w.core.val))
  | 0x40 => some (tstartWord gr)
  | 0x41 => some (match gr.held with | some h => pc64 h.thpc | none => 0)
  | 0x60 => some (s.core w.core.val).acc.seed
  | 0x61 => some (dstatWord (s.core w.core.val).acc)
  | 0x80 => some (if s.inCallee w then 0 else t.smask.setWidth 64)
  | 0x81 => some (bankWord t)
  | 0x82 => some t.rec?.cause
  | 0x83 => some (pc64 t.rec?.fpc)
  | 0x84 => some (pc64 t.rec?.rpc)
  | 0x85 => some t.rec?.addr
  | 0x86 => some t.rec?.info
  | 0x87 => some t.rec?.ftime
  | 0x88 => some (s.dom t.dom).vbase
  | 0x89 => some (s.dom t.dom).dfpc
  | _ => if 0x48 ≤ n && decide (n ≤ 0x57) then some ((tget 0 gr.cfg (n - 0x48)).setWidth 64) else none

/-- R87: the strand registers WRSR may write: LC, GPROG, ACC_DRAIN_SEED, FLT_SMASK, FLT_RPC. Reserved bits are not stored. FLT_RPC
is dropped while S0 runs, which has no record (DESIGN CHOICE, log entry 128). -/
def State.setStrandReg (s : State) (w : Site) (n : Nat) (x : W64) : Option State :=
  match n with
  | 0x01 => some (s.modBank w fun b => { b with lc := x })
  | 0x04 => some (s.modBank w fun b => { b with gprog := x &&& 0x7FFFFFFFFFFFFF3F })
  | 0x60 => some (s.modCore w.core.val fun k => { k with acc := { k.acc with seed := x } })
  | 0x80 => some (if s.inCallee w then s else s.modStrand w fun t => { t with smask := x.setWidth 3 })
  | 0x84 => some (s.modStrand w fun t =>
      match t.cur with
      | .s0 => t
      | .s1 => { t with r1 := { t.r1 with rpc := toPc x } }
      | .s2 => { t with r2 := { t.r2 with rpc := toPc x } })
  | _ => none

/-- RDSR: g_d takes strand register imm[7:0]; a and imm[14:8] must be 0 (R87, R108). -/
def execRdsr (w : Site) (d a : RegField) (imm : BitVec 15) (s : State) : Out :=
  .next (s.issue w [.g d.toNat] fun s =>
    if a ≠ 0 || imm.toNat ≥ 256 then .fault s (flt 0x01)
    else match s.strandReg w imm.toNat with
      | none => .fault s (flt 0x01)
      | some x => .done (s.setG w d x))

/-- WRSR: strand register imm[7:0] takes g_a; d and imm[14:8] must be 0 (R87, R108). -/
def execWrsr (w : Site) (d a : RegField) (imm : BitVec 15) (s : State) : Out :=
  .next (s.issue w [.g a.toNat] fun s =>
    if d ≠ 0 || imm.toNat ≥ 256 then .fault s (flt 0x01)
    else match s.setStrandReg w imm.toNat (s.g w a) with
      | none => .fault s (flt 0x01)
      | some s' => .done s')

/-! ### System operations -/

/-- NOP (R108). -/
def execNop (w : Site) (s : State) : Out := .next (s.issue w [] fun s => .done s)

/-- R157: a strand's tile hold ends without completion: TSTART returns to 0. -/
def State.dropHold (s : State) (w : Site) : State :=
  let i := groupOf w.strand.val
  let gr := s.group w.core.val i
  match gr.held with
  | some h => if h.holder = w.strand.val then s.setGroup w.core.val i { gr with held := none } else s
  | none => s

/-- R89: what HALT leaves of a strand: HALTED, in S0, no shadow bank, no call frame. -/
def Strand.halted (t : Strand) (dom : DomNo) : Strand :=
  { t with
    running := false, cur := .s0, live1 := false, live2 := false, r1 := FaultRec.reset, r2 := FaultRec.reset,
    frames := [], dom := dom }

/-- HALT (R89): after the strand's outstanding accesses deliver, it is HALTED; when no strand of the core runs the core
reports idle (R134). A tile hold of the strand ends (R157). -/
def execHalt (w : Site) (d a b : RegField) (s : State) : Out :=
  .next (s.issue w [] fun s =>
    if d ≠ 0 || a ≠ 0 || b ≠ 0 then .fault s (flt 0x01)
    else if (s.strand w).owesData then .wait (s.strand w).dataPark
    else
      let s := s.dropHold w
      let s := s.modStrand w fun t => t.halted (s.core w.core.val).domain
      if (List.range 8).any fun i => ((s.core w.core.val).strand i).running then .hold s
      else .hold (s.coreIdle w.core.val))

/-- R88: the state of a started strand. FLT_SMASK, which no rule names here, is kept, by HALT too (DESIGN CHOICE, log entry 125). -/
def Strand.started (t : Strand) (pc : VAddr) (h : Table W128) (dom : DomNo) : Strand :=
  { t with
    running := true, cur := .s0, b0 := { Bank.reset with pc := pc, h := h }, live1 := false, live2 := false,
    frames := [], dom := dom, park := .none }

/-- STRST (R88): start strand g_a[2:0] at g_b with copies of h0-h15, so it waits for any of these that an outstanding HLD writes. A
callee takes FLT_CALL_UNIT, a RUNNING target FLT_STRAND; where both apply the model raises FLT_CALL_UNIT (DESIGN CHOICE, log entry 126). -/
def execStrst (w : Site) (a b : RegField) (s : State) : Out :=
  .next (s.issue w ([.g a.toNat, .g b.toNat] ++ (List.range 16).map .h) fun s =>
    let w' : Site := ⟨w.core, Fin.ofNat 8 (s.g w a).toNat⟩
    s.unitBody w (
      if (s.strand w').running then .fault s (flt 0x03)
      else .done ((s.dropBuf w').modStrand w' fun t => t.started (toPc (s.g w b)) (s.bank w).h (s.core w.core.val).domain)))

/-- RDTIME: g_d takes TIME (R46, R47). -/
def execRdtime (w : Site) (d : RegField) (s : State) : Out :=
  .next (s.issue w [.g d.toNat] fun s => .done (s.setG w d (s.timeOf (w.core.val / 64))))

end Sys2Proof.Machine
end

