-- ==== Sys2Proof/Machine/Access.lean ====
section
/-! DEFINITION. The checks and effects every strand memory access shares: translation with parking, outstanding
misses, the write-through buffer (R91, R96-R98, R300). -/

namespace Sys2Proof.Machine

/-- Translate an access of strand `w`: a walk or a page-in parks the strand, a translation fault is raised, and
otherwise `k` goes on with the physical address and leaf (R91, R96 step 3, R141, R142). -/
def State.onPage (s : State) (w : Site) (d : DomNo) (va : Nat) (kind : AccKind) (hreg : Nat)
    (k : Nat → W64 → State → Res) : Res :=
  match s.strandTr w.core.val d va kind with
  | .walk => .wait (.walk d va kind hreg)
  | .pageIn => .wait (.pageIn d va)
  | .fault c l => .fault s (fltA c va hreg l kind.isWrite false)
  | .ok pa leaf => k pa leaf s

/-- R97: an access that counts as a miss: it becomes the outstanding miss, or is accepted as the second miss and the
strand parks until the first delivers. The store data it must see is captured now (R98). -/
def State.startMiss (s : State) (w : Site) (pa size : Nat) (dest : MissDest) (fill par : Bool) : Res :=
  let t := s.strand w
  let k := s.core w.core.val
  let m : Miss := ⟨pa, size, dest, forwarded k.wbuf pa size, k.serial, fill, par⟩
  let s := s.count w.core.val 0x11 w.strand.val 1
  match t.miss with
  | none => .done (s.modStrand w fun t => { t with miss := some m })
  | some _ =>
    match t.miss2 with
    | none =>
      .done ((s.modStrand w fun t => { t with miss2 := some m, park := .secondMiss }).count w.core.val 0x14 w.strand.val 1)
    | some _ => .wait .secondMiss

/-- R98, R331: a store takes a buffer entry at issue and updates a present L1D line, which an HST (`hull`) bypasses; with 4 entries of
the strand, or 16 of the core, it is not ready. -/
def State.pushStore (s : State) (w : Site) (pa : Nat) (b : List Byte) (hull : Bool) : Res :=
  let k := s.core w.core.val
  if (k.wbuf.filter fun e => decide (e.strand = w.strand.val)).length ≥ 4 || k.wbuf.length ≥ 16 then .wait .none
  else
    .done ((s.setCore w.core.val { k with
      wbuf := k.wbuf ++ [⟨w.strand.val, k.serial, pa, b, (s.strand w).dom, hull⟩],
      serial := k.serial + 1,
      l1d := if isHbm pa && !hull then l1Store k.l1d pa b else k.l1d }).count w.core.val 0x16 w.strand.val 1)

/-- Extend a loaded value to 64 bits (R108). -/
def extend (bytes : Nat) (signed : Bool) (x : Nat) : W64 :=
  if signed then BitVec.ofInt 64 (toSigned (8 * bytes) x) else BitVec.ofNat 64 x

/-- Write loaded bytes to their destination register. -/
def State.deliver (s : State) (w : Site) (d : MissDest) (b : List Byte) : State :=
  match d with
  | .greg r n sg => s.modBank w fun k => k.writeG r (extend n sg (leNat b))
  | .vreg r => s.modBank w fun k => k.writeV r (BitVec.ofNat 128 (leNat b))
  | .hreg r => s.modBank w fun k => k.writeH r (BitVec.ofNat 128 (leNat b))
  | _ => s

/-- A strand parked on a miss is released (R91). -/
def Strand.missRelease (t : Strand) : Strand :=
  match t.park with
  | .missReg => { t with park := .none }
  | .secondMiss => { t with park := .none }
  | .fill => { t with park := .none }
  | _ => t

/-- R97: the outstanding miss has delivered: the second one becomes outstanding, and the strand goes on. -/
def State.missEnds (s : State) (w : Site) : State :=
  s.modStrand w fun t => ({ t with miss := t.miss2, miss2 := none } : Strand).missRelease

/-- R321, R322, R327: fill `i` of the core's stream fills in flight arrives: one read at the home slice, the line installed as a streaming
fill, and the demand misses that merged with it deliver. -/
def State.fillArrives (s : State) (c i : Nat) : State :=
  match (s.core c).pfills[i]? with
  | none => s
  | some f =>
    let s := s.modCore c fun k => { k with pfills := k.pfills.eraseIdx i }
    let line := f.pa / 128 * 128
    let r := s.homeRead line 128 f.hint f.pin f.chaff
    if f.l2 then r.1
    else
      let s := if f.install && (l1Find (r.1.core c).l1d 8 line).isNone then
          r.1.modCore c fun k => { k with l1d := l1Install k.l1d 8 line 3 (overlay k.wbuf line r.2) }
        else r.1
      (List.range 8).foldl (fun s st =>
        let w := site c st
        match (s.strand w).miss with
        | some m =>
          if m.fill && decide (lineOf m.pa = lineOf line) then
            (s.deliver w m.dest (applyFwd m.fwd (bytesAt r.2 (m.pa % 128) m.size))).missEnds w
          else s
        | none => s) s

end Sys2Proof.Machine
end

