-- ==== Sys2Proof/Machine/Matrix.lean ====
section
/-! DEFINITION. Matrix arrays: MWLD and its validation, weight shift and activation, MMA and MMAQ, passes and their results
(chapter 08; R59-R75). -/

namespace Sys2Proof.Machine

/-! ### Operand fit (R196-R198) -/

/-- R65: the class of an operand: 0 narrow float, 1 integer, 2 half, 3 single, 4 double. -/
def operandClass (fmt : Nat) (tbl : Bool) : Nat :=
  match fmt with
  | 0 => 4
  | 1 => 3
  | 2 => 2
  | 3 => 2
  | 9 => if tbl then 2 else 0
  | 10 => 1
  | 11 => 1
  | 12 => 1
  | _ => 0

/-- R65: the pair is listed. -/
def pairOk (a w : Nat) : Bool := a == w || (a == 0 && w == 2) || (a == 2 && w == 0)

/-- R65: the slot mode suits the pair: anchored, or for two halves also ordered FP32, for single FP32, for double FP64. -/
def pairMode (a w mode : Nat) : Bool :=
  if a = 4 then mode == 3 else if a = 3 then mode == 2 else if a == 2 && w == 2 then mode == 1 || mode == 2 else mode == 1

/-- R196: the tile count of a weight operand. -/
def weightSpan (fmt : Nat) : Nat := if fmt = 0 then 4 else if fmt = 1 then 2 else 1

/-- R196: the tile count of an activation operand against weights that are sparse or not. -/
def actSpan (fmt : Nat) (sparse : Bool) : Nat :=
  if fmt = 0 then 4 else if fmt = 1 then 2 else if sparse && (fmt == 2 || fmt == 3) then 2 else 1

/-- R196: `p` consecutive tiles from `t` form one operand. -/
def State.spanOk (s : State) (c g t p : Nat) : Bool :=
  let x := s.tcfgWord c g t
  t % p == 0 && t + p ≤ 16 && (List.range p).all fun i =>
    let y := s.tcfgWord c g (t + i)
    cfgV y && cfgRole y == 0 && cfgRows y == cfgRows x && cfgFmt y == cfgFmt x && (p == 1 || cfgBpr y == 128) &&
    (i == 0 || (!cfgMetaEn y && !cfgScaleEn y))

/-- R198: the weight operand at tile `t` fits, with its linked tiles. -/
def State.weightFits (s : State) (c g t : Nat) : Bool :=
  let x := s.tcfgWord c g t
  let p := weightSpan (cfgFmt x)
  let sc := s.tcfgWord c g (cfgScale x)
  s.spanOk c g t p && (p != 1 || cfgBpr x == 8 * fmtWidth (cfgFmt x)) &&
  (!cfgScaleEn x || (cfgBpr sc == 64 && cfgRows sc == (if cfgMetaEn x then 4 else 2)))

/-- R197: the activation operand is in the paired layout. -/
def pairedFmt (fmt : Nat) : Bool := fmt == 8 || fmt == 12

/-- R197: the activation rows an operand carries. -/
def actRows (x : W32) : Nat := if pairedFmt (cfgFmt x) then 2 * cfgRows x else cfgRows x

/-- R198: the activation operand at tile `t` fits a pass of K elements against weights that are sparse or not. -/
def State.actFits (s : State) (c g t k : Nat) (sparse : Bool) : Bool :=
  let x := s.tcfgWord c g t
  let p := actSpan (cfgFmt x) sparse
  let sc := s.tcfgWord c g (cfgScale x)
  s.spanOk c g t p && !cfgMetaEn x && actRows x ≤ 64 &&
  (if pairedFmt (cfgFmt x) then k ≤ cfgBpr x else k * fmtWidth (cfgFmt x) ≤ 8 * cfgBpr x * p) &&
  (!cfgScaleEn x || (cfgBpr sc == 16 && actRows x ≤ cfgRows sc))

/-! ### MWLD (R205-R211) -/

/-- The arrays of a 4-bit mask. -/
def maskArrays (m : Nat) : List Nat := (List.range 4).filter fun a => m.testBit a

/-- R195: an MWLD in validation names one of the arrays. -/
def Core.validating (k : Core) (m : Nat) : Bool := k.vals.any fun v => v.loads.any fun l => m.testBit l.1

/-- R215: an array of the mask has a full queue. -/
def Core.queueFull (k : Core) (m : Nat) : Bool := (maskArrays m).any fun a => decide ((k.mat a).queue.length ≥ 4)

/-- R206: the reload an array takes from the operand at tile `t`; metadata and scales are taken at validation. -/
def State.mkReload (s : State) (c g t ord mask : Nat) (same : Bool) : Reload :=
  let x := s.tcfgWord c g t
  let sparse := if cfgMetaEn x then cfgRole (s.tcfgWord c g (cfgMeta x)) else 0
  ⟨ord, g, t, weightSpan (cfgFmt x), mask, same, ⟨cfgFmt x, cfgTbl x, sparse, cfgScaleEn x, cfgRows x, [], [], [], 0⟩, false⟩

/-- R174, R175: the metadata and scale tiles of a weight operand at tile `t`, with the rows each has. -/
def State.linkTiles (s : State) (c g t : Nat) : List (Nat × Nat × Nat) :=
  let x := s.tcfgWord c g t
  (if cfgMetaEn x then [(g, cfgMeta x, 64)] else []) ++ (if cfgScaleEn x then [(g, cfgScale x, if cfgMetaEn x then 4 else 2)] else [])

/-- MWLD (R205, R206): once its queues have room, no MWLD of its arrays is in validation and no TCFG of its group waits (R172, R195), checks
1 to 4; the strand is parked in validation. -/
def execMwld (w : Site) (d a b : RegField) (tw xmask : BitVec 4) (same z : Bool) (s : State) : Out :=
  .next (s.issue w [] fun s =>
    let c := w.core.val
    let g := groupOf w.strand.val
    let k := s.core c
    let m := xmask.toNat
    if k.validating m || k.queueFull m || (s.group c g).pendCfg.isSome then .wait .none
    else if d ≠ 0 || a ≠ 0 || b ≠ 0 || z || m = 0 then .fault s (flt 0x01)
    else s.unitBody w (
      let p := weightSpan (cfgFmt (s.tcfgWord c g tw.toNat))
      let tileOf (a : Nat) : Nat := if same then tw.toNat else tw.toNat + p * a
      if (maskArrays m).any fun a => decide (tileOf a < 16) && !fmtWeight (cfgFmt (s.tcfgWord c g (tileOf a))) then
        .fault s (flt 0x20)
      else if (maskArrays m).any fun a => decide (tileOf a ≥ 16) || !s.weightFits c g (tileOf a) then .fault s (flt 0x24)
      else
        let q := s.takeOrd c
        let loads := (maskArrays m).map fun a => (a, s.mkReload c g (tileOf a) q.2 m same)
        let metas := loads.flatMap fun l => s.linkTiles c g l.2.tile
        .hold ((q.1.modCore c fun k => { k with vals := k.vals ++ [⟨w.strand.val, loads, metas⟩] }).park w .mwld)))

/-- R174: the metadata index of row `r`, column `j` of a set: 2 bits for 2:4, 3 bits for 4:8. -/
def WeightSet.index (x : WeightSet) (r j : Nat) : Nat :=
  if x.sparse = 1 then elemAt (tget 0 x.mdat r) 2 j else elemAt (tget 0 x.mdat r) 4 j % 8

/-- R206 check 5: the first physical row of the first group whose indices do not rise strictly, or with a spare bit set. -/
def WeightSet.metaFault (x : WeightSet) : Option Nat :=
  let n := 2 * x.sparse
  if x.sparse = 0 then none
  else
    ((List.range (64 / n)).find? fun i => (List.range 64).any fun j =>
      ((List.range (n - 1)).any fun o => decide (x.index (n * i + o + 1) j ≤ x.index (n * i + o) j)) ||
      (x.sparse == 2 && (List.range n).any fun o => (elemAt (tget 0 x.mdat (n * i + o)) 4 j).testBit 3)).map fun i => n * i

/-- R207: the metadata and scale rows of a reload, as validation reads them. -/
def State.captureLinks (s : State) (c : Nat) (l : Reload) : Reload :=
  let x := s.tcfgWord c l.group l.tile
  let rows (t n : Nat) : Table Nat :=
    (List.range n).foldl (fun m r => tset 0 m r (s.tileRow c l.group t r).toNat) []
  { l with ws := { l.ws with
    mdat := if cfgMetaEn x then rows (cfgMeta x) 64 else [],
    scl := if cfgScaleEn x then rows (cfgScale x) (if cfgMetaEn x then 4 else 2) else [] } }

/-! ### Feeder reads (R179, R190) -/

/-- R179: one feeder read of a row for some arrays: event 0x28 in each array whose latch holds the row, and otherwise one read of the tile
file, event 0x27, which fills the latch of every array that lacked it. -/
def State.feed (s : State) (c : Nat) (arrays : List Nat) (weight : Bool) (tag : Nat) : State :=
  let lacks (a : Nat) : Bool := decide ((if weight then ((s.core c).mat a).latchW else ((s.core c).mat a).latchA) ≠ some tag)
  let s := (arrays.filter fun a => !lacks a).foldl (fun s a => s.count c 0x28 a 1) s
  match arrays.filter lacks with
  | [] => s
  | a :: l =>
    ((a :: l).foldl (fun s a => s.modMat c a fun m =>
      if weight then { m with latchW := some tag } else { m with latchA := some tag }) s).count c 0x27 a 1

/-- R179, R190: feeder reads for some arrays, in order, each of a row of a tile of group `g` (64: its table store) with its bytes. A read
that a latch serves checks nothing; one of the tile file finds in granule `j` what `e` says of read 8 x (65 x tile + row) + j. Answers
whether an uncorrectable error withholds data: then no feeder uses it. -/
def State.feedRows (s : State) (c g : Nat) (arrays : List Nat) (weight : Bool) (l : List (Nat × Nat × Nat)) (e : ErrMap) : State × Bool :=
  l.foldl (fun q x =>
    let t : State := q.1
    let tag := latchTag g x.1 x.2.1
    let hit := arrays.all fun a => decide ((if weight then ((t.core c).mat a).latchW else ((t.core c).mat a).latchA) = some tag)
    let r := if hit then (t, []) else t.tileCheck c g x.1 x.2.1 x.2.2 e (8 * (65 * x.1 + x.2.1))
    (r.1.feed c arrays weight tag, q.2 || decide (r.2 ≠ []))) (s, false)

/-- R207: the rows that the validation of a reload reads: metadata, scales, one table store of a TC4 operand. -/
def State.linkReads (s : State) (c : Nat) (x : Reload) : List (Nat × Nat × Nat) :=
  ((s.linkTiles c x.group x.tile).flatMap fun m => (List.range m.2.2).map fun r => (m.2.1, r, cfgBpr (s.tcfgWord c m.1 m.2.1))) ++
    (if x.ws.fmt = 9 then [(x.tile, 64, if x.ws.tbl then 32 else 16)] else [])

/-- R207: the reads of a validation: those of each distinct operand, once for every array that loads it. -/
def State.validateReads (s : State) (c : Nat) (loads : List (Nat × Reload)) (e : ErrMap) : State × Bool :=
  ((loads.map fun l => l.2.tile).eraseDups).foldl (fun q t =>
    match loads.find? fun l => decide (l.2.tile = t) with
    | some l =>
      let r := State.feedRows q.1 c l.2.group ((loads.filter fun l => decide (l.2.tile = t)).map Prod.fst) true (s.linkReads c l.2) e
      (r.1, q.2 || r.2)
    | none => q) (s, false)

/-- MWLD_VALIDATE (R206, R207): once the metadata and scale rows are readable, check 5; then the reload enters every queue, the
weight state changes (R195) and the strand goes on. `e` is what the reads of the tile file find; where data is withheld the validation
goes no further, and the revocation of the core's domain ends it (R190, R222). -/
def execMwldValidate (w : Site) (e : ErrMap) (s : State) : Out :=
  .next (
    let c := w.core.val
    match (s.core c).vals.find? fun v => decide (v.strand = w.strand.val) with
    | none => s
    | some v =>
      let drop (s : State) : State := (s.modCore c fun k => { k with vals := k.vals.filter fun y => decide (y.strand ≠ w.strand.val) }).park w .none
      if s.podStopped c || (v.metas.any fun m => (List.range m.2.2).any fun r => s.writerBefore c m.1 m.2.1 r (v.loads.foldl (fun _ l => l.2.ord) 0)) ||
          v.loads.any (fun l => decide (l.2.ws.fmt = 9) && s.writerBefore c l.2.group l.2.tile 64 l.2.ord) then s
      else
        let q := s.validateReads c v.loads e
        if q.2 then q.1
        else
          let loads := v.loads.map fun l => (l.1, s.captureLinks c l.2)
          match loads.findSome? fun l => l.2.ws.metaFault with
          | some r => (drop q.1).takeFault w ⟨0x2A, 0, infoWord none (some r) 0 false false false⟩
          | none =>
            (loads.foldl (fun s l => s.modMat c l.1 fun m =>
              { m with queue := m.queue ++ [.reload l.2], wstate := some { l.2.ws with mdat := [], scl := [] } }) (drop q.1)).retire w)

/-- R196: a logical row of an operand: its tiles' rows side by side, 128 bytes each. -/
def State.logicalRow (s : State) (c g t p r : Nat) : Nat :=
  (List.range p).foldl (fun n i => n + (s.tileRow c g (t + i) r).toNat * 2 ^ (1024 * i)) 0

/-- R208: σ, the waves a weight row takes in the shadow chain. -/
def Reload.sigma (x : Reload) : Nat := max 1 ((x.span * (if x.same then 1 else (maskArrays x.mask).length) + 3) / 4)

/-- R211: the weight rows a shift reads, from the highest down. -/
def State.weightReads (s : State) (c : Nat) (x : Reload) : List (Nat × Nat × Nat) :=
  ((List.range x.ws.nrows).reverse).flatMap fun r =>
    (List.range x.span).map fun i => (x.tile + i, r, cfgBpr (s.tcfgWord c x.group (x.tile + i)))

/-- R208: an owed write to the rows or the table store that a reload has still to read. -/
def State.reloadOwed (s : State) (c : Nat) (x : Reload) : Bool :=
  (List.range x.span).any fun i => (List.range 65).any fun r =>
    x.reads x.group (x.tile + i) r && s.writerBefore c x.group (x.tile + i) r x.ord

/-- R58, R211: the weight set with the rows as the tile file holds them. -/
def State.takeWeights (s : State) (c : Nat) (x : Reload) : WeightSet :=
  { x.ws with
    data := (List.range x.ws.nrows).foldl (fun t r => tset 0 t r (s.logicalRow c x.group x.tile x.span r)) [],
    tc4 := if x.ws.fmt = 9 then s.tileTable c x.group x.tile else 0 }

/-- R211: the reload of the same MWLD in another array takes the rows that the first shift read. -/
def MatItem.takeRows (ord : Nat) (ws : WeightSet) (i : MatItem) : MatItem :=
  match i with
  | .reload x => if x.ord = ord then .reload { x with ws := ws, taken := true } else i
  | .pass _ => i

/-- WEIGHT_SHIFT (R208, R210, R211): the reload at the head of an array's queue, once every owed write to its tiles is done and the
previous weights are active: the shadow takes the weight rows, row 63 first. With SAME = 1 the first array's reads serve every selected
array. `e` is what the reads of the tile file find; where data is withheld the shift does not run, and the revocation of the core's domain
ends it (R190, R222). -/
def execWeightShift (core : Fin 256) (array : Fin 4) (e : ErrMap) (s : State) : Out :=
  .next (
    let c := core.val
    let a := array.val
    let m := (s.core c).mat a
    match m.queue with
    | .reload x :: rest =>
      let arrays := if x.same then maskArrays x.mask else [a]
      let q := if x.taken then (s, false) else s.feedRows c x.group arrays true (s.weightReads c x) e
      if m.shadow.isSome || s.podStopped c || s.reloadOwed c x then s
      else if q.2 then q.1
      else
        let ws := if x.taken then x.ws else s.takeWeights c x
        let t := if x.same then arrays.foldl (fun t b => t.modMat c b fun m => { m with queue := m.queue.map (MatItem.takeRows x.ord ws) }) q.1 else q.1
        (t.modMat c a fun m => { m with queue := rest, shadow := some ws }).count c 0x25 a (64 * x.sigma)
    | _ => s)

/-- WEIGHT_ACTIVATE (R194, R208, R209): the shadow weights, with their indices and scales, become active. -/
def execWeightActivate (core : Fin 256) (array : Fin 4) (s : State) : Out :=
  .next (
    match ((s.core core.val).mat array.val).shadow with
    | some x => if s.podStopped core.val then s else s.modMat core.val array.val fun m => { m with active := some x, shadow := none }
    | none => s)

/-! ### MMA and MMAQ (R212-R217) -/

/-- R64: the multiply-accumulates of a format per PE in 32 waves. -/
def macRate (fmt : Nat) (tbl : Bool) : Nat :=
  match fmt with
  | 0 => 1
  | 1 => 4
  | 2 => 16
  | 3 => 16
  | 8 => 64
  | 12 => 64
  | 9 => if tbl then 16 else 64
  | _ => 32

/-- R64, R199: the pair that array `a` forms of an activation tile and its weights has ρ = 2. -/
def State.pairTwo (s : State) (c g a t : Nat) : Bool :=
  let x := s.tcfgWord c g t
  match ((s.core c).mat a).wstate with
  | some y => decide (min (macRate (cfgFmt x) (cfgTbl x)) (macRate y.fmt y.tbl) = 64)
  | none => false

/-- The pass array `a` gets: activation tile `t`, mask, columns; `two` is ρ = 2 for the slot sequence it runs (R199). -/
def State.mkPass (s : State) (c g a t ord k n : Nat) (mask : W64) (q : Nat) (zero : Bool) (lock : Nat) (two : Bool) : Pass :=
  let x := s.tcfgWord c g t
  let sparse := match ((s.core c).mat a).wstate with | some y => decide (y.sparse ≠ 0) | none => false
  ⟨ord, g, t, actSpan (cfgFmt x) sparse, cfgBpr x, cfgFmt x, if cfgScaleEn x then some (cfgScale x) else none,
   pairedFmt (cfgFmt x), k, n, actRows x, mask, 4 * q + a, (s.core c).acc.mode (4 * q + a), zero, lock, two, 0⟩

/-- R214 checks 5 to 9 for one array with activation tile `t`, in the table's order over all arrays. -/
def State.passFault (s : State) (c g k q : Nat) (l : List (Nat × Nat)) : Option Nat :=
  let m := s.core c
  let ws (a : Nat) : Option WeightSet := (m.mat a).wstate
  let x (t : Nat) : W32 := s.tcfgWord c g t
  let cls (t : Nat) : Nat := operandClass (cfgFmt (x t)) (cfgTbl (x t))
  let wcls (a : Nat) : Nat := match ws a with | some y => operandClass y.fmt y.tbl | none => 9
  let sparse (a : Nat) : Bool := match ws a with | some y => decide (y.sparse ≠ 0) | none => false
  let rows (a : Nat) : Nat := match ws a with | some y => y.nrows | none => 0
  if l.any fun e => (ws e.1).isNone || (decide (e.2 < 16) && !cfgV (x e.2)) then some 0x24
  else if l.any fun e => decide (e.2 < 16) && (!fmtAct (cfgFmt (x e.2)) || !pairOk (cls e.2) (wcls e.1)) then some 0x20
  else if l.any (fun e => decide (e.2 ≥ 16) || !s.actFits c g e.2 k (sparse e.1)) ||
      l.any (fun e => l.any fun f => cfgFmt (x e.2) != cfgFmt (x f.2) || cfgScaleEn (x e.2) != cfgScaleEn (x f.2)) then some 0x24
  else if l.any fun e => if sparse e.1 then decide (k > 128) else decide (k > 64) || decide (k > rows e.1) then some 0x24
  else if l.any fun e => !pairMode (cls e.2) (wcls e.1) (m.acc.mode (4 * q + e.1)).mode then some 0x21
  else none

/-- R215, R217: a checked pass enters the queues. -/
def State.enterPass (s : State) (w : Site) (l : List (Nat × Nat)) (mk : Nat → Nat → Nat → Pass) : Res :=
  let c := w.core.val
  let q := s.takeOrd c
  .done (l.foldl (fun s e => s.modMat c e.1 fun x => { x with queue := x.queue ++ [.pass (mk e.1 e.2 q.2)] }) q.1)

/-- MMA (R212-R215): one activation stream for all selected arrays; not ready while a queue is full, an MWLD of one of them is in
validation or a TCFG of its group waits (R172, R195). The least ρ of its pairs holds for every array (R199). -/
def execMma (w : Site) (ga gb b : RegField) (ta : BitVec 4) (q : BitVec 3) (nomask zero z : Bool) (s : State) : Out :=
  .next (s.issue w [.g ga.toNat, .g gb.toNat] fun s =>
    let c := w.core.val
    let g := groupOf w.strand.val
    let pw := s.g w ga
    let m := fld pw 19 16
    if (s.core c).validating m || (s.core c).queueFull m || (s.group c g).pendCfg.isSome then .wait .none
    else if b ≠ 0 || z || (nomask && gb ≠ 0) || fld pw 15 14 ≠ 0 || fld pw 63 20 ≠ 0 || m = 0 then .fault s (flt 0x01)
    else s.unitBody w (
      let l := (maskArrays m).map fun a => (a, ta.toNat)
      match s.passFault c g (fld pw 7 0) q.toNat l with
      | some code => .fault s (flt code)
      | none =>
        let top := (maskArrays m).foldl max 0
        let mask := if nomask then BitVec.allOnes 64 else s.g w gb
        let two := (maskArrays m).all fun a => s.pairTwo c g a ta.toNat
        s.enterPass w l fun a t ord =>
          s.mkPass c g a t ord (fld pw 7 0) (if a = top then fld pw 13 8 + 1 else 64) mask q.toNat zero m two))

/-- R214 checks 3 and 4: the quad-feed core and the device right hull of KIND 0x01: the code, and the instance where the check names one
(R153). -/
def quadFault (s : State) (core : Nat) (h : W128) : Option (Nat × Nat) :=
  if core % 8 ≠ 0 then some (0x28, 0)
  else
    match hullCheck4 s h 5 0 with
    | some c => some (c, podOfCore core)
    | none =>
      if hKind h ≠ 1 then some (0x28, podOfCore core)
      else if !hHas h 1 then some (0x0C, podOfCore core)
      else if hInst h ≤ podOfCore core && podOfCore core < hInst h + hLen h then none else some (0x0D, podOfCore core)

/-- R216: the activation format that fixes P of an MMAQ: that of the tile at `ta` where stream 0 is enabled, and otherwise that of the
lowest enabled stream's own tile, where the P it gives leads to that tile (log entry 130, DEDUCED). -/
def State.quadFmt (s : State) (c g ta m : Nat) : Nat :=
  let fmt (t : Nat) : Nat := cfgFmt (s.tcfgWord c g t)
  let a := (maskArrays m).headD 0
  let sparse := match ((s.core c).mat a).wstate with | some y => decide (y.sparse ≠ 0) | none => false
  match [1, 2, 4].find? fun p => decide (ta + p * a < 16) && decide (actSpan (fmt (ta + p * a)) sparse = p) with
  | some p => fmt (ta + p * a)
  | none => fmt ta

/-- MMAQ (R213, R214, R216, R217): one stream for each enabled array, each with the ρ of its own pair. -/
def execMmaq (w : Site) (ga vb h : RegField) (ta : BitVec 4) (q : BitVec 3) (nomask zero z : Bool) (s : State) : Out :=
  .next (s.issue w [.g ga.toNat, .v vb.toNat, .v (vb.toNat + 1), .h h.toNat] fun s =>
    let c := w.core.val
    let g := groupOf w.strand.val
    let pw := s.g w ga
    let m := fld pw 19 16
    if (s.core c).validating m || (s.core c).queueFull m || (s.group c g).pendCfg.isSome then .wait .none
    else if h.toNat ≥ 16 || z || (nomask && vb ≠ 0) || vb.toNat % 2 ≠ 0 || fld pw 15 14 ≠ 0 || fld pw 63 20 ≠ 0 || m = 0 then
      .fault s (flt 0x01)
    else s.unitBody w (
      match quadFault s c (s.h w h.toNat) with
      | some e => .fault s (if e.1 = 0x28 && decide (c % 8 ≠ 0) then flt 0x28 else fltA e.1 e.2 h.toNat 0 false false)
      | none =>
        let p (a : Nat) : Nat := actSpan (s.quadFmt c g ta.toNat m)
          (match ((s.core c).mat a).wstate with | some y => decide (y.sparse ≠ 0) | none => false)
        let l := (maskArrays m).map fun a => (a, ta.toNat + p a * a)
        let ws := l.all fun e => ((s.core c).mat e.1).wstate.isSome
        if ws && l.any (fun e => decide (ta.toNat % p e.1 ≠ 0) || decide (ta.toNat + 4 * p e.1 > 16)) then
          .fault s (flt ((s.passFault c g (fld pw 7 0) q.toNat (l.filter fun e => decide (e.2 < 16))).elim 0x24 fun x =>
            if x = 0x20 then 0x20 else 0x24))
        else
          match s.passFault c g (fld pw 7 0) q.toNat l with
          | some code => .fault s (flt code)
          | none =>
            let mask (a : Nat) : W64 :=
              if nomask then BitVec.allOnes 64
              else BitVec.ofNat 64 (elemAt (s.v w (if a < 2 then vb else vb + 1)).toNat 64 (a % 2))
            s.enterPass w l fun a t ord =>
              s.mkPass c g a t ord (fld pw 7 0) (fld pw 13 8 + 1) (mask a) q.toNat zero 0 (s.pairTwo c g a t)))

/-! ### Passes (R199-R204) -/

/-- Activation row `i` of a pass, as a number (R196, R197). -/
def State.passRow (s : State) (c : Nat) (p : Pass) (i : Nat) : Nat :=
  if p.paired then (s.tileRow c p.group p.tile (i / 2)).toNat / 2 ^ (if i % 2 = 1 then 4 * p.bpr else 0)
  else s.logicalRow c p.group p.tile p.span i

/-- R72, R202: elements 0 to K - 1 of a row all encode zero, of either sign. -/
def rowZero (fmt k row : Nat) : Bool := (List.range k).all fun i => (fvOf fmt (elemAt row (fmtWidth fmt) i)).isZero

/-- The tile rows, with their bytes, that the next slot of a pass reads: data tiles, then its scale rows (R196, R218). -/
def State.slotReads (s : State) (c : Nat) (p : Pass) (sl : Nat × List Nat) : List (Nat × Nat × Nat) :=
  if sl.2 = [] then []
  else
    ((List.range p.span).map fun i => (p.tile + i, sl.1, cfgBpr (s.tcfgWord c p.group (p.tile + i)))) ++
      match p.scale with
      | some t => sl.2.map fun i => (t, i, 16)
      | none => []

/-- R204: the next slot of a pass is not yet readable under R177. -/
def State.slotStarved (s : State) (c : Nat) (p : Pass) (sl : Nat × List Nat) : Bool :=
  (s.slotReads c p sl).any fun x => s.writerBefore c p.group x.1 x.2.1 p.ord

/-- A pass as it enters an array. -/
def Flight.ofPass (p : Pass) (ws : WeightSet) : Flight :=
  ⟨p.ord, p.slot, p.mode, p.k, p.n, p.fmt, p.scale.isSome, [], [], ws, [], p.lock, p.two, []⟩

/-- The rows of a slot join the rows that owe results; a pass whose rows have all left the array enters it again. -/
def MatArray.takeRows (m : MatArray) (p : Pass) (acts scl : Table Nat) : MatArray :=
  match acts, m.active with
  | [], _ => m
  | _, none => m
  | _, some ws =>
    let add (f : Flight) : Flight := { f with acts := f.acts ++ acts, scl := scl.foldl (fun t e => tset 0 t e.1 e.2) f.scl }
    if m.flights.any fun f => decide (f.ord = p.ord) then { m with flights := m.flights.map fun f => if f.ord = p.ord then add f else f }
    else { m with flights := m.flights ++ [add (Flight.ofPass p ws)] }

/-- R72, R199, R202: one slot enters array `a`: the rows that are not all zero form products; a slot without one is a bubble. -/
def State.slotInto (s : State) (c a : Nat) (p : Pass) (sl : Nat × List Nat) : State :=
  let live := sl.2.filter fun i => !rowZero p.fmt p.k (s.passRow c p i)
  let scl := match p.scale with
    | some t => live.map fun i => (i, (s.tileRow c p.group t i).toNat)
    | none => []
  (s.modMat c a fun m => m.takeRows p (live.map fun i => (i, s.passRow c p i)) scl).count c (if live = [] then 0x21 else 0x20) a 1

/-- R202: the rows that a pass drops at the feeder: masked rows whose tile row takes no slot. -/
def Pass.dropped (p : Pass) : Nat :=
  ((List.range p.m).filter fun i => !p.live i && !(p.paired && p.live (i / 2 * 2 + (1 - i % 2)))).length

/-- R215: what happens in array `a` as a pass begins: with Z its slot is zeroed. -/
def State.beginPass (s : State) (c a : Nat) (p : Pass) : State :=
  (if p.zero then s.modAcc c fun x => x.zeroSlot p.slot else s).count c 0x22 a p.dropped

/-- The pass at the head of an array's queue. -/
def MatArray.headPass (m : MatArray) : Option Pass :=
  match m.queue with
  | .pass p :: _ => some p
  | _ => none

/-- The pass at the head of array `a` moves to slot `n`; with no slot left it leaves the queue and the edge is free. -/
def State.setNext (s : State) (c a n : Nat) : State :=
  s.modMat c a fun m =>
    match m.queue with
    | .pass p :: rest => { m with queue := if n < p.slots.length then .pass { p with next := n } :: rest else rest }
    | _ => m

/-- R199, R204, R218: slots enter the edges of arrays in lockstep, in order, each read once for all of them, until none is left, the next
is not yet readable (a starved wave), or an uncorrectable error withholds its data (R190). -/
def State.feedSlots : Nat → State → Nat → List (Nat × Pass) → Nat → ErrMap → State × Nat
  | 0, s, _, _, n, _ => (s, n)
  | fuel + 1, s, c, l, n, e =>
    match l with
    | [] => (s, n)
    | x :: _ =>
      match x.2.slots[n]? with
      | none => (s, n)
      | some sl =>
        if l.any fun y => s.slotStarved c y.2 sl then (l.foldl (fun s y => s.count c 0x23 y.1 1) s, n)
        else
          let reads := (l.flatMap fun y => s.slotReads c y.2 sl).eraseDups
          let q := reads.foldl (fun q r =>
            let r' := State.feedRows q.1 c x.2.group ((l.filter fun y => (s.slotReads c y.2 sl).contains r).map Prod.fst) false [r] e
            (r'.1, q.2 || r'.2)) (s, false)
          if q.2 then (q.1, n)
          else State.feedSlots fuel (l.foldl (fun s y => s.slotInto c y.1 y.2 sl) q.1) c l (n + 1) e

/-- PASS_START (R199-R204, R215, R218): the pass at the head of the array's queue, in lockstep in every array of a broadcast, feeds its
slots, once the weights are active and, with Z, older users of the slots are finished. A pass that is starved part way goes on with the
next PASS_START. `e` is what the reads of the tile file find. -/
def execPassStart (core : Fin 256) (array : Fin 4) (e : ErrMap) (s : State) : Out :=
  .next (
    let c := core.val
    let k := s.core c
    match (k.mat array.val).headPass with
    | none => s
    | some p =>
      let arrays := if p.lock = 0 then [array.val] else maskArrays p.lock
      let l := arrays.filterMap fun a => (k.mat a).headPass.map fun x => (a, x)
      let ready := decide (l.length = arrays.length) && l.all fun y =>
        decide (y.2.ord = p.ord) && (k.mat y.1).shadow.isNone && (k.mat y.1).active.isSome
      let first := decide (p.next = 0)
      if !ready || s.podStopped c || (first && l.any fun y => y.2.zero && k.slotOwedAny y.2.slot y.2.ord) then s
      else
        let t := if first then l.foldl (fun s y => s.beginPass c y.1 y.2) s else s
        match p.slots[p.next]? with
        | none => l.foldl (fun s y => s.setNext c y.1 0) t
        | some sl =>
          if first && l.any (fun y => s.slotStarved c y.2 sl) then (s.feedSlots 1 c l p.next e).1
          else
            let r := t.feedSlots p.slots.length c l p.next e
            l.foldl (fun s y => s.setNext c y.1 r.2) r.1)

/-- The value of weight element (r, j) of a set (R58, R59, R61). -/
def WeightSet.value (x : WeightSet) (r j : Nat) : Fv :=
  let raw := elemAt (tget 0 x.data r) (fmtWidth x.fmt) j
  if x.fmt = 9 then (if x.tbl then fvOf 3 (elemAt x.tc4.toNat 16 raw) else fvOf 4 (elemAt x.tc4.toNat 8 raw))
  else if x.scaled && x.fmt = 10 then (fvOf 10 raw).mul (.fin false 1 (-6))
  else fvOf x.fmt raw

/-- R200: the logical K that physical row `r`, column `j` takes. -/
def WeightSet.logicalK (x : WeightSet) (r j : Nat) : Nat :=
  if x.sparse = 0 then r
  else if x.sparse = 1 then 4 * (r / 2) + x.index r j
  else 8 * (r / 4) + x.index r j

/-- R62, R201: the block of physical row `r`. -/
def WeightSet.block (x : WeightSet) (r : Nat) : Nat := if x.sparse = 0 then r / 32 else r / 16

/-- R200, R201: the products that meet at (row i, column j), physical rows ascending, each with its row. -/
def Flight.products (f : Flight) (i j : Nat) : List (Nat × Fv) :=
  (List.range f.ws.nrows).filterMap fun r =>
    let kk := f.ws.logicalK r j
    if kk < f.k then
      let a := fvOf f.fmt (elemAt (tget 0 f.acts i) (fmtWidth f.fmt) kk)
      let a := if f.scaled && f.fmt = 10 then a.mul (.fin false 1 (-6)) else a
      let p := a.mul (f.ws.value r j)
      let p := if f.scaled then p.mul (fvOf 14 (elemAt (tget 0 f.scl i) 8 (f.ws.block r))) else p
      let p := if f.ws.scaled then p.mul (fvOf 14 (elemAt (tget 0 f.ws.scl (f.ws.block r)) 8 j)) else p
      some (r, p)
    else none

/-- R70, R75: add the products of one element: exact in anchored mode, one rounding for each in ordered mode. -/
def accumulate (mode : SlotMode) (x : W128) (l : List Fv) : W128 :=
  match mode.mode with
  | 1 => l.foldl (wxAdd mode.anchor) x
  | 2 => BitVec.ofNat 128 (l.foldl (fun n p => toF32 (p.add (f32 n))) (fld x 31 0))
  | _ => BitVec.ofNat 128 (l.foldl (fun n p => fvEnc 0 false .rne (p.add (fvOf 0 n))) (fld x 63 0))

/-- Column `j` of row `i` is done: a row with every column done, and then the pass, leaves the array. -/
def Flight.finish (f : Flight) (i j : Nat) : Flight :=
  let d := tget 0 f.done i ||| 2 ^ j
  if d = 2 ^ f.n - 1 then { f with acts := tdel i f.acts, scl := tdel i f.scl, done := tdel i f.done }
  else { f with done := tput i d f.done }

/-- A pass owes the result of row `i`, column `j`. -/
def Flight.owesResult (f : Flight) (i j : Nat) : Bool :=
  f.acts.any (fun e => decide (e.1 = i)) && decide (j < f.n) && !(tget 0 f.done i).testBit j

/-- R221: the PEs of column `j` whose weight parity fails as they form products of row `i`: those the check finds now, and in a slot of
two rows those it has already found in the other row. -/
def Flight.badPEs (f : Flight) (i j : Nat) (perr : List (Fin 64)) (ps : List (Nat × Fv)) : List Nat :=
  (List.range 64).filter fun r =>
    (perr.any (fun x => decide (x.val = r)) || (f.two && f.perrs.contains (i / 2, r, j))) && ps.any fun p => decide (p.1 = r)

/-- R221: those of them that no event has recorded yet. -/
def Flight.newBad (f : Flight) (i j : Nat) (bad : List Nat) : List Nat :=
  bad.filter fun r => !(f.two && f.perrs.contains (i / 2, r, j))

/-- R221: parity errors are recorded: PERR, event 0x238 for each PE, and the core's domain is to be revoked. -/
def State.parityErrs (s : State) (c a j : Nat) (new : List Nat) : State :=
  if new = [] then s
  else
    let d := (s.core c).domain
    (new.foldl (fun s r => s.raise 0x238 (srcCore c) a d (r + j * 2 ^ 8)) (s.modMat c a fun m => { m with perr := true })).wantRevoke d

/-- A slot of two rows remembers which failing PEs have been recorded, one record a slot (R221). -/
def Flight.noteParity (f : Flight) (i j : Nat) (rows : List Nat) : Flight :=
  if f.two then { f with perrs := f.perrs ++ rows.map fun r => (i / 2, r, j) } else f

/-- ACC_RESULT_ADD (R70, R75, R203, R204, R221, R228, R229, R258): the result of activation row `row`, column `col` leaves the array and is
added, in order; while the accumulator does not accept it, the array holds, with every array of its broadcast. `perr` lists PE rows where
weight parity fails: where such a PE forms a product, the error is recorded and the element takes a free value until its domain's
revocation husks it. -/
def execAccResultAdd (core : Fin 256) (array : Fin 4) (row col : Fin 64) (perr : List (Fin 64)) (e : MemErr) (s : State) : Out :=
  .next (
    let c := core.val
    let i := row.val
    let j := col.val
    let k := s.core c
    match (k.mat array.val).flights.findIdx? fun f => f.owesResult i j with
    | none => s
    | some n =>
      match (k.mat array.val).flights[n]? with
      | none => s
      | some f =>
        if s.podStopped c then s
        else if k.slotOwed f.slot i f.ord then
          (if f.lock = 0 then [array.val] else maskArrays f.lock).foldl (fun s a => s.count c 0x24 a 1) s
        else
          let ps := f.products i j
          let bad := f.badPEs i j perr ps
          let new := f.newBad i j bad
          let s := s.modMat c array.val fun m =>
            { m with flights := (m.flights.mapIdx fun x g =>
                if x = n then (g.noteParity i j new).finish i j else g).filter fun g => decide (g.acts ≠ []) }
          let s := s.count c 0x26 array.val ps.length
          let s := (s.accErr c f.slot i j e).parityErrs c array.val j new
          if e = .uncorrectable then s
          else if bad ≠ [] then
            let v := (Config.free64 s.freeCtr) ++ (Config.free64 (s.freeCtr + 1))
            ({ s with freeCtr := s.freeCtr + 2 } : State).modAcc c fun x => x.setElem f.slot i j (elemOf f.mode.mode v.toNat)
          else s.modAcc c fun x => x.setElem f.slot i j (accumulate f.mode (x.elem f.slot i j) (ps.map Prod.snd)))

end Sys2Proof.Machine
end

