-- ==== Sys2Proof/Machine/Drain.lean ====
section
/-! DEFINITION. MANCH, MORD, MDRAIN, MSAVE, MRESTORE, the drain unit with its epilogue, the clear engine (chapter 09). -/

namespace Sys2Proof.Machine

/-! ### MANCH and MORD (R226, R227) -/

/-- R225, R227: change the mode of every slot of a mask at once and queue their clears. -/
def State.changeModes (s : State) (c : Nat) (m : Nat) (mode : SlotMode) : State :=
  let q := s.takeOrd c
  let slots := (List.range 32).filter fun i => m.testBit i
  q.1.modAcc c fun x => { x with
    modes := slots.foldl (fun t i => tset SlotMode.none t i mode) x.modes,
    clears := x.clears ++ slots.map fun i => (i, q.2) }

/-- MANCH (R227). -/
def execManch (w : Site) (d ga gb : RegField) (z : BitVec 7) (s : State) : Out :=
  .next (s.issue w [.g ga.toNat, .g gb.toNat] fun s =>
    let m := (s.g w ga).toNat
    let a := (s.g w gb).toInt
    if d ≠ 0 || z ≠ 0 || m = 0 || m ≥ 2 ^ 32 || a < -256 || a > 255 then .fault s (flt 0x01)
    else s.unitBody w (.done (s.changeModes w.core.val m ⟨1, a⟩)))

/-- MORD (R227): FP32 with P = 0, FP64 with P = 1. -/
def execMord (w : Site) (d ga b : RegField) (p : Bool) (z : BitVec 6) (s : State) : Out :=
  .next (s.issue w [.g ga.toNat] fun s =>
    let m := (s.g w ga).toNat
    if d ≠ 0 || b ≠ 0 || z ≠ 0 || m = 0 || m ≥ 2 ^ 32 then .fault s (flt 0x01)
    else s.unitBody w (.done (s.changeModes w.core.val m ⟨if p then 3 else 2, 0⟩)))

/-- SLOT_CLEAR (R227-R229): the clear engine zeroes a slot once every older user of it is finished. -/
def execSlotClear (core : Fin 256) (slot : Fin 32) (s : State) : Out :=
  .next (
    let c := core.val
    let k := s.core c
    match k.acc.clears.find? fun x => decide (x.1 = slot.val) with
    | none => s
    | some x =>
      if k.slotOwedAny slot.val x.2 || s.podStopped c then s
      else s.modAcc c fun u => { u.zeroSlot slot.val with clears := u.clears.erase x })

/-! ### Destinations (R234) -/

/-- Round up to a multiple of 16. -/
def up16 (n : Nat) : Nat := (n + 15) / 16 * 16

/-- R234: the bytes per row that PAIR halves a row by; `tile` is the destination tile's bytes per row. -/
def dwBpr (x : W64) (tile : Nat) (toTile : Bool) : Nat := if toTile then tile else 32 * ((dwNc x + 31) / 32)

/-- R234: the byte offset and length of the granules that output row `o` writes in its destination row. -/
def dwSpan (x : W64) (bpr o : Nat) : Nat × Nat :=
  let n := (dwNc x * fmtWidth (dwFmt x) + 7) / 8
  if dwPair x then
    let s0 := o % 2 * (bpr / 2)
    (s0, up16 (s0 + n) - s0)
  else (64 * dwDcol x * fmtWidth (dwFmt x) / 8, up16 n)

/-- R234: with PAIR and an odd NR, the byte offset and length of the unused half of the last row. -/
def dwUnused (x : W64) (bpr o : Nat) : Nat × Nat :=
  if dwPair x && decide (o % 2 = 0) && decide (o + 1 = dwNr x) then (bpr / 2, bpr - bpr / 2) else (0, 0)

/-- R234: the memory ranges a drain to `addr` writes: row granules and MX scale bytes, output rows ascending. -/
def dwRanges (x : W64) (addr : Nat) : List (Nat × Nat) :=
  ((List.range (dwNr x)).map fun o =>
    let sp := dwSpan x (dwBpr x 0 false) o
    (addr + dwStride x * dwRowOf x o + sp.1, sp.2)) ++
  ((List.range (dwNr x)).filterMap fun o =>
    let un := dwUnused x (dwBpr x 0 false) o
    if un.2 = 0 then none else some (addr + dwStride x * dwRowOf x o + un.1, un.2)) ++
  (if dwMx x then (List.range (dwNr x)).map fun o => (addr + dwStride x * dwRows x + 16 * o + 2 * dwDcol x, 2) else [])

/-- R234: the destination tile fits. -/
def State.drainTileFits (s : State) (c g : Nat) (x : W64) : Bool :=
  let t := s.tcfgWord c g (dwTile x)
  let sc := s.tcfgWord c g (cfgScale t)
  let spans := (List.range (min 2 (dwNr x))).all fun o =>
    let sp := dwSpan x (cfgBpr t) o
    sp.1 + sp.2 ≤ cfgBpr t && (!dwPair x || dwNc x ≤ cfgBpr t)
  cfgV t && cfgRole t == 0 && cfgFmt t == dwFmt x && dwRows x ≤ cfgRows t && spans &&
  (!dwMx x || (cfgScaleEn t && cfgBpr sc == 16 && dwNr x ≤ cfgRows sc))

/-- R233 check 1 on the drain word. -/
def dwIllegal (x : W64) : Bool :=
  let f := dwFmt x
  bit x 47 || fld x 63 60 != 0 || dwAct x ≥ 8 || (dwPair x && (!(f == 8 || f == 12) || dwDcol x != 0)) ||
  (dwIpath x && (!(f == 10 || f == 11 || f == 12 || f == 13) || dwScl x || dwBias x || dwMx x || dwAct x != 0))

/-- R233 check 4. -/
def dwFormatBad (x : W64) (mode : Nat) : Bool :=
  let f := dwFmt x
  !fmtDrain f || (f == 0 && mode != 3) || (mode == 3 && (dwScl x || dwBias x || dwMx x || dwAct x != 0)) ||
  (dwMx x && !fmtScalable f)

/-- The first failure of a hull and its pages over ranges. -/
def State.rangesFault (s : State) (h : W128) (hreg : Nat) (write : Bool) (l : List (Nat × Nat)) : Option (Sum Flt Nat) :=
  let mask := if write then rWRITE else rREAD
  match l.findSome? fun r => (hullCheck s h 1 mask r.1 r.2).map fun c =>
    fltA c (if c = 0x0D then hullFailAt h r.1 else r.1) hreg 0 write false with
  | some f => some (.inl f)
  | none => l.findSome? fun r =>
    match s.trRange (hSeal h) r.1 r.2 (if write then .write else .read) with
    | .fault c lv a => some (.inl (fltA c a hreg lv write false))
    | .pageIn a => some (.inr a)
    | .ok _ => none

/-- The first virtual address of checked ranges whose physical page fails a test on its first or last byte. -/
def State.rangesOut (s : State) (h : W128) (l : List (Nat × Nat)) (p : Nat → Bool) : Option Nat :=
  l.findSome? fun r =>
    match s.trRange (hSeal h) r.1 r.2 .read with
    | .ok ps => (ps.foldl (fun (a : Nat × Option Nat) x =>
        (a.1 + x.2.1, if a.2.isSome || (p x.1 && p (x.1 + x.2.1 - 1)) then a.2 else some a.1)) (r.1, none)).2
    | _ => some r.1

/-- An address in the scratchpad region of R20. -/
def inScratch (pa : Nat) : Bool := match regionOf pa with | .scratch _ _ => true | _ => false

/-- An address in core `c`'s scratchpad. -/
def inOwnScratch (c pa : Nat) : Bool := match regionOf pa with | .scratch o _ => decide (o = c) | _ => false

/-- R244: an item that passed its checks takes the next sequence number and enters the queue. -/
def State.enterDrain (s : State) (w : Site) (gd : RegField) (mk : Nat → W32 → DrainItem) : Res :=
  let c := w.core.val
  let q := s.takeOrd c
  let n := (s.core c).acc.dnext
  let s := q.1.modAcc c fun x => { x with queue := x.queue ++ [mk q.2 n], dnext := n + 1 }
  .done ((s.modStrand w fun t => { t with mdrain := none }).setG w gd (n.setWidth 64))

/-- Run the checks of ranges under a hull: fault, wait for a page, or go on. -/
def State.withRanges (s : State) (w : Site) (hreg : Nat) (write : Bool) (l : List (Nat × Nat)) (k : Res) : Res :=
  let h := s.h w hreg
  match s.rangesFault h hreg write l with
  | some (.inl f) => .fault s f
  | some (.inr a) => .wait (.pageIn (hSeal h) a)
  | none => k

/-- R239: a drain that uses activation table `t` has issued and has not completed. -/
def Core.tableBusy (k : Core) (t : Nat) : Bool :=
  (k.acc.queue.any fun d => decide (d.kind < 2) && decide (dwAct d.word = 6 + t)) ||
  (List.range 8).any fun i => match (k.strand i).mdrain with | some x => decide (dwAct x.1 = 6 + t) | none => false

/-- R256: the activation table an offset of the ACC_ window belongs to. -/
def tableOf (off : Nat) : Option Nat :=
  if 0x300 ≤ off && off < 0x320 then some (off / 16 % 2)
  else if 0x400 ≤ off && off < 0xC00 then some ((off - 0x400) / 0x400)
  else none

/-- R256: write a register of an activation table. -/
def AccUnit.setTable (a : AccUnit) (off : Nat) (x : W64) : AccUnit :=
  if 0x300 ≤ off && off < 0x320 then
    if off % 16 = 0 then { a with trng := tset 0 a.trng (off / 16 % 2) x } else { a with tinf := tset 0 a.tinf (off / 16 % 2) x }
  else { a with atbl := tset 0 a.atbl ((off - 0x400) / 8) x }

/-- R239: the stores to a table that have waited take effect, in order, once no drain that uses the table is left. -/
def Core.settleTables (k : Core) : Core :=
  let free (off : Nat) : Bool := match tableOf off with | some t => !k.tableBusy t | none => true
  let now := k.acc.held.filter fun x => free x.1
  { k with acc := { now.foldl (fun a x => a.setTable x.1 x.2) k.acc with held := k.acc.held.filter fun x => !free x.1 } }

/-- R233: what an MDRAIN whose checks wait leaves with its strand: its drain word and its seed. -/
def Res.keepDrain (word seed : W64) : Res → Res
  | .wait p => .issued p word seed
  | r => r

/-- MDRAIN (R231-R234, R240, R244). A strand is not ready for it while the queue is full or its group waits for a TCFG. -/
def execMdrain (w : Site) (gd ga gb : RegField) (slot : BitVec 5) (dst z : Bool) (s : State) : Out :=
  let x := s.g w ga
  let par := dwScl x || dwBias x
  .next (s.issue w ([.g gd.toNat, .g ga.toNat] ++ (if dst then [.g gb.toNat] else []) ++ if par then [.g (gb.toNat + 1)] else []) fun s =>
    let c := w.core.val
    let g := groupOf w.strand.val
    let s := s.modCore c Core.settleTables
    let k := s.core c
    let m := k.acc.mode slot.toNat
    let addr := (s.g w gb).toNat
    let paddr := ((s.bank w).readG (gb.toNat + 1)).toNat
    let seed := ((s.strand w).mdrain.map Prod.snd).getD k.acc.seed
    let hd := fld x 23 20
    let hp := fld x 27 24
    if k.acc.queue.length ≥ 4 || (!dst && (s.group c g).pendCfg.isSome) then .wait .none
    else if z || gb.toNat % 2 ≠ 0 || dwIllegal x then .fault s (flt 0x01)
    else s.unitBody w (
      if m.mode = 0 || (dwIpath x && m.mode != 1) then .fault s (flt 0x21)
      else if dwFormatBad x m.mode then .fault s (flt 0x20)
      else if dwRow0 x + dwNr x > 64 then .fault s (flt 0x29)
      else if !dst && !s.drainTileFits c g x then .fault s (flt 0x24)
      else if dst && decide (addr % 16 ≠ 0) then .fault s (fltA 0x02 addr hd 0 true false)
      else
        let go : Res := s.enterDrain w gd fun ord n =>
          ⟨if dst then 1 else 0, ord, n, w.strand.val, slot.toNat, m, x, addr, paddr, if dst then s.h w hd else 0,
            if par then s.h w hp else 0, seed, false, [], 0, 0, false⟩
        let params : Res :=
          if !par then go
          else if paddr % 16 ≠ 0 then .fault s (fltA 0x02 paddr hp 0 false false)
          else s.withRanges w hp false [(paddr, 512)] go
        if !dst then params.keepDrain x seed
        else (s.withRanges w hd true (dwRanges x addr) (
          match s.rangesOut (s.h w hd) (dwRanges x addr) inScratch with
          | none => params
          | some va => .fault s (fltA 0x02 va hd 0 true false))).keepDrain x seed))

/-- MSAVE and MRESTORE (R247). -/
def opImage (w : Site) (gd ga h : RegField) (slot : BitVec 5) (z : BitVec 2) (restore : Bool) (s : State) : Out :=
  .next (s.issue w [.g gd.toNat, .g ga.toNat, .h h.toNat] fun s =>
    let c := w.core.val
    let k := s.core c
    let a := (s.g w ga).toNat
    let m := k.acc.mode slot.toNat
    if k.acc.queue.length ≥ 4 then .wait .none
    else if z ≠ 0 || h.toNat ≥ 16 then .fault s (flt 0x01)
    else s.unitBody w (
      if restore && decide (m.mode = 0) then .fault s (flt 0x21)
      else if a % 256 ≠ 0 then .fault s (fltA 0x02 a h.toNat 0 (!restore) false)
      else s.withRanges w h.toNat (!restore) [(a, 65536)] (
        match s.rangesOut (s.h w h.toNat) [(a, 65536)] (inOwnScratch c) with
        | some va => .fault s (fltA 0x02 va h.toNat 0 (!restore) false)
        | none => s.enterDrain w gd fun ord n =>
          ⟨if restore then 3 else 2, ord, n, w.strand.val, slot.toNat, m, 0, a, 0, s.h w h.toNat, 0, 0, false, [], 0, 0, false⟩)))

/-- MSAVE (R247). -/
def execMsave (w : Site) (gd ga h : RegField) (slot : BitVec 5) (z : BitVec 2) (s : State) : Out := opImage w gd ga h slot z false s

/-- MRESTORE (R247). -/
def execMrestore (w : Site) (gd ga h : RegField) (slot : BitVec 5) (z : BitVec 2) (s : State) : Out := opImage w gd ga h slot z true s

/-! ### The drain unit (R235-R246) -/

/-- The rows an item must handle before it completes. -/
def DrainItem.total (d : DrainItem) : Nat := if d.kind < 2 then dwNr d.word else 1

/-- R243: the item the drain unit is at: the first that has not read its last row; an item before it may still be completing. -/
def AccUnit.current (a : AccUnit) : Option (Nat × DrainItem) :=
  match a.queue.findIdx? fun d => decide (d.next < d.total) with
  | some i => a.queue[i]?.map fun d => (i, d)
  | none => none

/-- Replace an item of the drain unit's queue. -/
def State.setDrain (s : State) (c i : Nat) (d : DrainItem) : State :=
  s.modAcc c fun x => { x with queue := x.queue.set i d }

/-- DRAIN_START (R235, R243): the next item starts; with SCL or BIAS its parameter block is read once. `e` is what the check codes of
memory find. -/
def execDrainStart (core : Fin 256) (e : ErrMap) (s : State) : Out :=
  .next (
    let c := core.val
    match (s.core c).acc.current with
    | some (i, d) =>
      if d.started || d.kind ≥ 2 || s.podStopped c then s
      else if dwScl d.word || dwBias d.word then
        match s.trRange (hSeal d.hp) d.paddr 512 .read with
        | .ok ps =>
          if s.piecesWait ps then s else
          s.finding e fun s =>
            let r := s.coreRead c ps 0 (hHas d.hp rPIN) (some 1)
            r.1.setDrain c i { d with started := true, par := r.2 }
        | _ => if d.cancelled then s.setDrain c i { d with started := true } else s
      else s.setDrain c i { d with started := true }
    | none => s)

/-- A constant FP32 value of R238. -/
def f32One : Nat := 0x3F800000

/-- R238: the value that function `act` (2 GELU, 3 SiLU, 4 sigmoid, 5 tanh) approximates at a finite x. The tanh form of GELU is
x / (1 + e^-2u) for u = 0.797884561 (x + 0.044715 x^3). -/
def actExact (act : Nat) (x : Fv) : Fv :=
  let dec (n d : Nat) : Fv := (Fv.fin false n 0).div (.fin false d 0)
  match act with
  | 2 =>
    let u := (dec 797884561 1000000000).mul (x.add ((dec 44715 1000000).mul (x.mul (x.mul x))))
    x.mul (fvSigmoid (u.mul (.fin false 2 0)))
  | 3 => x.mul (fvSigmoid x)
  | 4 => fvSigmoid x
  | _ => fvTanh x

/-- R238: built-in function `act` (1 ReLU, 2 GELU, 3 SiLU, 4 sigmoid, 5 tanh) of an FP32 input. Within the rule's bound the result is
the free value `Config.transcend` (log entry 18). -/
def actBuiltin (act x : Nat) : Nat :=
  match f32 x with
  | .nan => 0x7FC00000
  | .inf neg =>
    match act with
    | 1 => if neg then 0 else x
    | 4 => if neg then 0 else f32One
    | 5 => if neg then 0xBF800000 else f32One
    | _ => if neg then 0x80000000 else x
  | .fin neg m _ =>
    if act = 1 then (if neg || m = 0 then 0 else x)
    else bounded32 2 true (actExact act (f32 x)) (Config.transcend act (BitVec.ofNat 32 x))

/-- The floor of an FP32 value, clamped to 0-63 (R239). A NaN takes piece 0, whose cubic in a NaN is NaN. -/
def pieceOf (s : Nat) : Nat :=
  match f32 s with
  | .nan => 0
  | .inf neg => if neg then 0 else 63
  | .fin neg m e => if neg || m = 0 then 0 else if 6 ≤ (m.log2 : Int) + e then 63 else min 63 (if 0 ≤ e then m * 2 ^ e.toNat else m / 2 ^ (-e).toNat)

/-- Coefficient `i` of piece `p` of activation table `t` (R256). -/
def AccUnit.coef (a : AccUnit) (t p i : Nat) : Nat :=
  elemAt (tget 0 a.atbl (128 * t + 2 * p + i / 2)).toNat 32 (i % 2)

/-- R239: evaluate activation table `t`. -/
def AccUnit.table (a : AccUnit) (t x : Nat) : Nat :=
  match f32 x with
  | .nan => 0x7FC00000
  | .inf neg => elemAt (tget 0 a.tinf t).toNat 32 (b2n neg)
  | .fin _ _ _ =>
    let s := f32Mul (f32Sub x (elemAt (tget 0 a.trng t).toNat 32 0)) (elemAt (tget 0 a.trng t).toNat 32 1)
    let p := pieceOf s
    let u := f32Sub s (toF32 (.fin false p 0))
    f32Fma (f32Fma (f32Fma (a.coef t p 3) u (a.coef t p 2)) u (a.coef t p 1)) u (a.coef t p 0)

/-- R242: what the epilogue saw of an element: nothing, an infinity, a NaN. -/
inductive Seen where
  | finite | inf | nan
  deriving DecidableEq, Repr

/-- Note one more value. -/
def Seen.note (x : Seen) (v : Fv) : Seen :=
  match v with
  | .nan => .nan
  | .inf _ => if x = .nan then .nan else .inf
  | .fin _ _ _ => x

/-- R236-R239: the FP32 value of an element after steps 1 to 3, with what was seen on the way. -/
def AccUnit.epilogue (a : AccUnit) (d : DrainItem) (e : W128) (j : Nat) : Nat × Seen :=
  let src := if d.mode.mode = 1 then wxToF32 d.mode.anchor e else fld e 31 0
  let sn := (Seen.finite.note (if d.mode.mode = 1 then wxValue d.mode.anchor e else f32 src)).note (f32 src)
  let x1 := if dwScl d.word then f32Mul src (leAt d.par (4 * j) 4) else src
  let x2 := if dwBias d.word then f32Add x1 (leAt d.par (256 + 4 * j) 4) else x1
  let act := dwAct d.word
  let x3 := if act = 0 then x2 else if act < 6 then actBuiltin act x2 else a.table (act - 6) x2
  (x3, ((sn.note (f32 x1)).note (f32 x2)).note (f32 x3))

/-- R83, R240: the rounding of element (i, j) of a drain. -/
def DrainItem.rnd (d : DrainItem) (i j : Nat) : Rnd :=
  if bit d.word 4 then .sr (philox d.seed j i d.slot 0) else .rne

/-- R84: the exponent of a block of FP32 values: none for a block with a non-finite value, `some none` for all zero. -/
def mxExp (fmt : Nat) (l : List Nat) : Option (Option Int) :=
  let emax : Int := match fmt with | 4 => 8 | 5 => 15 | 6 => 4 | 7 => 2 | 8 => 2 | _ => 0
  if l.any f32NonFinite then none
  else
    let es := l.filterMap fun x => match f32 x with | .fin _ m e => if m = 0 then none else some ((m.log2 : Int) + e) | _ => none
    match es with
    | [] => some none
    | e :: t => some (some (max (-127) (min 127 (t.foldl max e - emax))))

/-- The outputs of one slot row: encodings, MX scale bytes, and what was seen of each element. `bad` are the columns
that uncorrectable errors withhold (R258). -/
def AccUnit.drainRow (a : AccUnit) (d : DrainItem) (i : Nat) (bad : List Nat) : List Nat × List Nat × List Seen :=
  let x := d.word
  let fmt := dwFmt x
  let sat := !bit x 5
  let cols := List.range (dwNc x)
  if dwIpath x then
    let r := cols.map fun j =>
      let v := wxValue d.mode.anchor (a.elem d.slot i j)
      if bad.contains j then (0, Seen.finite)
      else (ofInt (fmtWidth fmt) (fvToInt (intRange fmt).1 (intRange fmt).2 (d.rnd i j) v), Seen.finite.note v)
    (r.map Prod.fst, [], r.map Prod.snd)
  else if d.mode.mode = 3 then
    let r := cols.map fun j =>
      let v := fvOf 0 (fld (a.elem d.slot i j) 63 0)
      let o := fvEnc fmt sat (d.rnd i j) v
      if bad.contains j then (0, Seen.finite) else (o, (Seen.finite.note v).note (if fmt ≤ 5 then fvOf fmt o else .fin false 0 0))
    (r.map Prod.fst, [], r.map Prod.snd)
  else
    let ep := cols.map fun j => if bad.contains j then (0, Seen.finite) else a.epilogue d (a.elem d.slot i j) j
    let out (j : Nat) (v : Fv) : Nat × Seen :=
      let o := fvEnc fmt sat (d.rnd i j) v
      (o, (ep.getD j (0, .finite)).2.note (if fmt ≤ 5 then fvOf fmt o else .fin false 0 0))
    if dwMx x then
      let blocks := (List.range ((dwNc x + 31) / 32)).map fun b =>
        let js := (List.range 32).filterMap fun o => if 32 * b + o < dwNc x then some (32 * b + o) else none
        (js, mxExp fmt ((js.filter fun j => !bad.contains j).map fun j => (ep.getD j (0, .finite)).1))
      let els := blocks.flatMap fun b => b.1.map fun j =>
        match b.2 with
        | some (some e) =>
          let v := f32 (ep.getD j (0, .finite)).1
          if bad.contains j then (0, Seen.finite) else out j (v.mul (.fin false 1 ((if fmt = 10 then 6 else 0) - e)))
        | _ => (0, (ep.getD j (0, .finite)).2)
      (els.map Prod.fst, blocks.map fun b => match b.2 with | none => 0xFF | some none => 0 | some (some e) => (e + 127).toNat, els.map Prod.snd)
    else
      let els := cols.map fun j => if bad.contains j then (0, Seen.finite) else out j (f32 (ep.getD j (0, .finite)).1)
      (els.map Prod.fst, [], els.map Prod.snd)

/-- R242: count non-finite elements; passing the threshold makes vector 38 pending; the loss monitor hears of them. -/
def State.countNonFinite (s : State) (c : Nat) (l : List Seen) : State :=
  let nans := (l.filter fun x => decide (x = .nan)).length
  let infs := (l.filter fun x => decide (x = .inf)).length
  if nans + infs = 0 then s
  else
    let a := (s.core c).acc
    let n' := satAdd 24 a.nan nans
    let i' := satAdd 24 a.infc infs
    let s := s.modAcc c fun x => { x with nan := n', infc := i' }
    let s := if a.thresh ≠ 0 && a.nan + a.infc ≤ a.thresh && a.thresh < n' + i' then s.pendVec c 38 else s
    s.lossNonFinite c (nans + infs)

/-- Write bytes to checked virtual memory of a unit; nothing where a page is gone. -/
def State.unitWrite (s : State) (c : Nat) (h : W128) (va : Nat) (b : List Byte) : State :=
  match s.trRange (hSeal h) va b.length .write with
  | .ok ps => s.coreWrite c ps b 0 (hHas h rPIN)
  | _ => s

/-- R234: write one output row and its scale bytes to their destination. -/
def State.writeDrainRow (s : State) (c : Nat) (d : DrainItem) (o : Nat) (els scales : List Nat) : State :=
  let x := d.word
  let g := groupOf d.strand
  let bpr := dwBpr x (cfgBpr (s.tcfgWord c g (dwTile x))) (d.kind = 0)
  let sp := dwSpan x bpr o
  let un := dwUnused x bpr o
  let zero : List Byte := List.replicate un.2 0
  let clear (row : BitVec 1024) : BitVec 1024 := if un.2 = 0 then row else rowPut row un.1 zero
  let b := leBytes sp.2 (packElems (fmtWidth (dwFmt x)) els)
  let sb := scales.map fun v => BitVec.ofNat 8 v
  if d.kind = 0 then
    let r := dwRowOf x o
    let t := dwTile x
    let st := cfgScale (s.tcfgWord c g t)
    let s := s.setTileRow c g t r (rowPut (clear (s.tileRow c g t r)) sp.1 b)
    if dwMx x then s.setTileRow c g st o (rowPut (s.tileRow c g st o) (2 * dwDcol x) sb) else s
  else
    let row := d.addr + dwStride x * dwRowOf x o
    let s := s.unitWrite c d.hd (row + sp.1) b
    let s := if un.2 = 0 then s else s.unitWrite c d.hd (row + un.1) zero
    if dwMx x then s.unitWrite c d.hd (d.addr + dwStride x * dwRows x + 16 * o + 2 * dwDcol x) sb else s

/-- R177: older users of the destination tile row. -/
def State.drainDestFree (s : State) (c : Nat) (d : DrainItem) (o : Nat) : Bool :=
  let g := groupOf d.strand
  let t := dwTile d.word
  d.kind != 0 || (s.mayWriteRow c g t (dwRowOf d.word o) d.ord &&
    (!dwMx d.word || s.mayWriteRow c g (cfgScale (s.tcfgWord c g t)) o d.ord))

/-- R486: a range of a unit's memory reaches the scratchpad of a parked pod. -/
def State.rangeParked (s : State) (h : W128) (va n : Nat) : Bool :=
  match s.trRange (hSeal h) va n .read with
  | .ok ps => s.piecesWait ps
  | _ => false

/-- R486: output row `o` of a drain to memory, or its scale bytes, reach the scratchpad of a parked pod. -/
def State.drainParked (s : State) (d : DrainItem) (o : Nat) : Bool :=
  let x := d.word
  let sp := dwSpan x (dwBpr x 0 false) o
  d.kind == 1 && !d.cancelled &&
    (s.rangeParked d.hd (d.addr + dwStride x * dwRowOf x o + sp.1) sp.2 ||
      (dwMx x && s.rangeParked d.hd (d.addr + dwStride x * dwRows x + 16 * o + 2 * dwDcol x) 2))

/-- DRAIN_ROW (R234, R236-R242, R246, R258): the next slot row of the running drain, once released, passes the epilogue and is
written; with CLR = 1 it is zeroed. A cancelled item writes nothing. `e` is what the check code finds in each column's element. -/
def execDrainRow (core : Fin 256) (e : ErrMap) (s : State) : Out :=
  .next (
    let c := core.val
    let k := s.core c
    match k.acc.current with
    | none => s
    | some (n, d) =>
      let x := d.word
      let i := dwRow0 x + d.next
      if !d.started || d.kind ≥ 2 || s.podStopped c || k.slotOwed d.slot i d.ord || !s.drainDestFree c d d.next ||
          s.drainParked d d.next then s
      else
        let cols := List.range (dwNc x)
        let bad := cols.filter fun j => decide (errAt e j = .uncorrectable)
        let r := k.acc.drainRow d i bad
        let s := cols.foldl (fun s j => s.accErr c d.slot i j (errAt e j)) s
        let s := if d.cancelled then s else s.writeDrainRow c d d.next r.1 r.2.1
        let s := s.countNonFinite c r.2.2
        let s := s.count c 0x2A 0 (dwNc x)
        let nf := (r.2.2.filter fun v => decide (v ≠ .finite)).length
        let s := if dwClr x then s.modAcc c fun u => u.zeroRow d.slot i else s
        s.setDrain c n { d with next := d.next + 1, nf := d.nf + nf })

/-- R248, R258: the bytes of a slot's image; the elements that uncorrectable errors withhold are zero. -/
def AccUnit.image (a : AccUnit) (slot : Nat) (bad : List Nat) : List Byte :=
  (List.range 4096).flatMap fun n =>
    if bad.contains n then List.replicate 16 0 else leBytes 16 (a.elem slot (n / 64) (n % 64)).toNat

/-- SAVE_RESTORE_RUN (R248, R258): the drain unit moves a slot image. `e` is what the check code finds in each element (64 x row +
column) that an MSAVE reads, `m` what the check codes of memory find. -/
def execSaveRestoreRun (core : Fin 256) (e m : ErrMap) (s : State) : Out :=
  .next (
    let c := core.val
    let k := s.core c
    match k.acc.current with
    | none => s
    | some (i, d) =>
      if d.kind < 2 || s.podStopped c || k.slotOwedAny d.slot d.ord || (!d.cancelled && s.rangeParked d.hd d.addr 65536) then s
      else s.finding m fun s =>
        let s' := s.setDrain c i { d with started := true, next := 1 }
        if d.kind = 2 then
          let s' := (List.range 4096).foldl (fun s n => s.accErr c d.slot (n / 64) (n % 64) (errAt e n)) s'
          if d.cancelled then s'
          else s'.unitWrite c d.hd d.addr (k.acc.image d.slot ((List.range 4096).filter fun n => decide (errAt e n = .uncorrectable)))
        else
          match s.trRange (hSeal d.hd) d.addr 65536 .read with
          | .ok ps =>
            if d.cancelled then s'
            else
              let r := s'.piecesRead ps 0 false
              r.1.modAcc c fun u => (List.range 4096).foldl (fun u n =>
                u.setElem d.slot (n / 64) (n % 64) (elemOf d.mode.mode (leAt r.2 (16 * n) 16))) u
          | _ => s')

/-- R255: the tile-done record of an item. -/
def DrainItem.tileDone (d : DrainItem) : W64 :=
  BitVec.ofNat 64 (d.seq.toNat + (if d.cancelled then 0x50 else 0) * 2 ^ 32 + d.slot % 32 * 2 ^ 40 + d.kind % 8 * 2 ^ 45 +
    (if d.kind = 0 then dwTile d.word else 0) * 2 ^ 48 + min d.nf 2047 * 2 ^ 52 + 2 ^ 63)

/-- DRAIN_COMPLETE (R244, R245): the head item, with every row written, records its tile-done word and advances DDONE. -/
def execDrainComplete (core : Fin 256) (s : State) : Out :=
  .next (
    let c := core.val
    match (s.core c).acc.queue with
    | [] => s
    | d :: rest =>
      if d.next < d.total || s.podStopped c then s
      else ((s.modAcc c fun x => { x with
        queue := rest, tdq := tset 0 x.tdq (d.seq.toNat % 16) d.tileDone, ddone := d.seq + 1 }).modCore c Core.settleTables).releaseTaskFences c)

/-! ### Registers with rows of their own -/

/-- ACT_TABLE_STORE (R239, R256): a strand's store to a table's register; held before issue while a drain that uses the table is left. -/
def execActTableStore (core : Fin 256) (off : BitVec 12) (value : BitVec 64) (s : State) : Out :=
  .next (
    match tableOf off.toNat with
    | none => s
    | some t =>
      if (s.core core.val).tableBusy t || off.toNat % 8 ≠ 0 then s
      else (s.modCore core.val Core.settleTables).modAcc core.val fun x => x.setTable off.toNat value)

/-- DRAIN_SEED_WRITE (R251). -/
def execDrainSeedWrite (core : Fin 256) (value : BitVec 64) (s : State) : Out :=
  .next (s.modAcc core.val fun x => { x with seed := value })

/-- ACC_CE_CLR (R257). -/
def execAccCeClr (core : Fin 256) (s : State) : Out :=
  .next (s.modAcc core.val fun x => { x with ecc := setFld x.ecc 15 0 0 })

/-- ACC_NF_CLR (R253): CLR zeroes NAN and INF. -/
def execAccNfClr (core : Fin 256) (s : State) : Out := .next (s.modAcc core.val fun x => { x with nan := 0, infc := 0 })

end Sys2Proof.Machine
end

