-- ==== Sys2Proof/Machine/HullInstr.lean ====
section
/-! DEFINITION. The hull instructions: HDERIVE, HSEAL, HCALL, HRET, HLD, HST, HCHK, HMOV, HCLR (R111-R132). -/

namespace Sys2Proof.Machine

/-- R119, R123: a hull destination: below 16 and not h15. -/
def hullDst (h : RegField) : Bool := decide (h.toNat < 15)

/-- R96, R123: a hull source: below 16. -/
def hullSrc (h : RegField) : Bool := decide (h.toNat < 16)

/-- R124: the fault of HDERIVE, or the derived hull. -/
def derive (s : State) (h : W128) (base len mask : Nat) : Nat ⊕ W128 :=
  if hType h = 0 || hMalformed h then .inl 0x08
  else if !s.live (hSeal h) then .inl 0x09
  else if hType h = 3 then .inl 0x0A
  else if !hHas h rDERIVE then .inl 0x0C
  else if !(decide (hBase h ≤ base) && decide (base + len ≤ hBase h + hLen h)) then .inl 0x0D
  else
    match canonLen base len with
    | none => .inl 0x0F
    | some (e, m) =>
      let r := (BitVec.ofNat 16 (hRights h)) &&& (BitVec.ofNat 16 mask) &&&
        (BitVec.ofNat 16 (rightsMask (hType h) (nfld base 55 48)))
      .inr (mkHull (hType h) r.toNat (hSeal h) e m base)

/-- HDERIVE (R124): g_b the new base, g_c the new length, g_r[15:0] the rights mask. -/
def execHderive (w : Site) (hd ha gb gc gr : RegField) (s : State) : Out :=
  .next (s.issue w [.h hd.toNat, .h ha.toNat, .g gb.toNat, .g gc.toNat, .g gr.toNat] fun s =>
    if !hullDst hd || !hullSrc ha then .fault s (flt 0x01)
    else
      match derive s (s.h w ha.toNat) (s.g w gb).toNat (s.g w gc).toNat (fld (s.g w gr) 15 0) with
      | .inl c => .fault s (fltA c (if c = 0x0D then (s.g w gb).toNat else 0) ha.toNat 0 false false)
      | .inr h => .done (s.setH w hd.toNat h))

/-- R125: the entry hull HSEAL makes of a memory hull. -/
def sealHull (h : W128) : W128 := mkHull 3 (1 + (if hHas h rPASS then rPASS else 0)) (hSeal h) 0 64 (hBase h)

/-- HSEAL (R125): a live memory hull with SEALABLE and HLOAD over exactly 64 aligned bytes. -/
def execHseal (w : Site) (hd ha : RegField) (s : State) : Out :=
  .next (s.issue w [.h hd.toNat, .h ha.toNat] fun s =>
    if !hullDst hd || !hullSrc ha then .fault s (flt 0x01)
    else
      let h := s.h w ha.toNat
      match hullCheck4 s h 1 (rSEALABLE + rHLOAD) with
      | some c => .fault s (fltH c ha.toNat)
      | none =>
        if hLen h ≠ 64 || hBase h % 64 ≠ 0 then .fault s (fltH 0x0D ha.toNat)
        else .done (s.setH w hd.toNat (sealHull h)))

/-- HMOV: hd takes ha (R123). -/
def execHmov (w : Site) (hd ha : RegField) (s : State) : Out :=
  .next (s.issue w [.h hd.toNat, .h ha.toNat] fun s =>
    if !hullDst hd || !hullSrc ha then .fault s (flt 0x01) else .done (s.setH w hd.toNat (s.h w ha.toNat)))

/-- HCLR: hd becomes null (R123). -/
def execHclr (w : Site) (hd : RegField) (s : State) : Out :=
  .next (s.issue w [.h hd.toNat] fun s =>
    if !hullDst hd then .fault s (flt 0x01) else .done (s.setH w hd.toNat 0))

/-- R127: what HCHK answers. -/
def hchk (s : State) (h : W128) (g : W64) (query : Nat) : W64 :=
  let ok := decide (hType h ≠ 0) && !hMalformed h && s.live (hSeal h)
  match query with
  | 0 => BitVec.ofNat 64 (hType h + b2n ok * 16 + hRights h * 2 ^ 16 + hSeal h * 2 ^ 32)
  | 1 => if hType h = 3 then 0 else BitVec.ofNat 64 (hBase h)
  | 2 => if hType h = 3 then 0 else BitVec.ofNat 64 (hLen h)
  | _ => boolW (ok && decide (hBase h ≤ g.toNat) && decide (g.toNat < hBase h + hLen h))

/-- HCHK (R127): never faults on the hull it examines. -/
def execHchk (w : Site) (gd ha gb : RegField) (query : BitVec 2) (s : State) : Out :=
  .next (s.issue w [.g gd.toNat, .h ha.toNat, .g gb.toNat] fun s =>
    if !hullSrc ha then .fault s (flt 0x01)
    else .done (s.setG w gd (hchk s (s.h w ha.toNat) (s.g w gb) query.toNat)))

/-- R126: the address of HLD and HST: g_a + off7 x 16. -/
def hullAddr (s : State) (w : Site) (ga : RegField) (off : BitVec 7) : Nat := (s.g w ga + (off.signExtend 64) * 16).toNat

/-- HLD (R126, R331): read the hull at its home slice, counted as a miss. -/
def execHld (w : Site) (hd ga hb : RegField) (off : BitVec 7) (s : State) : Out :=
  .next (s.issue w [.h hd.toNat, .g ga.toNat, .h hb.toNat] fun s =>
    if !hullDst hd || !hullSrc hb then .fault s (flt 0x01)
    else
      let a := hullAddr s w ga off
      if a % 16 ≠ 0 then .fault s (fltA 0x02 a hb.toNat 0 false false)
      else
        match hullCheck s (s.h w hb.toNat) 1 rHLOAD a 16 with
        | some c => .fault s (fltA c (if c = 0x0D then hullFailAt (s.h w hb.toNat) a else a) hb.toNat 0 false false)
        | none => s.onPage w (hSeal (s.h w hb.toNat)) a .hullRead hb.toNat fun pa _ s =>
            s.startMiss w pa 16 (.hreg hd.toNat) false false)

/-- HST (R122, R126): store hs into a hull page; a page of another domain needs the crossing rule. -/
def execHst (w : Site) (hd ga hb : RegField) (off : BitVec 7) (s : State) : Out :=
  .next (s.issue w [.h hd.toNat, .g ga.toNat, .h hb.toNat] fun s =>
    if !hullSrc hd || !hullSrc hb then .fault s (flt 0x01)
    else
      let a := hullAddr s w ga off
      let h := s.h w hd.toNat
      let auth := s.h w hb.toNat
      if a % 16 ≠ 0 then .fault s (fltA 0x02 a hb.toNat 0 true false)
      else
        match hullCheck s auth 1 rHSTORE a 16 with
        | some c => .fault s (fltA c (if c = 0x0D then hullFailAt auth a else a) hb.toNat 0 true false)
        | none => s.onPage w (hSeal auth) a .hullWrite hb.toNat fun pa _ s =>
            if decide (hSeal auth ≠ (s.strand w).dom) && !mayCross h (hSeal auth) then
              .fault s (fltH 0x0E hd.toNat)
            else s.pushStore w pa (leBytes 16 h.toNat) true)

/-! ### Cross-domain calls -/

/-- R303: the strand still owes stores that a crossing waits for. -/
def State.owesStores (s : State) (w : Site) : Bool :=
  (s.core w.core.val).wbuf.any fun e => decide (e.strand = w.strand.val)

/-- HCALL (R128): steps 1 and 2, then the entry block is read at its home slice; steps 4 and 5 and the switch follow in
MISS_DATA_DELIVER. A call into another domain waits for the strand's stores (R303). -/
def execHcall (w : Site) (ha : RegField) (s : State) : Out :=
  .next (s.issue w [.h ha.toNat, .h 1, .h 2, .h 3] fun s =>
    if !hullSrc ha then .fault s (flt 0x01)
    else
      let h := s.h w ha.toNat
      match hullCheck s h 3 1 (hBase h) 64 with
      | some c => .fault s (fltH c ha.toNat)
      | none =>
        if (s.strand w).frames.length ≥ 2 then .fault s (fltH 0x18 ha.toNat)
        else if (s.strand w).owesData then .wait (if (s.strand w).miss.isSome then .secondMiss else .none)
        else if decide (hSeal h ≠ (s.strand w).dom) && s.owesStores w then .wait .fence1
        else
          s.onPage w (hSeal h) (hBase h) .hullRead ha.toNat fun pa _ s =>
            .hold (((s.count w.core.val 0x11 w.strand.val 1).modStrand w fun t => { t with miss := some ⟨pa, 64, .hcall (hSeal h), [], (s.core w.core.val).serial, false, false⟩ }).park w .fill))

/-- R130: the caller's state after HRET: g1-g15, v0-v7 and h1-h3 keep the callee's values. -/
def Bank.returned (caller callee : Bank) : Bank :=
  { caller with
    pc := caller.pc + 4,
    g := tkeep (fun r => decide (r < 16)) callee.g ++ tkeep (fun r => decide (16 ≤ r)) caller.g,
    v := tkeep (fun r => decide (r < 8)) callee.v ++ tkeep (fun r => decide (8 ≤ r)) caller.v,
    h := tkeep (fun r => decide (r < 1)) caller.h ++ tkeep (fun r => decide (1 ≤ r) && decide (r < 4)) callee.h ++
      tkeep (fun r => decide (4 ≤ r)) caller.h }

/-- R129: the callee's state: g1-g15, v0-v7 and h1-h3 from the caller, h12-h15 from the block, the rest zero or null, pc
at the base of h15, whose bits [1:0] a PC does not have (R85). -/
def Bank.called (b : Bank) (slots : List W128) : Bank :=
  let h := tkeep (fun r => decide (1 ≤ r) && decide (r < 4)) b.h
  let h := tset 0 (tset 0 (tset 0 (tset 0 h 12 (slots.getD 0 0)) 13 (slots.getD 1 0)) 14 (slots.getD 2 0)) 15 (slots.getD 3 0)
  { Bank.reset with
    pc := BitVec.ofNat 57 (hBase (slots.getD 3 0)) &&& ~~~3,
    g := tkeep (fun r => decide (r < 16)) b.g,
    v := tkeep (fun r => decide (r < 8)) b.v,
    h := h }

/-- HRET (R130): FLT_HRET with no frame; the crossing rule for h1-h3; then the caller's state returns. The newest frame's state returns
into the running bank, whichever bank opened the frame (DESIGN CHOICE, log entry 127). -/
def execHret (w : Site) (s : State) : Out :=
  .next (s.issue w [.h 1, .h 2, .h 3] fun s =>
    let t := s.strand w
    match t.frames.getLast? with
    | none => .fault s (flt 0x1A)
    | some f =>
      match [1, 2, 3].find? fun r => !mayCross (s.h w r) f.dom with
      | some r => .fault s (fltH 0x0E r)
      | none =>
        if t.owesData then .wait t.dataPark
        else if decide (f.dom ≠ t.dom) && s.owesStores w then .wait .fence1
        else .hold ((s.dropBuf w).modStrand w fun t =>
          { (t.setBank (f.bank.returned t.bank)) with frames := t.frames.dropLast, dom := f.dom }))

/-- R128 steps 4 and 5 and R129: the entry block has arrived. -/
def State.hcallArrive (s : State) (w : Site) (dom : DomNo) (block : List Byte) : State :=
  let slot := fun i => BitVec.ofNat 128 (leNat (bytesAt block (16 * i) 16))
  let code : W128 := slot 3
  let bad := hType code ≠ 1 || hMalformed code || !s.live (hSeal code) || !hHas code rEXEC || decide (hSeal code ≠ dom)
  let s := s.modStrand w fun t => { t with miss := none, park := .none }
  if bad then s.takeFault w (flt 0x19)
  else
    match [1, 2, 3].find? fun r => !mayCross (s.h w r) dom with
    | some r => s.takeFault w (fltH 0x0E r)
    | none =>
      (s.dropBuf w).modStrand w fun t =>
        { (t.setBank (t.bank.called [slot 0, slot 1, slot 2, slot 3])) with
          frames := t.frames ++ [⟨t.bank, t.dom, t.cur⟩], dom := dom }

end Sys2Proof.Machine
end

