-- ==== Sys2Proof/Machine/SyncInstr.lean ====
section
/-! DEFINITION. The sync instructions and the events of the object store (R404-R420). -/

namespace Sys2Proof.Machine

/-- R413 steps 2 and 3: the hull, bounds, existence and REMOTE; answers whether the object is remote. -/
def syncCheck (s : State) (h : W128) (mask : Nat) (obj : Nat) (wait : Bool) : Nat ⊕ Bool :=
  match hullCheck4 s h 2 mask with
  | some c => .inl c
  | none =>
    let remote := decide (syncModule h ≠ s.moduleId.toNat)
    if obj ≥ 65536 || obj < syncFirst h || decide (syncFirst h + hLen h ≤ obj) then .inl 0x0D
    else if !remote && !s.objExists (hSeal h) obj then .inl 0x0D
    else if remote && !hHas h rREMOTE then .inl 0x0C
    else if remote && wait then .inl 0x0D
    else .inr remote

/-- R419, R422: a failed remote operation: SYN_RERR, event 0x331 and vector 37. -/
def State.remoteErr (s : State) (c status obj modu : Nat) : State :=
  let x : W64 := BitVec.ofNat 64 (status % 256 + obj % 65536 * 2 ^ 8 + modu % 4096 * 2 ^ 24 + 2 ^ 36)
  let s := { s with sync := { s.sync with rerr := tset 0 s.sync.rerr c x } }
  (s.raise 0x331 (srcCore c) status 0 (obj + modu * 2 ^ 16)).pendVec c 37

/-- R451: the OP field of a SYNC packet for an operation, and its 8 data bytes. -/
def ObjOp.wire : ObjOp → Nat × W64
  | .inc n => (0, BitVec.ofNat 64 n)
  | .dec n => (1, BitVec.ofNat 64 n)
  | .set v => (2, v)
  | .cfg v => (6, v)
  | .arrive => (3, 0)

/-- The SYNC packet of an operation on object `obj` of module `m`, from domain `dom` (R418, R451). -/
def syncPacket (m dom obj : Nat) (op : ObjOp) : Packet :=
  { Packet.to m with kind := 6, srcdom := dom, op := op.wire.1, addr := obj, data := leBytes 8 op.wire.2.toNat }

/-- R419: a posted remote operation: g_d takes 0 and a SYNC packet leaves; with 16 unacknowledged, or one of the strand's to another
module not yet performed, the strand is not ready; an operation without a usable route fails at injection. -/
def State.remoteOp (s : State) (w : Site) (gd : RegField) (dom obj modu : Nat) (op : ObjOp) : Res :=
  let c := w.core.val
  let l := tget [] s.sync.remote c
  if !s.canInject (dieOfCore c) modu then
    let s := s.remoteErr c 0x52 obj modu
    .done (s.setG w gd 0)
  else if l.length ≥ 16 || (l.any fun e => decide (e.2.2.2 = w.strand.val) && decide (e.2.2.1 ≠ modu)) || s.epochHeld (dieOfCore c) modu 3 then .wait .none
  else
    let tag := (s.findTag (min 65536 (s.link.tagTime.length + s.link.trackers.length + 1)) s.link.nextTag).getD 0
    match s.sendTracked (dieOfCore c) 3 (syncPacket modu dom obj op) (.sync c obj modu) with
    | none => .wait .none
    | some s => .done (({ s with sync := { s.sync with remote := tset [] s.sync.remote c (l ++ [(tag, obj, modu, w.strand.val)]) } } : State).setG w gd 0)

/-- R413, R414, R415: one signalling instruction: checks, stores first (R303), then the operation or the wait. `old` gives
the result from the word before. -/
def syncOp (w : Site) (gd ga gb : RegField) (h : BitVec 4) (mask : Nat) (narrow : Bool) (op : W64 → ObjOp)
    (old : W64 → W64) (s : State) : Out :=
  .next (s.issue w [.g gd.toNat, .g ga.toNat, .g gb.toNat, .h h.toNat] fun s =>
    let hv := s.h w h.toNat
    let obj := (s.g w ga).toNat
    let v := s.g w gb
    if narrow && decide (fld v 63 32 ≠ 0) then .fault s (flt 0x01)
    else
      match syncCheck s hv mask obj false with
      | .inl c => .fault s (fltH c h.toNat)
      | .inr true => if s.owesStores w then .wait .none else s.remoteOp w gd (hSeal hv) obj (syncModule hv) (op v)
      | .inr false =>
        let d := hSeal hv
        let x := s.objWord d obj
        match objApply x (op v) with
        | none => .fault s (fltH 0x38 h.toNat)
        | some x' =>
          if s.owesStores w then .wait .fence1
          else
            match op v with
            | .dec n =>
              let blocked := s.sync.waiters.any fun e => decide (e.dom = d) && decide (e.obj = obj) &&
                (match e.wait with | .ydec _ => true | _ => false)
              if objType x = 1 && (blocked || decide (fld x 31 0 < n)) then
                let s := s.objFetch d obj
                let s := s.addWaiter ⟨.strand w.core.val w.strand.val, d, obj, .ydec n⟩
                .hold (s.park w (.sync d obj gd.toNat (.ydec n)))
              else .done ((s.objPerform d obj (op v) x' 0).setG w gd (old x))
            | _ => .done ((s.objPerform d obj (op v) x' 0).setG w gd (old x)))

/-- YINC (R408): needs SIGNAL. -/
def execYinc (w : Site) (gd ga gb : RegField) (h : BitVec 4) (s : State) : Out :=
  syncOp w gd ga gb h rSIGNAL true (fun v => .inc v.toNat) (fun x => x) s
/-- YDEC (R408): needs SIGNAL. -/
def execYdec (w : Site) (gd ga gb : RegField) (h : BitVec 4) (s : State) : Out :=
  syncOp w gd ga gb h rSIGNAL true (fun v => .dec v.toNat) (fun x => x) s
/-- YSET (R408): needs SET. -/
def execYset (w : Site) (gd ga gb : RegField) (h : BitVec 4) (s : State) : Out :=
  syncOp w gd ga gb h rSET false (fun v => .set v) (fun x => x) s
/-- YSET with CFG (R408): needs SET and CONFIG. -/
def execYsetCfg (w : Site) (gd ga gb : RegField) (h : BitVec 4) (s : State) : Out :=
  syncOp w gd ga gb h (rSET + rCONFIG) false (fun v => .cfg v) (fun x => x) s
/-- YARRIVE (R410, R414): g_d takes PHASE before the arrival. -/
def execYarrive (w : Site) (gd ga gb : RegField) (h : BitVec 4) (s : State) : Out :=
  syncOp w gd ga gb h rSIGNAL false (fun _ => .arrive) (fun x => BitVec.ofNat 64 (fld x 47 32)) s

/-- R415: YWAIT with or without POLL. -/
def ywaitOp (w : Site) (gd ga gb : RegField) (h : BitVec 4) (poll : Bool) (s : State) : Out :=
  .next (s.issue w [.g gd.toNat, .g ga.toNat, .g gb.toNat, .h h.toNat] fun s =>
    let hv := s.h w h.toNat
    let obj := (s.g w ga).toNat
    match syncCheck s hv rWAIT obj true with
    | .inl c => .fault s (fltH c h.toNat)
    | .inr _ =>
      let d := hSeal hv
      let s := s.objFetch d obj
      let x := s.objWord d obj
      if poll then .done (s.setG w gd x)
      else if waitHolds x (s.g w gb) then .done (s.setG w gd (BitVec.ofNat 64 (objStatus x)))
      else
        let s := s.addWaiter ⟨.strand w.core.val w.strand.val, d, obj, .ywait (s.g w gb)⟩
        .hold (s.park w (.sync d obj gd.toNat (.ywait (s.g w gb)))))

/-- YWAIT (R415). -/
def execYwait (w : Site) (gd ga gb : RegField) (h : BitVec 4) (s : State) : Out := ywaitOp w gd ga gb h false s
/-- YWAIT with POLL = 1 (R415). -/
def execYwaitPoll (w : Site) (gd ga gb : RegField) (h : BitVec 4) (s : State) : Out := ywaitOp w gd ga gb h true s

/-- R419: a posted operation with tag `t` is acknowledged: a failure writes SYN_RERR, records 0x331 and makes vector 37
pending. -/
def State.syncAcked (s : State) (core t status : Nat) : State :=
  let l := tget [] s.sync.remote core
  match l.find? fun e => decide (e.1 = t) with
  | none => s
  | some e =>
    let s := { s with sync := { s.sync with remote := tset [] s.sync.remote core (l.filter fun x => decide (x.1 ≠ t)) } }
    if status = 0 then s else s.remoteErr core status e.2.1 e.2.2.1

/-- REMOTE_SYNC_ACK (R419): the acknowledgement of entry `k` of a core's posted operations, with its tracker. -/
def execRemoteSyncAck (core : Fin 256) (k : Fin 16) (status : BitVec 8) (s : State) : Out :=
  .next (
    match (tget [] s.sync.remote core.val)[k.val]? with
    | none => s
    | some e =>
      let s := { s with link := { s.link with trackers := s.link.trackers.filter fun t => decide (t.tag ≠ e.1) } }
      s.syncAcked core.val e.1 status.toNat)

/-- SPILL_FETCH (R420): the word of a non-resident object is fetched. -/
def execSpillFetch (dom : DomId) (obj : BitVec 16) (s : State) : Out :=
  .next (if s.objExists dom.toNat obj.toNat then s.objFetch dom.toNat obj.toNat else s)

/-- SYN_STAT_CLR (R422): FILLS and SPILLS become zero. -/
def execSynStatClr (die : Fin 4) (s : State) : Out :=
  .next { s with sync := { s.sync with fills := tset 0 s.sync.fills die.val 0, spills := tset 0 s.sync.spills die.val 0 } }

end Sys2Proof.Machine
end

