-- ==== Sys2Proof/Machine/Stream.lean ====
section
/-! DEFINITION. The stream engine: SSUB, SWAIT, the start checks, every operation over the iteration space, completion
(chapter 10). -/

namespace Sys2Proof.Machine

/-- An address modulo 2^64. -/
def addr64 (a : Int) : Nat := (a % ((2 ^ 64 : Nat) : Int)).toNat

/-! ### Descriptor fields (R264-R268) -/

/-- A tensor block (R266): its address or chain-buffer offset, format, location and strides. -/
structure TBlock where
  addr : Int
  fmt  : Nat
  loc  : Nat
  str  : List Int
  deriving DecidableEq, Repr

/-- The block at a byte offset of a descriptor. -/
def blockAt (d : List Byte) (o : Nat) : TBlock :=
  ⟨leAt d o 8, leAt d (o + 8) 1 % 16, leAt d (o + 9) 1, (List.range 5).map fun i => toSigned 32 (leAt d (o + 16 + 4 * i) 4)⟩

/-- X0, X1, X2, Y. -/
def dX0 (d : List Byte) : TBlock := blockAt d 64
/-- X1. -/
def dX1 (d : List Byte) : TBlock := blockAt d 112
/-- X2. -/
def dX2 (d : List Byte) : TBlock := blockAt d 160
/-- Y. -/
def dY (d : List Byte) : TBlock := blockAt d 208
/-- OP. -/
def dOp (d : List Byte) : Nat := leAt d 0 1
/-- RDIM. -/
def dRdim (d : List Byte) : Nat := leAt d 1 1 % 8
/-- RND. -/
def dRnd (d : List Byte) : Bool := (leAt d 1 1).testBit 3
/-- Saturating conversion: NOSAT clear. -/
def dSat (d : List Byte) : Bool := !(leAt d 1 1).testBit 4
/-- SALT. -/
def dSalt (d : List Byte) : Nat := leAt d 4 4
/-- SEED. -/
def dSeed (d : List Byte) : W64 := BitVec.ofNat 64 (leAt d 8 8)
/-- The five sizes. -/
def dShape (d : List Byte) : List Nat := (List.range 5).map fun i => leAt d (16 + 2 * i) 2 + 1
/-- S0. -/
def dS0 (d : List Byte) : Nat := leAt d 32 4
/-- S1. -/
def dS1 (d : List Byte) : Nat := leAt d 36 4
/-- WAIT. -/
def dWait (d : List Byte) : W64 := BitVec.ofNat 64 (leAt d 40 8)
/-- SIGNAL. -/
def dSignal (d : List Byte) : W64 := BitVec.ofNat 64 (leAt d 48 8)
/-- The product of a shape. -/
def shapeSize (l : List Nat) : Nat := l.foldl (· * ·) 1

/-- R269: operation classes. -/
inductive StrClass where
  | elem (inputs : Nat)
  | trans
  | reduce
  | gather | scatter | scatadd | route
  deriving DecidableEq, Repr

/-- R269: the listed operations. -/
def strClass (op : Nat) : Option StrClass :=
  match op with
  | 0x01 => some (.elem 2) | 0x02 => some (.elem 2) | 0x03 => some (.elem 2) | 0x04 => some (.elem 3)
  | 0x05 => some (.elem 1) | 0x06 => some (.elem 1) | 0x07 => some (.elem 1) | 0x08 => some (.elem 2)
  | 0x09 => some (.elem 2) | 0x0A => some (.elem 2) | 0x0B => some (.elem 2) | 0x0C => some (.elem 2)
  | 0x0D => some (.elem 3) | 0x0E => some (.elem 1)
  | 0x10 => some .trans | 0x11 => some .trans | 0x12 => some .trans | 0x13 => some .trans | 0x14 => some .trans
  | 0x15 => some .trans | 0x18 => some (.elem 1)
  | 0x20 => some .reduce | 0x21 => some .reduce | 0x22 => some .reduce | 0x23 => some .reduce
  | 0x28 => some .gather | 0x29 => some .scatter | 0x2A => some .scatadd | 0x30 => some .route
  | _ => none

/-- R269: the input blocks and the output blocks of a class. -/
def strBlocks (d : List Byte) (c : StrClass) : List TBlock × List TBlock :=
  match c with
  | .elem n => ([dX0 d, dX1 d, dX2 d].take n, [dY d])
  | .trans => ([dX0 d], [dY d])
  | .reduce => ([dX0 d], [dY d])
  | .route => ([dX0 d, dX1 d], [dX2 d, dY d])
  | _ => ([dX0 d, dX1 d], [dY d])

/-- The offsets of the blocks a class leaves unused. -/
def strUnused (c : StrClass) : List Nat :=
  match c with
  | .elem 3 => []
  | .elem 2 => [160]
  | .elem _ => [112, 160]
  | .trans => [112, 160]
  | .reduce => [112, 160]
  | .route => []
  | _ => [160]

/-- R281 check 5: the structure. -/
def strStructOk (d : List Byte) (c : StrClass) : Bool :=
  let ctrl : W64 := BitVec.ofNat 64 (leAt d 0 8)
  let sh := dShape d
  let used := (strBlocks d c).1 ++ (strBlocks d c).2
  let usedAt := [64, 112, 160, 208].filter fun o => !(strUnused c).contains o
  let st (b : TBlock) (i : Nat) : Int := b.str.getD i 0
  let w := dWait d
  let g := dSignal d
  let tableOk (t : TBlock) : Bool := 1 ≤ dS0 d && dS0 d < 2 ^ 31 && (List.range 4).all fun i => st t (i + 1) == 0
  fld ctrl 31 13 == 0 && zeroBytes d 26 6 && zeroBytes d 56 8 &&
  (if c = .reduce then decide (dRdim d ≤ 4) else dRdim d == 0) &&
  used.all (fun b => b.loc == 1 || (8 ≤ b.loc && b.loc < 16 && b.addr < 16384)) &&
  usedAt.all (fun o => zeroBytes d (o + 10) 6 && zeroBytes d (o + 36) 12 && leAt d (o + 8) 1 < 16) &&
  (strUnused c).all (fun o => zeroBytes d o 48) && decide (shapeSize sh ≤ 2 ^ 32) &&
  (match c with
    | .reduce => st (dY d) (dRdim d) == 0
    | .gather => tableOk (dX0 d)
    | .scatter => tableOk (dY d)
    | .scatadd => tableOk (dY d)
    | .route =>
      sh.getD 3 1 == 1 && sh.getD 4 1 == 1 && st (dX0 d) 2 == 0 && st (dX1 d) 0 == 0 && st (dX2 d) 0 == 0 &&
      1 ≤ dS0 d && dS0 d ≤ 65536 && dS1 d / 2 ^ 28 == 0 && dS1 d % 65536 + dS1 d / 65536 % 4096 ≤ 65535
    | _ => true) &&
  fld w 1 0 != 3 && fld w 7 2 == 0 && fld w 31 24 == 0 && (fld w 1 0 != 0 || fld w 63 32 == 0) &&
  fld g 1 0 != 3 && fld g 7 2 == 0 && fld g 31 24 == 0 && fld g 63 48 == 0 &&
  (if fld g 1 0 = 1 then fld g 47 32 != 0 else fld g 47 32 == 0)

/-- R270: float and integer stream formats. -/
def strFloat (f : Nat) : Bool := [1, 2, 3, 4, 5].contains f
/-- An integer stream format. -/
def strInt (f : Nat) : Bool := [10, 11, 13].contains f

/-- R270: the formats of a descriptor. -/
def strFormatOk (d : List Byte) (c : StrClass) : Bool :=
  let bl := strBlocks d c
  (bl.1 ++ bl.2).all (fun b => strFloat b.fmt || strInt b.fmt) &&
  match c with
  | .reduce => strFloat (dX0 d).fmt && (if dOp d = 0x22 then (dY d).fmt == 13 else strFloat (dY d).fmt)
  | .gather => (dX1 d).fmt == 13 && (dX0 d).fmt == (dY d).fmt
  | .scatter => (dX1 d).fmt == 13 && (dX0 d).fmt == (dY d).fmt
  | .scatadd => (dX1 d).fmt == 13 && strFloat (dX0 d).fmt && strFloat (dY d).fmt
  | .route => (dX1 d).fmt == 13 && (dX2 d).fmt == 13 && (dX0 d).fmt == (dY d).fmt
  | _ => true

/-- The element size of a block in bytes. -/
def TBlock.width (b : TBlock) : Nat := fmtWidth b.fmt / 8

/-- R263: the box of a block over an extent: lowest address and length in bytes. -/
def TBlock.box (b : TBlock) (ext : List Nat) : Int × Nat :=
  let offs := (List.range 5).map fun i => ((ext.getD i 1 : Nat) - 1 : Int) * b.str.getD i 0 * b.width
  let lo := offs.foldl (fun n x => n + min 0 x) 0
  let hi := offs.foldl (fun n x => n + max 0 x) 0
  (b.addr + lo, (hi - lo).toNat + b.width)

/-- R263, R277, R278: the extent over which a block is used: the shape, a table's entries, or the outputs of ROUTE. -/
def strExtent (d : List Byte) (c : StrClass) (b : TBlock) (isX0 isY : Bool) : List Nat :=
  let sh := dShape d
  match c with
  | .gather => if isX0 then [dS0 d, 1, 1, 1, 1] else sh
  | .scatter => if isY then [dS0 d, 1, 1, 1, 1] else sh
  | .scatadd => if isY then [dS0 d, 1, 1, 1, 1] else sh
  | .route => if isY then [sh.getD 0 1, dS0 d, dS1 d / 65536 % 4096 + 1, 1, 1] else sh
  | _ => if b.loc = 0 then [] else sh

/-- The boxes of a descriptor: block, box, and whether it is an output. -/
def strBoxes (d : List Byte) (c : StrClass) : List (TBlock × (Int × Nat) × Bool) :=
  let bl := strBlocks d c
  (bl.1.mapIdx fun i b => (b, b.box (strExtent d c b (i == 0) false), false)) ++
  (bl.2.mapIdx fun i b => (b, b.box (strExtent d c b false (i + 1 == bl.2.length)), true))

/-- Two boxes share a byte of one storage (R282). -/
def boxesMeet (a b : TBlock × (Int × Nat) × Bool) : Bool :=
  a.1.loc == b.1.loc && decide (a.2.1.1 < b.2.1.1 + b.2.1.2) && decide (b.2.1.1 < a.2.1.1 + a.2.1.2)

/-- R282: the overlap rule holds. -/
def strOverlapOk (d : List Byte) (c : StrClass) : Bool :=
  let bx := strBoxes d c
  let ins := bx.filter fun b => !b.2.2
  let outs := bx.filter fun b => b.2.2
  let inplace := match c with | .elem _ => true | .trans => true | _ => false
  outs.all (fun o => ins.all fun i => !boxesMeet o i || (inplace && decide (o.1 = i.1))) &&
  (c != .route || !boxesMeet (outs.getD 0 (dX2 d, (0, 0), true)) (outs.getD 1 (dY d, (0, 0), true)))

/-! ### SSUB and SWAIT (R280-R284) -/

/-- R281 check 10: `ht` over every scratchpad box: UNIT with READ or WRITE. -/
def strHullFault (s : State) (h : W128) (hreg : Nat) (l : List (TBlock × (Int × Nat) × Bool)) : Option Flt :=
  l.findSome? fun b =>
    if b.1.loc ≠ 1 then none
    else
      let lo := (addr64 b.2.1.1)
      (hullCheck s h 1 (rUNIT + if b.2.2 then rWRITE else rREAD) lo b.2.1.2).map fun c =>
        fltA c (if c = 0x0D then hullFailAt h lo else lo) hreg 0 b.2.2 false

/-- R281 check 7: each address is a multiple of its element size. -/
def strAligned (d : List Byte) (c : StrClass) : Bool := (strBoxes d c).all fun b => decide (b.1.addr % (b.1.width : Int) = 0)

/-- R153, R281: the fault of the first block that is not aligned; a chain-buffer offset is no address. -/
def strAlignFlt (d : List Byte) (c : StrClass) (ht : Nat) : Flt :=
  match (strBoxes d c).find? fun b => decide (b.1.addr % (b.1.width : Int) ≠ 0) with
  | some b => if b.1.loc = 1 then fltA 0x02 (addr64 b.1.addr) ht 0 b.2.2 false else flt 0x02
  | none => flt 0x02

/-- R281 check 11: the objects a descriptor names: right needed, object. -/
def strObjects (d : List Byte) (c : StrClass) : List (Nat × Nat) :=
  (if fld (dWait d) 1 0 = 2 then [(rWAIT, fld (dWait d) 23 8)] else []) ++
  (if fld (dSignal d) 1 0 ≠ 0 then [(rSIGNAL, fld (dSignal d) 23 8)] else []) ++
  (if c = .route then (List.range (dS1 d / 65536 % 4096 + 1)).map fun e => (rSIGNAL, dS1 d % 65536 + e) else [])

/-- SSUB (R280-R283). A strand is not ready for it while the queue is full. -/
def execSsub (w : Site) (gd ga : RegField) (z : Bool) (hd ht hs : BitVec 4) (z2 : BitVec 2) (e : ErrMap) (s : State) : Out :=
  .next (s.issue w [.g gd.toNat, .g ga.toNat, .h hd.toNat, .h ht.toNat, .h hs.toNat] fun s =>
    let c := w.core.val
    let a := (s.g w ga).toNat
    let k := s.core c
    if k.str.queue.length ≥ 16 then .wait .none
    else if z || z2 ≠ 0 then .fault s (flt 0x01)
    else s.unitBody w (
      if a % 64 ≠ 0 then .fault s (fltA 0x02 a hd.toNat 0 false false)
      else s.withRanges w hd.toNat false [(a, 256)] (
        match s.trRange (hSeal (s.h w hd.toNat)) a 256 .read with
        | .ok ps =>
          if s.piecesWait ps then .wait .none else
          let r := s.reading e fun s => s.coreRead c ps 0 (hHas (s.h w hd.toNat) rPIN) (some 1)
          let s := r.1
          let d := r.2
          match strClass (dOp d) with
          | none => .fault s (flt 0x30)
          | some cl =>
            if !strStructOk d cl then .fault s (flt 0x30)
            else if !strFormatOk d cl then .fault s (flt 0x20)
            else if !strAligned d cl then .fault s (strAlignFlt d cl ht.toNat)
            else if (strBoxes d cl).any fun b => b.1.loc != 1 && (decide (b.2.1.1 < 0) || decide (16384 < b.2.1.1 + b.2.1.2)) then
              .fault s (flt 0x30)
            else if !strOverlapOk d cl then .fault s (flt 0x30)
            else
              match strHullFault s (s.h w ht.toNat) ht.toNat (strBoxes d cl) with
              | some f => .fault s f
              | none =>
                match (strObjects d cl).findSome? fun o => localSyncFault s (s.h w hs.toNat) o.1 o.2 with
                | some code => .fault s (fltH code hs.toNat)
                | none =>
                  let q := s.takeOrd c
                  let n := k.str.snext
                  let it : StreamItem := ⟨n, (s.core c).serial, q.2, d, s.h w hd.toNat, s.h w ht.toNat, s.h w hs.toNat, false, false, 0, 0, [], false⟩
                  let s := q.1.modCore c fun k => { k with str := { k.str with queue := k.str.queue ++ [it], snext := n + 1 } }
                  .done (s.setG w gd (n.setWidth 64))
        | _ => .wait .none)))

/-- SWAIT (R284): the status of a completed descriptor, or LOST; else the strand waits. -/
def execSwait (w : Site) (gd ga : RegField) (z : BitVec 15) (s : State) : Out :=
  .next (s.issue w [.g gd.toNat, .g ga.toNat] fun s =>
    if z ≠ 0 then .fault s (flt 0x01)
    else s.unitBody w (
      let n : W32 := (s.g w ga).setWidth 32
      let u := (s.core w.core.val).str
      if seqDone u.sdone n then
        let r := tget 0 u.records (n.toNat % 16)
        .done (s.setG w gd (if fld r 31 0 = n.toNat && bit r 63 then BitVec.ofNat 64 (fld r 39 32) else 0x100))
      else .hold (s.park w (.swait n gd.toNat))))

/-! ### Elements -/

/-- R262: the coordinates of linear index `n`. -/
def coordsOf : List Nat → Nat → List Nat
  | [], _ => []
  | d :: t, n => n % d :: coordsOf t (n / d)

/-- R262: the address of a block's element. -/
def TBlock.at (b : TBlock) (i : List Nat) : Int :=
  (List.range 5).foldl (fun a d => a + (i.getD d 0 : Nat) * b.str.getD d 0 * b.width) b.addr

/-- What the engine runs under: the core, and the domain of the hull over the scratchpad boxes. -/
structure StrEnv where
  core : Nat
  dom  : DomNo
  deriving DecidableEq, Repr

/-- The running totals of a descriptor: NaN elements, other non-finite elements, indices out of range, drops, and the granules whose
errors it has met (as `ErrMap` numbers them). -/
structure StrTally where
  nan  : Nat
  inf  : Nat
  oob  : Nat
  drop : Nat
  seen : List Nat
  deriving DecidableEq, Repr

/-- R294: what reading a chain buffer finds. -/
def State.chainErr (s : State) (c buf gran : Nat) (e : MemErr) : State :=
  match e with
  | .corrected =>
    (s.modCore c fun k => { k with str := { k.str with ecc := setFld k.str.ecc 15 0 (satAdd 16 (fld k.str.ecc 15 0) 1) } }).raise
      0x23A (srcCore c) buf 0 gran
  | .uncorrectable =>
    let d := (s.core c).domain
    let s := s.modCore c fun k => { k with str := { k.str with
      ecc := setFld (setFld (setBit k.str.ecc 17 true) 20 18 buf) 30 21 gran } }
    (s.raise 0x23B (srcCore c) buf d gran).wantRevoke d
  | _ => s

/-- R294, R301: a read of the granule numbered `key` is checked: what the code finds is noted once, at the first read. -/
def strCheck (key : Nat) (note : State → MemErr → State) (st : State × StrTally) : (State × StrTally) × Bool :=
  let e := errAt st.1.check key
  if !isArrayErr e then (st, false)
  else if st.2.seen.contains key then (st, decide (e = .uncorrectable))
  else ((note st.1 e, { st.2 with seen := st.2.seen ++ [key] }), decide (e = .uncorrectable))

/-- Read an element: none where its chain-buffer data is withheld (R294); zero where its scratchpad granule is uncorrectable (R301). -/
def strGet (v : StrEnv) (b : TBlock) (i : List Nat) (st : State × StrTally) : (State × StrTally) × Option Nat :=
  let a := (b.at i).toNat
  if b.loc = 1 then
    match st.1.translate v.dom a .read with
    | .ok pa _ =>
      let r := strCheck (pa / 16) (fun s e => s.scratchErr pa e) st
      (r.1, some (if r.2 then 0 else leNat (st.1.homeBytes pa b.width)))
    | _ => (st, some 0)
  else
    let g := (b.loc - 8) * 1024 + a / 16
    let r := strCheck (2 ^ 60 + g) (fun s e => s.chainErr v.core (b.loc - 8) (a / 16) e) st
    (r.1, if r.2 then none else some (leNat (memBytes (st.1.core v.core).str.chain (16 * g + a % 16) b.width)))

/-- Read elements in turn. -/
def strGets (v : StrEnv) : List (TBlock × List Nat) → State × StrTally → (State × StrTally) × List (Option Nat)
  | [], st => (st, [])
  | x :: t, st =>
    let r := strGet v x.1 x.2 st
    let q := strGets v t r.1
    (q.1, r.2 :: q.2)

/-- Write an element. -/
def State.strPut (s : State) (v : StrEnv) (b : TBlock) (i : List Nat) (x : Nat) : State :=
  let a := (b.at i).toNat
  if b.loc = 1 then
    match s.translate v.dom a .write with
    | .ok pa _ => s.writeMem pa (leBytes b.width x)
    | _ => s
  else s.modCore v.core fun k => { k with str := { k.str with chain := memPut k.str.chain ((b.loc - 8) * 16384 + a) (leBytes b.width x) } }

/-- A scalar operand: FP32 in float compute, INT32 in integer compute (R271, R272). -/
def scalarOf (isInt : Bool) (x : Nat) : Fv := if isInt then .ofInt (toSigned 32 x) else f32 x

/-- 1 or 0. -/
def Fv.ofBool (b : Bool) : Fv := .ofInt (if b then 1 else 0)

/-- R269, R271-R273: the exact result of an element-wise operation. -/
def strElem (op : Nat) (a b c s0 s1 : Fv) (cZero : Bool) : Fv :=
  match op with
  | 0x01 => a.add b
  | 0x02 => a.add b.neg
  | 0x03 => a.mul b
  | 0x04 => (a.mul b).add c
  | 0x05 => (a.mul s0).add s1
  | 0x06 => match a with | .nan => .nan | .inf _ => .inf false | .fin _ m e => .fin false m e
  | 0x07 => a.neg
  | 0x08 => a.min b
  | 0x09 => a.max b
  | 0x0A => .ofBool (a.eq b)
  | 0x0B => .ofBool (a.lt b)
  | 0x0C => .ofBool (a.lt b || a.eq b)
  | 0x0D => if cZero then b else a
  | 0x0E => (a.max s0).min s1
  | _ => a

/-- R274: the value that EXP2 (0x10), LOG2 (0x11), RSQRT (0x13), TANH (0x14) or ERF (0x15) approximates at m x 2^e, m above 0. -/
def transExact (op : Nat) (neg : Bool) (m : Nat) (e : Int) : Fv :=
  match op with
  | 0x10 => fvExp2 (.fin neg m e)
  | 0x11 => fvLog2 m e
  | 0x13 => fvRsqrt m e
  | 0x14 => fvTanh (.fin neg m e)
  | _ => fvErf (.fin neg m e)

/-- R274: a transcendental of an FP32 input; within the rule's bound the result is the free value `Config.transcend` (log entry 18). -/
def strTrans (op x : Nat) : Nat :=
  match f32 x with
  | .nan => 0x7FC00000
  | .inf neg =>
    match op with
    | 0x10 => if neg then 0 else 0x7F800000
    | 0x11 => if neg then 0x7FC00000 else 0x7F800000
    | 0x12 => if neg then 0x80000000 else 0
    | 0x13 => if neg then 0x7FC00000 else 0
    | _ => if neg then 0xBF800000 else f32One
  | .fin neg m e =>
    if m = 0 then
      match op with
      | 0x10 => f32One
      | 0x11 => 0xFF800000
      | 0x12 => if neg then 0xFF800000 else 0x7F800000
      | 0x13 => if neg then 0xFF800000 else 0x7F800000
      | _ => x
    else if op = 0x12 then toF32 ((f32 f32One).div (f32 x))
    else if neg && (op = 0x11 || op = 0x13) then 0x7FC00000
    else bounded32 (if op = 0x13 then 1 else 2) (op != 0x13) (transExact op neg m e) (Config.transcend op (BitVec.ofNat 32 x))

/-- R291: one written element: its value before conversion and its encoding. -/
def StrTally.note (t : StrTally) (fmt : Nat) (v : Fv) (x : Nat) : StrTally :=
  let o := if fmt ≤ 5 then fvOf fmt x else .fin false 0 0
  if v = .nan || o = .nan then { t with nan := t.nan + 1 }
  else if v.nonFinite || o.nonFinite then { t with inf := t.inf + 1 }
  else t

/-- R279: the rounding at a point. -/
def strRnd (d : List Byte) (n : Nat) : Rnd := if dRnd d then .sr (philox (dSeed d) n 0 (dSalt d) 1) else .rne

/-- Convert, write and count one result. -/
def strWrite (d : List Byte) (v : StrEnv) (n : Nat) (i : List Nat) (x : Fv) (st : State × StrTally) : State × StrTally :=
  let y := dY d
  let o := fvEnc y.fmt (dSat d) (strRnd d n) x
  (st.1.strPut v y i o, st.2.note y.fmt x o)

/-- One point of an element-wise operation or a transcendental. The rules do not say how an INT32 input of a transcendental becomes FP32
(R274, R82): here it is rounded once by RNE, whatever RND selects (DESIGN CHOICE, log entry 27). -/
def strPoint (d : List Byte) (c : StrClass) (v : StrEnv) (n : Nat) (st : State × StrTally) : State × StrTally :=
  let i := coordsOf (dShape d) n
  let ins := (strBlocks d c).1
  let q := strGets v (ins.map fun b => (b, i)) st
  if q.2.any Option.isNone then q.1
  else
    let xs := (ins.zip q.2).map fun y => fvOf y.1.fmt (y.2.getD 0)
    let x (j : Nat) : Fv := xs.getD j (.fin false 0 0)
    let isInt := ins.all (fun b => strInt b.fmt) && strInt (dY d).fmt
    let r := if c = .trans then f32 (strTrans (dOp d) (toF32 (x 0)))
      else strElem (dOp d) (x 0) (x 1) (x 2) (scalarOf isInt (dS0 d)) (scalarOf isInt (dS1 d)) (x 2).isZero
    strWrite d v n i r q.1

/-- R275: fold the 128 partials by halves. -/
def foldHalves : Nat → List Nat → List Nat
  | 0, p => p
  | fuel + 1, p =>
    let w := p.length / 2
    foldHalves fuel ((List.range w).map fun l => f32Add (p.getD l 0) (p.getD (l + w) 0))

/-- R275, R276: the result of a reduction over its inputs. -/
def strReduce (op : Nat) (xs : List Fv) : Fv :=
  let ps (sq : Bool) : List Nat := (xs.mapIdx fun k x => (k, x)).foldl (fun (p : List Nat) e =>
    p.modify (e.1 % 128) fun q => toF32 ((f32 q).add (if sq then e.2.mul e.2 else e.2))) (List.replicate 128 0)
  let top := xs.foldl Fv.max (xs.headD .nan)
  match op with
  | 0x20 => f32 ((foldHalves 7 (ps false)).headD 0)
  | 0x23 => f32 ((foldHalves 7 (ps true)).headD 0)
  | 0x21 => top
  | _ =>
    let k := (xs.findIdx? fun x => if top = .nan then decide (x = .nan) else !x.lt top && !top.lt x && (x.sign == top.sign || !x.isZero)).getD 0
    .ofInt (k : Nat)

/-- One output point of a reduction: `n` is its linear index with D_RDIM taken as 1 (R279). -/
def strReducePoint (d : List Byte) (v : StrEnv) (n : Nat) (st : State × StrTally) : State × StrTally :=
  let r := dRdim d
  let sh := dShape d
  let i := coordsOf (sh.set r 1) n
  let x0 := dX0 d
  let q := strGets v ((List.range (sh.getD r 1)).map fun k => (x0, i.set r k)) st
  if q.2.any Option.isNone then q.1
  else strWrite d v n i (strReduce (dOp d) (q.2.map fun x => fvOf x0.fmt (x.getD 0))) q.1

/-- One point of GATHER, SCATTER or SCATADD (R277). -/
def strIndexPoint (d : List Byte) (c : StrClass) (v : StrEnv) (n : Nat) (st : State × StrTally) : State × StrTally :=
  let i := coordsOf (dShape d) n
  let r := strGet v (dX1 d) i st
  match r.2 with
  | none => r.1
  | some ix =>
    let st := r.1
    let e := toSigned 32 ix
    let y := dY d
    let inRange := decide (0 ≤ e) && decide (e < (dS0 d : Nat))
    let at0 := [e.toNat, 0, 0, 0, 0]
    let oob : StrTally := { st.2 with oob := st.2.oob + 1 }
    if c = .gather then
      if inRange then
        let q := strGet v (dX0 d) at0 st
        match q.2 with
        | some x => (q.1.1.strPut v y i x, q.1.2.note y.fmt (fvOf y.fmt x) x)
        | none => q.1
      else (st.1.strPut v y i 0, oob)
    else if !inRange then (st.1, oob)
    else
      let q := strGet v (dX0 d) i st
      match q.2 with
      | none => q.1
      | some x =>
        if c = .scatter then (q.1.1.strPut v y at0 x, q.1.2.note y.fmt (fvOf y.fmt x) x)
        else
          let o := strGet v y at0 q.1
          match o.2 with
          | none => o.1
          | some old => strWrite d v n at0 ((fvOf y.fmt old).add (fvOf (dX0 d).fmt x)) o.1

/-- One (choice, token) pair of ROUTE (R278): pair `p` is choice p div T of token p mod T. -/
def strRoutePair (d : List Byte) (v : StrEnv) (p : Nat) (st : (State × StrTally) × Table Nat) : (State × StrTally) × Table Nat :=
  let sh := dShape d
  let t := p % sh.getD 1 1
  let c := p / sh.getD 1 1
  let pos (x : Nat) (s : State) : State := s.strPut v (dX2 d) [0, t, c, 0, 0] x
  let q := strGet v (dX1 d) [0, t, c, 0, 0] st.1
  match q.2 with
  | none => (q.1, st.2)
  | some ex =>
    let e := toSigned 32 ex
    let experts := dS1 d / 65536 % 4096 + 1
    let n := tget 0 st.2 e.toNat
    if e = -1 then ((pos 0xFFFFFFFF q.1.1, q.1.2), st.2)
    else if e < -1 || (experts : Int) ≤ e || n = dS0 d then
      ((pos 0xFFFFFFFF q.1.1, { q.1.2 with drop := q.1.2.drop + 1 }), st.2)
    else
      let r := (List.range (sh.getD 0 1)).foldl (fun (a : State × StrTally) i0 =>
        let g := strGet v (dX0 d) [i0, t, 0, 0, 0] a
        match g.2 with
        | some x => (g.1.1.strPut v (dY d) [i0, n, e.toNat, 0, 0] x, g.1.2.note (dY d).fmt (fvOf (dY d).fmt x) x)
        | none => g.1) q.1
      ((pos n r.1, r.2), tset 0 st.2 e.toNat (n + 1))

/-- R262, R289: the whole element phase: the state, the tallies and the counts of ROUTE. -/
def State.strRun (s : State) (d : List Byte) (c : StrClass) (v : StrEnv) : (State × StrTally) × Table Nat :=
  let sh := dShape d
  let st0 : State × StrTally := (s, ⟨0, 0, 0, 0, []⟩)
  let points (n : Nat) (f : Nat → State × StrTally → State × StrTally) : (State × StrTally) × Table Nat :=
    (n.fold (fun i _ st => f i st) st0, [])
  match c with
  | .elem _ => points (shapeSize sh) (strPoint d c v)
  | .trans => points (shapeSize sh) (strPoint d c v)
  | .reduce => points (shapeSize (sh.set (dRdim d) 1)) (strReducePoint d v)
  | .route => (sh.getD 1 1 * sh.getD 2 1).fold (fun i _ st => strRoutePair d v i st) (st0, [])
  | _ => points (shapeSize sh) (strIndexPoint d c v)

/-! ### Running a descriptor (R285-R287) -/

/-- R291, R292: add a descriptor's tallies to the registers; vector 38; the loss monitor hears of them. -/
def State.strCounts (s : State) (c : Nat) (t : StrTally) : State :=
  let u := (s.core c).str
  let n' := satAdd 24 u.nan t.nan
  let i' := satAdd 24 u.infc t.inf
  let s := s.modCore c fun k => { k with str := { k.str with
    nan := n', infc := i', oob := satAdd 24 u.oob t.oob, drop := satAdd 24 u.drop t.drop } }
  let s := if u.thresh ≠ 0 && u.nan + u.infc ≤ u.thresh && u.thresh < n' + i' then s.pendVec c 38 else s
  if t.nan + t.inf = 0 then s else s.lossNonFinite c (t.nan + t.inf)

/-- R285: what the start checks answer: a status with whether the SIGNAL is withheld, a page to wait for, or success. -/
inductive StrStart where
  | fail (status : Nat) (nosig : Bool)
  | wait
  | ok
  deriving DecidableEq, Repr

/-- R285: the start checks. -/
def State.strStartCheck (s : State) (c : Nat) (it : StreamItem) (cl : StrClass) : StrStart :=
  let boxes := (strBoxes it.desc cl).filter fun b => b.1.loc == 1
  let trs := boxes.map fun b =>
    s.trRange (hSeal it.ht) (addr64 b.2.1.1) b.2.1.2 (if b.2.2 then .write else .read)
  match trs.findSome? fun t => match t with | .fault code _ _ => some code | _ => none with
  | some code => .fail code false
  | none =>
    if trs.any fun t => match t with | .pageIn _ => true | _ => false then .wait
    else if trs.any fun t => match t with | .ok ps => ps.any fun p => !inOwnScratch c p.1 || !inOwnScratch c (p.1 + p.2.1 - 1) | _ => false then
      .fail 0x02 false
    else
      let d := hSeal it.hs
      let g := it.signal
      let sigBad := match g.kind with
        | 1 => !s.objExists d g.obj || (objApply (s.objWord d g.obj) (.inc g.amount)).isNone
        | 2 => !s.objExists d g.obj || (objApply (s.objWord d g.obj) .arrive).isNone
        | _ => false
      let cntBad := cl == .route && (List.range (dS1 it.desc / 65536 % 4096 + 1)).any fun e =>
        let o := dS1 it.desc % 65536 + e
        !s.objExists d o || objType (s.objWord d o) != 0
      if sigBad then .fail 0x38 true else if cntBad then .fail 0x38 false else .ok

/-- R267: what the WAIT of the head descriptor answers: not yet (with the state), satisfied, or a status it ends with. -/
def State.strWait (s : State) (c : Nat) (it : StreamItem) : State × Option (Option Nat) :=
  let x := dWait it.desc
  let v : W64 := BitVec.ofNat 64 (fld x 63 32)
  let d := hSeal it.hs
  let o := fld x 23 8
  match fld x 1 0 with
  | 0 => (s, some none)
  | 1 => (s, if seqDone (s.core c).acc.ddone (v.setWidth 32) then some none else none)
  | _ =>
    match s.waiterOf (.stream c) with
    | some y =>
      match y.wait with
      | .released _ _ reset => (s.dropWaiter (.stream c), some (if reset then some 0x51 else none))
      | _ => (s, none)
    | none =>
      if !s.objExists d o || objType (s.objWord d o) > 4 then (s, some (some 0x38))
      else
        let s := s.objFetch d o
        if waitHolds (s.objWord d o) v then (s, some none)
        else (s.addWaiter ⟨.stream c, d, o, .ywait v⟩, none)

/-- R286, R292, R295: the head descriptor waits: under its WAIT, or for a page. -/
def State.headWaits (s : State) (c : Nat) (it : StreamItem) : Bool :=
  !it.started &&
  match (s.strWait c it).2, strClass (dOp it.desc) with
  | none, _ => true
  | some none, some cl => s.strStartCheck c it cl == .wait
  | _, _ => false

/-- Replace the head of the stream queue. -/
def State.setStreamHead (s : State) (c : Nat) (it : StreamItem) : State :=
  s.modCore c fun k => { k with str := { k.str with queue := it :: k.str.queue.drop 1 } }

/-- R288: the stores and TST rows that issued before the descriptor's SSUB are done. -/
def State.strOlderDone (s : State) (c : Nat) (it : StreamItem) : Bool :=
  !((s.core c).wbuf.any fun e => decide (e.serial < it.snap)) &&
  (List.range 2).all fun g =>
    match (s.group c g).xfer with
    | some x => !(decide (x.kind = .store) && decide (x.ord < it.ord))
    | none => true

/-- R285, R289: the whole element phase of the head descriptor. -/
def State.streamRun (s : State) (c : Nat) (it : StreamItem) (cl : StrClass) : State :=
  let r := s.strRun it.desc cl ⟨c, hSeal it.ht⟩
  let s := (r.1.1.strCounts c r.1.2).count c 0x2B 0 1
  s.setStreamHead c { it with started := true, ran := true, nf := r.1.2.nan + r.1.2.inf, counts := r.2 }

/-- The head descriptor tries to start, unless its pod is parked (R295): its WAIT, the start checks, then the whole element phase. -/
def State.streamStart (s : State) (c : Nat) : State :=
  match (s.core c).str.queue with
  | [] => s
  | it :: _ =>
    if it.started || !s.strOlderDone c it || s.podStopped c then s
    else
      match strClass (dOp it.desc) with
      | none => s
      | some cl =>
        let w := s.strWait c it
        match w.2 with
        | none => w.1
        | some (some st) => w.1.setStreamHead c { it with started := true, status := st }
        | some none =>
          -- a wait that is over stays over while a page comes in (R285)
          let edited : StreamItem := { it with desc := it.desc.take 40 ++ List.replicate 8 0 ++ it.desc.drop 48 }
          match w.1.strStartCheck c it cl with
          | .wait => w.1.setStreamHead c edited
          | .fail st ns => w.1.setStreamHead c { it with started := true, status := st, nosig := ns }
          | .ok => w.1.streamRun c it cl

/-- STREAM_DESC_START (R285, R289, R294): `e` is what the check codes of the scratchpad and of the chain buffers find. -/
def execStreamDescStart (core : Fin 256) (e : ErrMap) (s : State) : Out :=
  .next (s.finding e fun s => s.streamStart core.val)

/-- STREAM_DESC_COMPLETE (R278, R287): ROUTE counts, record, SDONE, SIGNAL. -/
def execStreamDescComplete (core : Fin 256) (s : State) : Out :=
  .next (
    let c := core.val
    match (s.core c).str.queue with
    | [] => s
    | it :: rest =>
      if !it.started then s
      else
        let s := s.modCore c fun k => { k with str := { k.str with queue := rest } }
        let s := if it.status = 0 then it.counts.foldl (fun s e =>
            s.objSignal (hSeal it.hs) (dS1 it.desc % 65536 + e.1) (.inc e.2) 0) s else s
        s.streamDone c it it.status)

/-- STR_CE_CLR (R292). -/
def execStrCeClr (core : Fin 256) (s : State) : Out :=
  .next (s.modCore core.val fun k => { k with str := { k.str with ecc := setFld k.str.ecc 15 0 0 } })

/-- STR_NF_CLR (R292): CLR zeroes NAN and INF. -/
def execStrNfClr (core : Fin 256) (s : State) : Out :=
  .next (s.modCore core.val fun k => { k with str := { k.str with nan := 0, infc := 0 } })

/-- IXCNT_CLR (R292): CLR zeroes OOB and DROP. -/
def execIxcntClr (core : Fin 256) (s : State) : Out :=
  .next (s.modCore core.val fun k => { k with str := { k.str with oob := 0, drop := 0 } })

end Sys2Proof.Machine
end

