-- ==== Sys2Proof/Machine/Copies.lean ====
section
/-! DEFINITION. Copies, prefetch streams and fences (chapter 11): CPY and its checks, the engines, CPWAIT, PSTREAM and its fills,
FENCE.L1 and FENCE.TASK. -/

namespace Sys2Proof.Machine

/-! ### The copy descriptor (R309-R313) -/

/-- R309: read a descriptor's 64 bytes. -/
def copyDescOf (b : List Byte) : CopyDesc :=
  { ctrl := BitVec.ofNat 64 (leAt b 0 8), saddr := leAt b 8 8, daddr := leAt b 16 8, len := leAt b 24 4, rows := leAt b 28 2 + 1,
    planes := leAt b 30 2 + 1, srs := toSigned 32 (leAt b 32 4), drs := toSigned 32 (leAt b 36 4),
    sps := toSigned 32 (leAt b 40 4), dps := toSigned 32 (leAt b 44 4), ssel := leAt b 56 2, dsel := leAt b 58 2 }

/-- SKIND. -/
def CopyDesc.skind (d : CopyDesc) : Nat := fld d.ctrl 1 0
/-- DKIND. -/
def CopyDesc.dkind (d : CopyDesc) : Nat := fld d.ctrl 3 2
/-- REDOP. -/
def CopyDesc.redop (d : CopyDesc) : Nat := fld d.ctrl 7 4
/-- HSRC. -/
def CopyDesc.hsrc (d : CopyDesc) : Nat := fld d.ctrl 11 8
/-- HDST. -/
def CopyDesc.hdst (d : CopyDesc) : Nat := fld d.ctrl 15 12
/-- HSYN. -/
def CopyDesc.hsyn (d : CopyDesc) : Nat := fld d.ctrl 19 16
/-- SHINT. -/
def CopyDesc.shint (d : CopyDesc) : Nat := fld d.ctrl 21 20
/-- DHINT. -/
def CopyDesc.dhint (d : CopyDesc) : Nat := fld d.ctrl 23 22

/-- R309: the source address of a row. -/
def CopyDesc.srcAt (d : CopyDesc) (p r : Nat) : Int := d.saddr + p * d.sps + r * d.srs
/-- R309: the destination address of a row. -/
def CopyDesc.dstAt (d : CopyDesc) (p r : Nat) : Int := d.daddr + p * d.dps + r * d.drs

/-- R313: the box of an endpoint: lowest address and length. -/
def boxOf (a : Nat) (ps rs : Int) (planes rows len : Nat) : Int × Nat :=
  let p : Int := ((planes - 1 : Nat) : Int) * ps
  let r : Int := ((rows - 1 : Nat) : Int) * rs
  let lo := (a : Int) + min 0 p + min 0 r
  let hi := (a : Int) + max 0 p + max 0 r
  (lo, (hi - lo).toNat + len)

/-- The source's box. -/
def CopyDesc.srcBox (d : CopyDesc) : Int × Nat := boxOf d.saddr d.sps d.srs d.planes d.rows d.len
/-- The destination's box. -/
def CopyDesc.dstBox (d : CopyDesc) : Int × Nat := boxOf d.daddr d.dps d.drs d.planes d.rows d.len

/-- R311: a host endpoint: window configured with the direction allowed, box within it, hull field 0. -/
def hostOk (dom : Domain) (win : Nat) (write : Bool) (box : Int × Nat) (hreg : Nat) : Bool :=
  let w := tget HostWin.none dom.wins win
  win < 16 && decide (w.len ≠ 0) && (if write then w.wr else w.rd) && decide (0 ≤ box.1) && decide (box.1 + box.2 ≤ w.len) && hreg == 0

/-- R313 check 5: the structure of a descriptor issued by domain `dom`. -/
def CopyDesc.structOk (d : CopyDesc) (b : List Byte) (dom : Domain) : Bool :=
  let g : W64 := BitVec.ofNat 64 (leAt b 48 8)
  fld d.ctrl 63 24 == 0 && zeroBytes b 60 4 && d.skind != 3 && d.dkind != 3 && d.redop < 8 &&
  d.shint != 3 && d.dhint != 3 &&
  (d.redop == 0 || (d.skind == 0 && d.dkind != 1)) && 1 ≤ d.len && d.len ≤ 16777216 &&
  (match d.skind with | 0 => d.ssel == 0 | 1 => hostOk dom d.ssel false d.srcBox d.hsrc | _ => d.ssel < 4096) &&
  (match d.dkind with | 0 => d.dsel == 0 | 1 => hostOk dom d.dsel true d.dstBox d.hdst | _ => d.dsel < 4096) &&
  fld g 1 0 != 3 && fld g 7 2 == 0 && fld g 31 24 == 0 && fld g 63 48 == 0 &&
  (if fld g 1 0 = 1 then fld g 47 32 != 0 else fld g 47 32 == 0)

/-- R312: the element size of a reduction. -/
def CopyDesc.elem (d : CopyDesc) : Nat := if d.redop = 3 then 16 else 4

/-- R313 check 6. -/
def CopyDesc.alignOk (d : CopyDesc) : Bool :=
  d.redop == 0 || ([(d.saddr : Int), d.daddr, d.len, d.srs, d.drs, d.sps, d.dps].all fun x => x % (d.elem : Nat) == 0)

/-- R153, R313 check 6: the fault of a descriptor that is not aligned: the address that is not a multiple of the element size; a length or a
stride is no address. -/
def CopyDesc.alignFlt (d : CopyDesc) : Flt :=
  if d.saddr % d.elem ≠ 0 then fltA 0x02 d.saddr d.hsrc 0 false false
  else if d.dkind = 0 && d.daddr % d.elem ≠ 0 then fltA 0x02 d.daddr d.hdst 0 true false
  else flt 0x02

/-- R311: the authority of an endpoint: a memory hull over its box, nothing for the host, a device right of KIND 0x07 over the
channel, whose instance is the fault's address (R153). -/
def endpointFault (s : State) (h : W128) (hreg kind sel : Nat) (box : Int × Nat) (mask : Nat) (write : Bool) : Option Flt :=
  match kind with
  | 0 =>
    let lo := addr64 box.1
    (hullCheck s h 1 mask lo box.2).map fun c => fltA c (if c = 0x0D then hullFailAt h lo else lo) hreg 0 write false
  | 1 => none
  | _ =>
    match hullCheck4 s h 5 1 with
    | some c => some (fltA c sel hreg 0 write false)
    | none => if hKind h = 7 && decide (hInst h ≤ sel) && decide (sel < hInst h + hLen h) then none else some (fltA 0x0D sel hreg 0 write false)

/-- R313 check 10: two local endpoints under one SEAL overlap. -/
def CopyDesc.overlaps (d : CopyDesc) (hs hd : W128) : Bool :=
  d.skind == 0 && d.dkind == 0 && hSeal hs == hSeal hd &&
  decide (d.srcBox.1 < d.dstBox.1 + d.dstBox.2) && decide (d.dstBox.1 < d.srcBox.1 + d.srcBox.2)

/-- R313 checks 5-10 on a descriptor. -/
def CopyDesc.check (s : State) (w : Site) (d : CopyDesc) (b : List Byte) : Option Flt :=
  let hs := s.h w d.hsrc
  let hd := s.h w d.hdst
  let g : W64 := BitVec.ofNat 64 (leAt b 48 8)
  if !d.structOk b (s.dom (s.strand w).dom) then some (flt 0x40)
  else if !d.alignOk then some d.alignFlt
  else if (d.skind = 2 && !(s.chan d.ssel).tx) || (d.dkind = 2 && !(s.chan d.dsel).tx) then some (flt 0x42)
  else
    match endpointFault s hs d.hsrc d.skind d.ssel d.srcBox (rREAD + rUNIT) false with
    | some f => some f
    | none =>
      match endpointFault s hd d.hdst d.dkind d.dsel d.dstBox (rWRITE + rUNIT + if d.redop = 0 then 0 else rREDUCE) true with
      | some f => some f
      | none =>
        match (if fld g 1 0 = 0 then none else localSyncFault s (s.h w d.hsyn) rSIGNAL (fld g 23 8)) with
        | some c => some (fltH c d.hsyn)
        | none => if d.overlaps hs hd then some (flt 0x40) else none

/-- R308: the copies of a die's pool, queued or running. -/
def DiePool.entries (x : DiePool) : List CopyItem := x.pool ++ x.engines.filterMap fun e => e.2.item

/-- R308: copies of core `c` in the pool of its die. -/
def State.dieHeld (s : State) (c : Nat) : Nat :=
  ((s.diePool (dieOfCore c)).entries.filter fun it => decide (it.core = c)).length

/-- R308: the named queue has no room for a copy of core `c`. -/
def State.copyFull (s : State) (c eng : Nat) : Bool :=
  if eng < 4 then decide ((tget CopyChan.reset (s.core c).cpy.chans eng).queue.length ≥ 8)
  else decide ((s.diePool (dieOfCore c)).entries.length ≥ 64) || decide (s.dieHeld c ≥ 16)

/-- R308, R316: queue a copy: it takes the next number of its sequence. -/
def State.copyPush (s : State) (c eng : Nat) (it : CopyItem) : State × W32 :=
  if eng < 4 then
    let ch := tget CopyChan.reset (s.core c).cpy.chans eng
    let n := ch.next
    (s.modCore c fun k => { k with cpy := { k.cpy with
      chans := tset CopyChan.reset k.cpy.chans eng { ch with queue := ch.queue ++ [{ it with seq := n }], next := n + 1 } } }, n)
  else
    let n := (s.core c).cpy.deNext
    let d := dieOfCore c
    let x := s.diePool d
    let s := s.modCore c fun k => { k with cpy := { k.cpy with deNext := n + 1 } }
    (s.setDiePool d { x with pool := x.pool ++ [{ it with seq := n }] }, n)

/-- R91: a strand that needs hull registers an outstanding access writes is not ready. -/
def State.hullsReady (s : State) (w : Site) (l : List Nat) (k : Res) : Res :=
  let t := s.strand w
  let uses := l.map RegRef.h
  if t.awaitsMiss uses then .wait .missReg else if t.awaits uses then .wait .none else k

/-- CPY (R307-R316): the checks in order, then the copy is queued with its hulls captured and g_d takes its number. A strand is not ready
for it while the queue it names is full. `e` is what the check codes of memory find. -/
def execCpy (w : Site) (gd ga : RegField) (hd : BitVec 4) (eng : BitVec 3) (e : ErrMap) (s : State) : Out :=
  .next (s.issue w [.g gd.toNat, .g ga.toNat, .h hd.toNat] fun s =>
    let c := w.core.val
    let a := (s.g w ga).toNat
    if eng.toNat < 5 && s.copyFull c eng.toNat then .wait .none
    else if eng.toNat ≥ 5 then .fault s (flt 0x01)
    else s.unitBody w (
      if a % 64 ≠ 0 then .fault s (fltA 0x02 a hd.toNat 0 false false)
      else s.withRanges w hd.toNat false [(a, 64)] (
        match s.trRange (hSeal (s.h w hd.toNat)) a 64 .read with
        | .ok ps =>
          if s.piecesWait ps then .wait .none else
          let r := s.reading e fun s => s.coreRead c ps 0 (hHas (s.h w hd.toNat) rPIN) (some 1)
          let b := r.2
          let d := copyDescOf b
          s.hullsReady w [d.hsrc, d.hdst, d.hsyn] (
          match d.check r.1 w b with
          | some f => .fault r.1 f
          | none =>
            let s := r.1
            let g : W64 := BitVec.ofNat 64 (leAt b 48 8)
            let ch := s.chan d.dsel
            let s := if d.dkind = 2 then s.setChan d.dsel { ch with cseqTx := ch.cseqTx + 1 } else s
            let it : CopyItem :=
              { desc := d, hsrc := s.h w d.hsrc, hdst := s.h w d.hdst, sig := ⟨fld g 1 0, fld g 23 8, fld g 47 32, s.h w d.hsyn⟩,
                core := c, strand := w.strand.val, dom := (s.strand w).dom, eng := eng.toNat, seq := 0, after := (s.core c).serial,
                started := false, plane := 0, row := 0, status := 0, errDest := false, errAddr := 0,
                rvalid := false, done := false, cseq := if d.dkind = 2 then ch.cseqTx else 0, phase := 0, owed := 0, rstat := 0,
                buf := [] }
            let q := s.copyPush c eng.toNat it
            .done (q.1.setG w gd (q.2.setWidth 64)))
        | _ => .wait .none)))

/-- CPWAIT (R317). -/
def execCpwait (w : Site) (gd ga : RegField) (eng : BitVec 3) (s : State) : Out :=
  .next (s.issue w [.g gd.toNat, .g ga.toNat] fun s =>
    if eng.toNat ≥ 5 then .fault s (flt 0x01)
    else s.unitBody w (
      let n : W32 := (s.g w ga).setWidth 32
      let u := (s.core w.core.val).cpy
      if u.copyEnded eng.toNat n then .done (s.setG w gd (boolW (u.ferrOf eng.toNat)))
      else .hold (s.park w (.cpwait eng.toNat n gd.toNat))))

/-! ### Engines (R308, R314-R316) -/

/-- The copy an engine has taken: the head of a channel's queue, or a die engine's own. -/
def State.copyOf (s : State) (e : Engine) : Option CopyItem :=
  match e with
  | .chan c ch => (tget CopyChan.reset (s.core c.val).cpy.chans ch.val).queue.head?
  | .die d i => (tget DieEngine.idle (s.diePool d.val).engines i.val).item

/-- Replace the copy an engine has taken, or end it. -/
def State.setCopy (s : State) (e : Engine) (it : Option CopyItem) : State :=
  match e with
  | .chan c ch =>
    s.modCore c.val fun k =>
      let x := tget CopyChan.reset k.cpy.chans ch.val
      { k with cpy := { k.cpy with chans := tset CopyChan.reset k.cpy.chans ch.val ({ x with queue := it.toList ++ x.queue.drop 1 }) } }
  | .die d i =>
    let x := s.diePool d.val
    let g := tget DieEngine.idle x.engines i.val
    s.setDiePool d.val { x with engines := tset DieEngine.idle x.engines i.val ({ g with item := it }) }

/-- R315: every store of the issuing strand from before the CPY has been performed. -/
def State.copyReady (s : State) (it : CopyItem) : Bool :=
  !(s.core it.core).wbuf.any fun e => decide (e.strand = it.strand) && decide (e.serial < it.after)

/-- R308: the core whose oldest pool entry a free engine takes: the next in ascending number after the one it served last. -/
def DiePool.nextCore (x : DiePool) (e : Nat) : Option Nat :=
  ((List.range 256).map fun i => ((tget DieEngine.idle x.engines e).last + 1 + i) % 256).find? fun c => x.pool.any fun it => decide (it.core = c)

/-- R460: a copy to a BROKEN channel ends with FLT_LINK_FAIL. -/
def State.startItem (s : State) (it : CopyItem) : CopyItem :=
  if it.desc.dkind = 2 && (s.chan it.desc.dsel).broken then
    { it with started := true, done := true, status := 0x52, errDest := true, errAddr := BitVec.ofNat 64 it.desc.daddr, rvalid := true }
  else { it with started := true }

/-- COPY_START (R308, R315). -/
def execCopyStart (e : Engine) (s : State) : Out :=
  .next (
    match e with
    | .chan _ _ =>
      match s.copyOf e with
      | some it => if it.started || !s.copyReady it then s else s.setCopy e (some (s.startItem it))
      | none => s
    | .die d i =>
      let x := s.diePool d.val
      if (tget DieEngine.idle x.engines i.val).item.isSome then s
      else
        match x.nextCore i.val with
        | none => s
        | some c =>
          match x.pool.find? fun it => decide (it.core = c) with
          | none => s
          | some it =>
            if !s.copyReady it then s
            else s.setDiePool d.val { x with
              pool := x.pool.eraseP (fun y => decide (y.core = c) && decide (y.seq = it.seq)),
              engines := tset DieEngine.idle x.engines i.val ⟨BitVec.ofNat 8 c, c, some (s.startItem it)⟩ })

/-- R314: a copy stops at its present row with a code. -/
def CopyItem.stop (it : CopyItem) (code : Nat) (dest : Bool) (addr : Nat) : CopyItem :=
  { it with done := true, status := code, errDest := dest, errAddr := BitVec.ofNat 64 addr, rvalid := true, phase := 0, owed := 0,
            buf := [] }

/-- R309: the row is complete; the next one, or the end of the copy. -/
def CopyItem.advance (it : CopyItem) : CopyItem :=
  let it := { it with phase := 0, owed := 0, rstat := 0, buf := [] }
  if it.row + 1 < it.desc.rows then { it with row := it.row + 1 }
  else if it.plane + 1 < it.desc.planes then { it with row := 0, plane := it.plane + 1 }
  else { it with done := true, status := 0 }

/-- What the checks of a row find. -/
inductive RowCheck where
  | ok (src dst : List (Nat × Nat × W64))
  | stop (code : Nat) (dest : Bool) (addr : Nat)
  | wait
  deriving DecidableEq, Repr

/-- R314: the pieces of a local endpoint's row; a register window, or an HBM-only destination elsewhere, is FLT_ALIGN. -/
def State.localRow (s : State) (h : W128) (a : Int) (n : Nat) (write hbmOnly : Bool) : RowCheck :=
  let va := addr64 a
  match s.trRange (hSeal h) va n (if write then .write else .read) with
  | .fault c _ x => .stop c write x
  | .pageIn _ => .wait
  | .ok ps =>
    match ps.findIdx? fun p => !(if hbmOnly then isHbm p.1 else isMemory p.1) with
    | none => .ok ps ps
    | some i => .stop 0x02 write (if i = 0 then va else (va / 65536 + i) * 65536)

/-- R314: the row lies within a host window now. -/
def State.hostRow (s : State) (dom win : Nat) (a : Int) (n : Nat) (write : Bool) : RowCheck :=
  let w := tget HostWin.none (s.dom dom).wins win
  let dir := if write then w.wr else w.rd
  if 0 ≤ a && decide (a + n ≤ w.len) && dir then .ok [] []
  else .stop 0x40 write (addr64 (if 0 ≤ a && dir then max a w.len else a))

/-- R314: the checks of a copy's present row. -/
def State.rowChecks (s : State) (it : CopyItem) : RowCheck :=
  let d := it.desc
  let sa := d.srcAt it.plane it.row
  let da := d.dstAt it.plane it.row
  let src := match d.skind with
    | 0 => s.localRow it.hsrc sa d.len false false
    | 1 => s.hostRow it.dom d.ssel sa d.len false
    | _ => .ok [] []
  match src with
  | .ok ps _ =>
    match (match d.dkind with
      | 0 => s.localRow it.hdst da d.len true (decide (d.redop ≠ 0))
      | 1 => s.hostRow it.dom d.dsel da d.len true
      | _ => .ok [] []) with
    | .ok qs _ => .ok ps qs
    | r => r
  | r => r

/-- The die whose interface an engine uses. -/
def engineDie (e : Engine) : Nat :=
  match e with
  | .chan c _ => dieOfCore c.val
  | .die d _ => d.val

/-- The packets that carry a row's bytes to channel offset `a` (R450, R451): writes of at most 256 bytes, reductions of at most 128
within one line. -/
def rowPackets (it : CopyItem) (a : Nat) (b : List Byte) : List Packet :=
  let step := if it.desc.redop = 0 then 256 else 128
  let rec go (fuel : Nat) (o : Nat) (b : List Byte) : List Packet :=
    match fuel with
    | 0 => []
    | fuel + 1 =>
      if b.isEmpty then []
      else
        let n := min b.length (step - (if it.desc.redop = 0 then 0 else o % 128))
        { Packet.to 0 with
          kind := if it.desc.redop = 0 then 3 else 4, srcdom := it.dom, chan := it.desc.dsel, op := it.desc.redop, addr := o,
          rowlen := if o = a then it.desc.len else 0, first := decide (o = a), last := decide (n = b.length),
          cseq := it.cseq.toNat, data := b.take n } :: go fuel (o + n) (b.drop n)
  go (b.length / step + 2) a b

/-- R451: the read requests of a remote row: (offset in the row, packet). -/
def readPackets (it : CopyItem) (a : Nat) : List (Nat × Packet) :=
  (List.range ((it.desc.len + 255) / 256)).map fun i =>
    (256 * i, { Packet.to 0 with
      kind := 1, srcdom := it.dom, chan := it.desc.ssel, addr := a + 256 * i, rowlen := min 256 (it.desc.len - 256 * i),
      first := true, last := true })

/-- Send a list of tracked packets to module `m`; none as soon as one cannot be sent. -/
def State.sendAll (s : State) (d vc m : Nat) : List (Packet × TrackOp) → Option State
  | [] => some s
  | (p, op) :: t =>
    match s.sendTracked d vc { p with dst := m } op with
    | none => none
    | some s => State.sendAll s d vc m t

/-- A row has moved: the counters of R510, R511 and the PCIe monitor (R514). -/
def State.countRow (s : State) (e : Engine) (it : CopyItem) : State :=
  let s := match e with
    | .chan c _ => s.count c.val 0x2D 0 it.desc.len
    | .die d _ => s.countDie d.val 0x14 0 it.desc.len
  let s := if it.desc.skind = 1 then s.bwAdd 4 0 1 it.desc.len else s
  if it.desc.dkind = 1 then s.bwAdd 4 0 0 it.desc.len else s

/-- R312, R314: the bytes of a row reach their destination: local writes or reductions now, host writes out through PCIe, remote
packets that are acknowledged later. -/
def State.rowOut (s : State) (e : Engine) (it : CopyItem) (dst : List (Nat × Nat × W64)) (b : List Byte) (pcie : Bool) : State :=
  let d := it.desc
  let da := d.dstAt it.plane it.row
  let fin := fun (s : State) => (s.countRow e it).setCopy e (some it.advance)
  match d.dkind with
  | 0 =>
    match redOpOf d.redop with
    | none => fin (s.piecesWrite dst b d.dhint (hHas it.hdst rPIN))
    | some op =>
      fin (dst.foldl (fun (acc : State × List Byte) p =>
        (State.reduceRange (p.2.1 / 128 + 2) acc.1 p.1 op (acc.2.take p.2.1), acc.2.drop p.2.1)) (s, b)).1
  | 1 => if pcie || s.pcieStands then s.setCopy e (some (it.stop 0x52 true (addr64 da))) else fin s
  | _ =>
    let m := s.farOf d.dsel
    let vc := if d.redop = 0 then 4 else 2
    if !s.canInject (engineDie e) m then s.setCopy e (some (it.stop 0x52 true (addr64 da)))
    else if s.epochHeld (engineDie e) m vc then s
    else
      let ps := (rowPackets it (addr64 da) b).map fun p => (p, TrackOp.row e it.seq)
      match s.sendAll (engineDie e) vc m ps with
      | none => s
      | some s => s.setCopy e (some { it with phase := 2, owed := ps.length, rstat := 0, buf := [] })

/-- R314: begin a row: its checks, then its source. -/
def State.rowBegin (s : State) (e : Engine) (it : CopyItem) (env : RowEnv) : State :=
  let d := it.desc
  match s.rowChecks it with
  | .wait => s
  | .stop c dest a => s.setCopy e (some (it.stop c dest a))
  | .ok src dst =>
    match d.skind with
    | 0 =>
      let r := s.piecesRead src it.desc.shint (hHas it.hsrc rPIN)
      r.1.rowOut e it dst r.2 (decide (env = .pcieError))
    | 1 =>
      match (if s.pcieStands then .pcieError else env) with
      | .pcieError => s.setCopy e (some (it.stop 0x52 false (addr64 (d.srcAt it.plane it.row))))
      | .hostData b => s.rowOut e it dst (bytesAt b 0 d.len) false
      | _ => s
    | _ =>
      let m := s.farOf d.ssel
      let a := addr64 (d.srcAt it.plane it.row)
      if !s.canInject (engineDie e) m then s.setCopy e (some (it.stop 0x52 false a))
      else if s.epochHeld (engineDie e) m 0 then s
      else
        let ps := (readPackets it a).map fun p => (p.2, TrackOp.read e it.seq p.1 p.2.rowlen)
        match s.sendAll (engineDie e) 0 m ps with
        | none => s
        | some s => s.setCopy e (some { it with phase := 1, owed := ps.length, rstat := 0, buf := [] })

/-- R486: the present row reaches the scratchpad of a parked pod. -/
def State.rowParked (s : State) (it : CopyItem) : Bool :=
  match s.rowChecks it with
  | .ok src dst => s.piecesWait src || s.piecesWait dst
  | _ => false

/-- R314: the destination's checks of a remote row whose bytes have come. -/
def State.landing (s : State) (it : CopyItem) : RowCheck :=
  let d := it.desc
  if d.dkind = 0 then s.localRow it.hdst (d.dstAt it.plane it.row) d.len true (decide (d.redop ≠ 0)) else .ok [] []

/-- R314, R324: a copy that an engine has taken waits on a page-in. -/
def State.copyWaits (s : State) (it : CopyItem) : Bool :=
  it.started && !it.done &&
    ((it.phase == 0 && s.rowChecks it == .wait) || (it.phase == 1 && it.owed == 0 && it.rstat == 0 && s.landing it == .wait))

/-- COPY_ROW (R309, R312, R314): the engine's copy moves its present row, or takes up the replies of a remote one. A core channel of a
parked pod, and a row that reaches one, waits (R486). `m` is what the check codes of memory find. -/
def execCopyRow (e : Engine) (env : RowEnv) (m : ErrMap) (s : State) : Out :=
  .next (s.finding m fun s =>
    match s.copyOf e with
    | none => s
    | some it =>
      let d := it.desc
      if !it.started || it.done || (match e with | .chan c _ => s.podStopped c.val | .die _ _ => false) then s
      else if it.phase = 0 then (if s.rowParked it then s else s.rowBegin e it env)
      else if it.owed ≠ 0 then s
      else if it.rstat ≠ 0 then
        let dest := decide (it.phase = 2)
        s.setCopy e (some (it.stop it.rstat dest
          (addr64 (if dest then d.dstAt it.plane it.row else d.srcAt it.plane it.row))))
      else if it.phase = 2 then (s.countRow e it).setCopy e (some it.advance)
      else
        match s.landing it with
        | .wait => s
        | .stop c dest a => s.setCopy e (some (it.stop c dest a))
        | .ok _ dst => if s.piecesWait dst then s else s.rowOut e it dst (memBytes it.buf 0 d.len) (decide (env = .pcieError)))

/-- R458: a reply to a remote row: one packet less is owed; read data enters the row's buffer. -/
def State.copyReply (s : State) (e : Engine) (seq : W32) (status : Nat) (data : Option (Nat × List Byte)) : State :=
  match s.copyOf e with
  | none => s
  | some it =>
    if it.seq ≠ seq || it.owed = 0 then s
    else
      let it := { it with owed := it.owed - 1, rstat := if it.rstat = 0 then status else it.rstat }
      let it := match data with | some (o, b) => { it with buf := memPut it.buf o b } | none => it
      s.setCopy e (some it)

/-- COPY_COMPLETE (R316, R460): a copy whose rows are done sends its CLOSE on a remote channel and, once that is acknowledged,
completes. A CLOSE that fails ends the copy with FLT_LINK_FAIL. -/
def execCopyComplete (e : Engine) (s : State) : Out :=
  .next (
    match s.copyOf e with
    | none => s
    | some it =>
      if !it.done then s
      else
        let fin := fun (s : State) (status : Nat) => (s.setCopy e none).copyDone it status
        let c := it.desc.dsel
        if it.desc.dkind ≠ 2 || (decide (it.phase = 0) && (s.chan c).broken) then fin s it.status
        else if it.phase = 3 then
          if it.owed ≠ 0 then s
          else if it.rstat = 0 then fin s it.status
          else fin s (if it.status = 0 then 0x52 else it.status)
        else
          let m := s.farOf c
          if !s.canInject (engineDie e) m then fin (s.breakChan c) (if it.status = 0 then 0x52 else it.status)
          else if s.epochHeld (engineDie e) m 4 then s
          else
            match s.sendClose (engineDie e) it it.status (.close e it.seq c) with
            | none => s
            | some s => s.setCopy e (some { it with phase := 3, owed := 1, rstat := 0 }))

/-- PCIE_COMPLETION_TIMEOUT (R314): the host read of a copy's present row gets no completion: the copy stops with
FLT_LINK_FAIL. -/
def execPcieCompletionTimeout (e : Engine) (s : State) : Out :=
  .next (
    match s.copyOf e with
    | none => s
    | some it =>
      if it.started && !it.done && decide (it.desc.skind = 1) && decide (it.phase = 0) then
        s.setCopy e (some (it.stop 0x52 false (addr64 (it.desc.srcAt it.plane it.row))))
      else s)

/-! ### Prefetch streams (R319-R323) -/

/-- PSTREAM (R319): the checks, then stream S starts at line 0 of the new extent, or goes IDLE for ROWLEN = 0; the fills in flight of an
earlier declaration go on. `e` is what the check codes of memory find. -/
def execPstream (w : Site) (ga : RegField) (hd sn : BitVec 4) (e : ErrMap) (s : State) : Out :=
  .next (s.issue w [.g ga.toNat, .h hd.toNat] fun s =>
    let c := w.core.val
    let a := (s.g w ga).toNat
    s.unitBody w (
      if a % 32 ≠ 0 then .fault s (fltA 0x02 a hd.toNat 0 false false)
      else s.withRanges w hd.toNat false [(a, 32)] (
        match s.trRange (hSeal (s.h w hd.toNat)) a 32 .read with
        | .ok ps =>
          if s.piecesWait ps then .wait .none else
          let r := s.reading e fun s => s.coreRead c ps 0 (hHas (s.h w hd.toNat) rPIN) (some 1)
          let b := r.2
          let rowlen := leAt b 8 4
          let rows := leAt b 12 2 + 1
          let ctrl := leAt b 14 2
          let l2 := ctrl.testBit 0
          let depth := nfld ctrl 10 4
          let stride := toSigned 32 (leAt b 16 4)
          let hreg := nfld ctrl 14 11
          let h := s.h w hreg
          if ctrl.testBit 3 || ctrl.testBit 15 || nfld ctrl 2 1 = 3 || !zeroBytes b 20 12 || rowlen > 16777216 ||
              !(if l2 then depth == 0 else 1 ≤ depth && depth ≤ 64) then .fault r.1 (flt 0x41)
          else
            let put := fun (s : State) (x : PStream) => s.modCore c fun k =>
              { k.endStreams fun i => decide (i = sn.toNat) with pst := tset PStream.reset k.pst sn.toNat x }
            if rowlen = 0 then .done (put r.1 PStream.reset)
            else s.hullsReady w [hreg] (
              let box := boxOf (leAt b 0 8) 0 stride 1 rows rowlen
              let lo := addr64 box.1
              match hullCheck s h 1 (rREAD + rUNIT) lo box.2 with
              | some code => .fault r.1 (fltA code (if code = 0x0D then hullFailAt h lo else lo) hreg 0 false false)
              | none =>
                .done (put r.1 ⟨1, 0, 0, leAt b 0 8, rowlen, rows, stride, l2, nfld ctrl 2 1, depth, h, 0⟩))
        | _ => .wait .none)))

/-- R320, R321: what the next line of a running stream meets: nothing left, the DEPTH limit or the limit of fills in flight, a page to
wait for, a stop, a line already present at its level, or a fill to issue. -/
inductive StreamNext where
  | over | depth | flight | pageIn
  | stop (code : Nat)
  | skip
  | fill (f : PFill)
  deriving DecidableEq, Repr

/-- R320-R323: the next line of stream `n` of core `c`. -/
def State.streamNext (s : State) (c n : Nat) (p : PStream) : StreamNext :=
  match p.lines[p.next]? with
  | none => .over
  | some l =>
    let flying := ((s.core c).pfills.filter fun f => f.live && decide (f.stream = n)).length
    if !p.l2 && decide (p.next ≥ p.touched + p.depth) then .depth
    else
      match s.translate (hSeal p.hull) (l * 128) .read with
      | .pageIn => .pageIn
      | .fault code _ => .stop code
      | .ok pa leaf =>
        if !isHbm pa then .stop 0x02
        else if (if p.l2 then (s.lineSt pa).isSome else (l1Find (s.core c).l1d 8 pa).isSome) then .skip
        else if (if p.l2 then 8 else 4) ≤ flying then .flight
        else .fill ⟨pa, hSeal p.hull, l * 128, n, p.l2, p.hint, hHas p.hull rPIN, decide (leafRet leaf = 1), true, true⟩

/-- R323: a page-in or the DEPTH limit holds the stream. -/
def State.streamWaits (s : State) (c n : Nat) (p : PStream) : Bool :=
  decide (p.state = 1) && (match s.streamNext c n p with | .depth => true | .pageIn => true | _ => false)

/-- R320-R322: a running stream goes on by one line: it is skipped, or its fill issues, or the stream is done or stops. -/
def State.streamStep (s : State) (c n : Nat) (p : PStream) : State :=
  let put := fun (s : State) (x : PStream) => s.modCore c fun k => { k with pst := tset PStream.reset k.pst n x }
  let go := fun (s : State) => put s { p with next := p.next + 1, state := if p.next + 1 < p.lines.length then 1 else 2 }
  match s.streamNext c n p with
  | .over => put s { p with state := 2 }
  | .stop code => put s { p with state := 3, status := code }
  | .skip => go s
  | .fill f => (go (s.modCore c fun k => { k with pfills := k.pfills ++ [f] })).count c 0x2F 0 1
  | _ => s

/-- PSTREAM_FILL (R320-R322): the stream goes on by one line, or fill `i` of the core's fills in flight arrives. `e` is what the check codes
of memory find. -/
def execPstreamFill (core : Fin 256) (sn : Fin 16) (arrives : Option (BitVec 8)) (e : ErrMap) (s : State) : Out :=
  .next (
    match arrives with
    | none =>
      let p := tget PStream.reset (s.core core.val).pst sn.val
      if p.state = 1 && !s.podStopped core.val then s.streamStep core.val sn.val p else s
    | some i => if s.podStopped core.val then s else s.finding e fun s => s.fillArrives core.val i.toNat)

/-! ### Fences (R305, R306) -/

/-- R305, R322: L1D is invalidated; a fill that is outstanding delivers its data but does not install. -/
def Core.l1Fence (k : Core) : Core :=
  { k.barFills with l1d := [], pfills := k.pfills.map fun f => if f.l2 then f else { f with install := false } }

/-- FENCE.L1 (R305): waits for the strand's own stores. -/
def execFenceL1 (w : Site) (s : State) : Out :=
  .next (s.issue w [] fun s =>
    if s.owesStores w then .wait .fence1 else .done (s.modCore w.core.val Core.l1Fence))

/-- R306: the copies a core has issued and not completed: (engine, number). -/
def State.openCopies (s : State) (c : Nat) : List (Nat × Nat) :=
  let k := s.core c
  let x := s.diePool (dieOfCore c)
  ((List.range 4).flatMap fun i => (tget CopyChan.reset k.cpy.chans i).queue.map fun it => (i, it.seq.toNat)) ++
  (x.entries.filter fun it => decide (it.core = c)).map fun it => (4, it.seq.toNat)

/-- FENCE.TASK (R306): waits for the core's stores, drains, stream descriptors and copies issued before it. -/
def execFenceTask (w : Site) (s : State) : Out :=
  .next (s.issue w [] fun s => s.unitBody w (
    let c := w.core.val
    let k := s.core c
    let copies := s.openCopies c
    if k.taskQuiet copies k.str.snext.toNat k.acc.dnext.toNat then .done (s.modCore c Core.taskFence)
    else .hold (s.park w (.fenceTask copies k.str.snext.toNat k.acc.dnext.toNat))))

end Sys2Proof.Machine
end

