-- ==== Sys2Proof/Machine/Rings.lean ====
section
/-! DEFINITION. Ring transfers (R426-R429): submission, steps, credits, completion. -/

namespace Sys2Proof.Machine

/-- Ring channel `c`. -/
def State.ring (s : State) (c : Nat) : RingChan := tget RingChan.none s.sync.rings c

/-- Replace ring channel `c`. -/
def State.setRing (s : State) (c : Nat) (x : RingChan) : State :=
  { s with sync := { s.sync with rings := tset RingChan.none s.sync.rings c x } }

/-- R426: the die a ring channel runs on. -/
def ringDie (c : Nat) : Nat := c / 1024

/-- A descriptor not yet started. -/
def RingItem.queued (seq : W32) (addr core : Nat) : RingItem :=
  ⟨seq, addr, core, false, 0, 0, 0, Signal.none, 0, 0, 0, 0, 0, false⟩

/-- RING_SUBMIT (R427): a store of `value` to SYN_RSUBc by core `core`: the descriptor address is queued, or with 4 queued the
store is discarded, OVF set and 0x333 recorded. -/
def execRingSubmit (chan : Fin 4096) (core : Fin 256) (value : BitVec 64) (s : State) : Out :=
  .next (
    let x := s.ring chan.val
    if !x.on then s
    else if x.queue.length ≥ 4 then
      (s.setRing chan.val { x with ovf := true }).raise 0x333 (srcDie (ringDie chan.val)) chan.val 0 0
    else s.setRing chan.val { x with
      queue := x.queue ++ [.queued x.next (fld value 56 6 * 64) core.val], next := x.next + 1 })

/-- R428, R429: the head descriptor completes: SYN_RDONEc, DONE, ERR and vector 37 on failure, then its SIGNAL. -/
def State.ringDone (s : State) (c : Nat) (it : RingItem) (status : Nat) : State :=
  let x := s.ring c
  let word : W64 := BitVec.ofNat 64 (it.seq.toNat + status % 256 * 2 ^ 32 + 2 ^ 40)
  let s := s.setRing c { x with
    queue := x.queue.filter (fun y => decide (y.seq ≠ it.seq)), done := it.seq + 1, rdone := word, err := x.err || decide (status ≠ 0) }
  let s := (s.dropWaiter (.ringRecv c)).dropWaiter (.ringCredit c)
  let s := if status = 0 then s else s.pendVec it.core 37
  if it.nosig then s else s.signal it.sig status

/-- R429: every descriptor of a channel is cancelled, in order. -/
def State.ringCancel (s : State) (c : Nat) : State :=
  (s.ring c).queue.foldl (fun s it => s.ringDone c it 0x50) s

/-- Replace the head descriptor. -/
def State.setRingHead (s : State) (c : Nat) (it : RingItem) : State :=
  let x := s.ring c
  s.setRing c { x with queue := it :: x.queue.drop 1 }

/-- R427: the descriptor's fields are in order. -/
def ringDescOk (x : RingChan) (b : List Byte) : Bool :=
  let g : W64 := BitVec.ofNat 64 (leAt b 16 8)
  let len := leAt b 8 4
  (bytesAt b 14 2 ++ bytesAt b 24 40).all (fun y => decide (y = 0)) && len % 64 == 0 && 64 ≤ len && len ≤ x.blen && 1 ≤ leAt b 12 2 &&
  fld g 1 0 != 3 && fld g 7 2 == 0 && fld g 31 24 == 0 && fld g 63 48 == 0 &&
  (if fld g 1 0 = 1 then fld g 47 32 != 0 else fld g 47 32 == 0)

/-- R427: start the head descriptor: read and check it; a bad one completes with FLT_CPY_DESC and sends nothing. -/
def State.ringStart (s : State) (c : Nat) (x : RingChan) (it : RingItem) : State :=
  match hullCheck s x.hmem 1 rREAD it.addr 64 with
  | some _ => s.ringDone c { it with nosig := true } 0x40
  | none =>
    match s.trRange (hSeal x.hmem) it.addr 64 .read with
    | .pageIn _ => s
    | .fault _ _ _ => s.ringDone c { it with nosig := true } 0x40
    | .ok ps =>
      if s.piecesWait ps then s else
      let r := s.piecesRead ps 0 false
      let s := r.1
      let b := r.2
      let g : W64 := BitVec.ofNat 64 (leAt b 16 8)
      let sig : Signal := ⟨fld g 1 0, fld g 23 8, fld g 47 32, x.hsync⟩
      let it := { it with started := true, src := leAt b 0 8, len := leAt b 8 4, steps := leAt b 12 2, sig := sig }
      let srcBad := (hullCheck s x.hmem 1 (rREAD + rUNIT) it.src it.len).isSome ||
        (match s.trRange (hSeal x.hmem) it.src it.len .read with | .fault _ _ _ => true | _ => false)
      let sigBad := sig.kind ≠ 0 && ((hullCheck4 s x.hsync 2 rSIGNAL).isSome || decide (sig.obj < syncFirst x.hsync) ||
        decide (syncFirst x.hsync + hLen x.hsync ≤ sig.obj))
      if !ringDescOk x b then s.ringDone c { it with nosig := decide (sig.kind = 3) } 0x40
      else if sigBad then s.ringDone c { it with nosig := true } 0x40
      else if srcBad then s.ringDone c it 0x40
      else s.setRingHead c it

/-- R416, R428: the channel waits on an object of its domain until it holds `n`. An entry that waits on another object stays. -/
def State.ringWait (s : State) (p : WaitParty) (d : DomNo) (obj n : Nat) : State × Bool :=
  let mine := match s.waiterOf p with | some w => decide (w.obj = obj) | none => false
  if waitHolds (s.objWord d obj) (BitVec.ofNat 64 n) then (if mine then s.dropWaiter p else s, true)
  else
    match s.waiterOf p with
    | some w => (match w.wait with | .released _ _ _ => (if mine then s.dropWaiter p else s, mine) | _ => (s, false))
    | none => ((s.objFetch d obj).addWaiter ⟨p, d, obj, .ywait (BitVec.ofNat 64 n)⟩, false)

/-- R451: the packets of a ring send: blocks of at most 256 bytes at offsets of half `half`. -/
def ringPackets (c half len : Nat) (dom : DomNo) : Nat → Nat → List Byte → List Packet
  | 0, _, _ => []
  | fuel + 1, o, b =>
    if b.isEmpty then []
    else
      let n := min b.length 256
      { Packet.to 0 with
        kind := 7, srcdom := dom, chan := c, op := half, addr := o, rowlen := if o = 0 then len else 0, first := decide (o = 0),
        last := decide (n = b.length), data := b.take n } :: ringPackets c half len dom fuel (o + n) (b.drop n)

/-- Send tracked ring packets; none as soon as one cannot be sent. -/
def State.ringSendAll (s : State) (c m : Nat) (seq : W32) : List Packet → Option State
  | [] => some s
  | p :: t =>
    match s.sendTracked (ringDie c) 5 { p with dst := m } (.ring c seq) with
    | none => none
    | some s => State.ringSendAll s c m seq t

/-- R428: step `n` of a running descriptor sends its block; a source that fails a check ends the descriptor with that check's code
(R148). -/
def State.ringSend (s : State) (c : Nat) (x : RingChan) (it : RingItem) : State :=
  let n := it.sent
  let src := if n = 0 then it.src else x.buf + ((n - 1) % 2) * x.blen
  match hullCheck s x.hmem 1 (rREAD + rUNIT) src it.len with
  | some code => s.ringDone c it code
  | none =>
    match s.trRange (hSeal x.hmem) src it.len .read with
    | .pageIn _ => s
    | .fault code _ _ => s.ringDone c it code
    | .ok ps =>
      if !s.canInject (ringDie c) x.nextmod then s.ringDone c it 0x52
      else if s.epochHeld (ringDie c) x.nextmod 5 || s.piecesWait ps then s
      else
        let r := s.piecesRead ps 0 false
        let l := ringPackets c (n % 2) it.len x.dom (r.2.length / 256 + 1) 0 r.2
        match r.1.ringSendAll c x.nextmod it.seq l with
        | none => s
        | some s => s.setRingHead c { it with sent := n + 1, owed := l.length, rstat := 0 }

/-- R428: start the head descriptor, take up the acknowledgement of a step, send the next step once RECV and CREDIT
allow, or complete. -/
def State.ringStep (s : State) (c : Nat) : State :=
    let x := s.ring c
    match x.queue with
    | [] => s
    | it :: _ =>
      if !it.started then s.ringStart c x it
      else if it.owed ≠ 0 then s
      else if it.rstat ≠ 0 then s.ringDone c it 0x52
      else if it.acked < it.sent then s.setRingHead c { it with acked := it.sent }
      else if it.sent < it.steps then
        let r := if it.sent ≥ 1 then s.ringWait (.ringRecv c) x.dom x.recv it.sent else (s, true)
        if !r.2 then r.1
        else
          let q := if it.sent ≥ 2 then r.1.ringWait (.ringRecv c) x.dom x.credit (it.sent - 1) else (r.1, true)
          if !q.2 then q.1 else q.1.ringSend c x it
      else if it.credits < it.steps - 2 then s
      else s.ringDone c it 0

/-- RING_STEP (R428): `e` is what the check codes of memory find. -/
def execRingStep (chan : Fin 4096) (e : ErrMap) (s : State) : Out := .next (s.finding e fun s => s.ringStep chan.val)

/-- R428: for each s from 1 to STEPS - 2, once step s's send is done and USED is at least s, CREDIT on the previous
member gains 1, as a remote YINC in its paired namespace. -/
def State.ringCreditSend (s : State) (c : Nat) : State :=
    let x := s.ring c
    match x.queue with
    | [] => s
    | it :: _ =>
      let n := it.credits + 1
      if !it.started || decide (n + 2 > it.steps) || decide (it.acked ≤ n) then s
      else
        let r := s.ringWait (.ringCredit c) x.dom x.used n
        if !r.2 then r.1
        else
          let s := r.1
          if !s.canInject (ringDie c) x.prevmod then s.ringDone c it 0x52
          else if s.epochHeld (ringDie c) x.prevmod 3 then s
          else
            match s.sendTracked (ringDie c) 3 (syncPacket x.prevmod x.dom x.credit (.inc 1)) (.credit c it.seq) with
            | none => s
            | some s => s.setRingHead c { it with credits := n }

/-- RING_CREDIT_SEND (R428). -/
def execRingCreditSend (chan : Fin 4096) (s : State) : Out := .next (s.ringCreditSend chan.val)

/-- R429: a reply to a ring packet or a credit. -/
def State.ringReply (s : State) (c : Nat) (seq : W32) (status : Nat) (credit : Bool) : State :=
  match (s.ring c).queue with
  | [] => s
  | it :: _ =>
    let it' := { it with rstat := if it.rstat = 0 then status else it.rstat, owed := if credit then it.owed else it.owed - 1 }
    if it.started && it.seq == seq then s.setRingHead c it' else s

end Sys2Proof.Machine
end

