-- ==== Sys2Proof/Machine/Revoke.lean ====
section
/-! DEFINITION. Pages and frames of domains, the hull sweep, and revocation (R132-R138, R143, R326, R402, R421). -/

namespace Sys2Proof.Machine

/-! ### Leaves and frames (R133, R139) -/

/-- The valid entries of the table at `t`: index and entry. -/
def State.entriesOf (s : State) (t level : Nat) : List (Nat × W64) :=
  s.mem.filterMap fun c =>
    if t ≤ c.1 && decide (c.1 < t + tableSize level) && decide ((c.1 - t) % 8 = 0) && bit c.2 0 then some ((c.1 - t) / 8, s.pteAt c.1)
    else none

/-- R139: what an entry at a level covers. -/
def spanOf (level : Nat) : Nat := if level = 1 then 2 ^ 46 else leafSize level

/-- R139: the leaves under the table at `t`, whose first entry is for `va`: level, virtual address, entry. -/
def State.leavesFrom (s : State) : Nat → Nat → Nat → Nat → List (Nat × Nat × W64)
  | 0, _, _, _ => []
  | fuel + 1, level, t, va =>
    (s.entriesOf t level).flatMap fun e =>
      let va := va + e.1 * spanOf level
      if bit e.2 1 then [(level, va, e.2)] else s.leavesFrom fuel (level + 1) (pteAddr e.2) va

/-- The leaves of domain `d`: level, virtual address, entry. -/
def State.leaves (s : State) (d : DomNo) : List (Nat × Nat × W64) :=
  if (s.dom d).state = 0 then [] else s.leavesFrom 4 1 (s.dom d).root 0

/-- R118: the frames of the hull pages mapped in the module. -/
def State.hullFrames (s : State) : List Nat :=
  s.doms.flatMap fun e => (s.leaves e.1).filterMap fun l => if bit l.2.2 4 then some (pteAddr l.2.2) else none

/-- R359: the bytes of a domain's resident granary-backed pages. -/
def State.residentBytes (s : State) (d : DomNo) : Nat :=
  (s.leaves d).foldl (fun n l => if bit l.2.2 5 && bit l.2.2 6 then n + leafSize l.1 else n) 0

/-- Two ranges have a byte in common. -/
def overlaps (a n b m : Nat) : Bool := decide (a < b + m) && decide (b < a + n)

/-- R133: no domain owns a byte of the range, or has a page table there. -/
def State.frameFree (s : State) (pa n : Nat) : Bool := !s.doms.any fun e => (e.2.pages ++ e.2.tables).any fun p => overlaps pa n p.1 p.2

/-- R20: the usable bytes of a stack. -/
def stackBytes : Nat := 64000000000

/-- A free frame of `n` bytes on one of the stacks, starting the search at a free place (log entry 44). -/
def State.pickFrame (s : State) (hbmStacks : List Nat) (n : Nat) (start : W64) : Option Nat :=
  let per := stackBytes / n
  (findFree (hbmStacks.length * per) start fun i => s.frameFree (hbmStacks.getD (i / per) 0 * 2 ^ 36 + i % per * n) n).map fun i =>
    hbmStacks.getD (i / per) 0 * 2 ^ 36 + i % per * n

/-- R143: every cached translation of `[va, va + n)` in domain `d` is invalidated. -/
def State.dropTlb (s : State) (d : DomNo) (va n : Nat) : State :=
  { s with cores := tmap Core.reset (fun k => { k with tlb := k.tlb.filter fun e =>
      !(decide (e.dom = d) && overlaps va n e.base (leafSize e.level)) }) s.cores }

/-- R143: no access that used a translation to the physical range is still under way: no outstanding load, no buffered store, no stream
fill in flight. -/
def State.pageQuiet (s : State) (pa n : Nat) : Bool :=
  !s.cores.any fun e =>
    (e.2.wbuf.any fun w => overlaps pa n w.pa w.bytes.length) || (e.2.pfills.any fun f => overlaps pa n (f.pa / 128 * 128) 128) ||
    e.2.strands.any fun t =>
      let hit (m : Miss) : Bool := overlaps pa n m.pa m.size
      (t.2.miss.any hit) || (t.2.miss2.any hit) || t.2.spLoads.any hit

/-- R143: a drain item that passed its checks holds its translations until it completes. -/
def DrainItem.holdsVa (x : DrainItem) (d : DomNo) (va n : Nat) : Bool :=
  let par := x.kind < 2 && !x.started && (dwScl x.word || dwBias x.word)
  let dst := if x.kind = 0 then [] else if x.kind = 1 then dwRanges x.word x.addr else [(x.addr, 65536)]
  !x.cancelled && ((par && hSeal x.hp == d && overlaps va n x.paddr 512) || (hSeal x.hd == d && dst.any fun r => overlaps va n r.1 r.2))

/-- R286: a stream descriptor that has started holds the translations of its boxes until it completes. -/
def StreamItem.holdsVa (x : StreamItem) (d : DomNo) (va n : Nat) : Bool :=
  match strClass (dOp x.desc) with
  | none => false
  | some cl =>
    x.ran && hSeal x.ht == d && (strBoxes x.desc cl).any fun b => b.1.loc == 1 && overlaps va n (addr64 b.2.1.1) b.2.1.2

/-- R143, R314: a copy holds the translations of a row that has begun and waits for its replies. -/
def CopyItem.holdsVa (x : CopyItem) (d : DomNo) (va n : Nat) : Bool :=
  let y := x.desc
  x.started && !x.done && (x.phase == 1 || x.phase == 2) &&
    ((y.skind == 0 && hSeal x.hsrc == d && overlaps va n (addr64 (y.srcAt x.plane x.row)) y.len) ||
     (y.dkind == 0 && hSeal x.hdst == d && overlaps va n (addr64 (y.dstAt x.plane x.row)) y.len))

/-- R143, R376: the update descriptor in a unit's element phase holds the translations of every range that it uses. -/
def UpdUnit.holdsVa (u : UpdUnit) (d : DomNo) (va n : Nat) : Bool :=
  let y := u.queue u.runq
  match y.items with
  | [] => false
  | x :: _ =>
    u.running && decide (9 ≤ x.stage) && hSeal (tget 0 y.hs 1) == d &&
      (updRanges x.desc x.rule).any fun r => (List.range r.2.2.2.1).any fun i => overlaps va n (r.1 + i * r.2.1) r.2.2.1

/-- R143, R286, R314, R376: a unit holds a translation of `[va, va + n)` of domain `d` (log entry 117). -/
def State.unitsHold (s : State) (d : DomNo) (va n : Nat) : Bool :=
  (s.cores.any fun e =>
    (e.2.acc.queue.any fun x => x.holdsVa d va n) || (e.2.str.queue.any fun x => x.holdsVa d va n) ||
    e.2.cpy.chans.any fun h => h.2.queue.any fun x => x.holdsVa d va n) ||
  (s.diePools.any fun e => e.2.entries.any fun x => x.holdsVa d va n) ||
  s.upd.units.any fun e => e.2.holdsVa d va n

/-- R135 step 6, R360 step 2: the lines of a physical range leave their slots; with `back`, dirty ones are written back first. -/
def State.dropLines (s : State) (pa n : Nat) (back : Bool) : State :=
  let inside (sl : Slot) : Bool := !sl.isEmpty && decide (pa ≤ sl.pair * 256) && decide (sl.pair * 256 < pa + n)
  let s := if back then
      s.llc.foldl (fun s e =>
        let s := e.2.slots.foldl (fun s w => if inside w.2 then s.evictWay e.1 w.1 else s) s
        e.2.waiting.foldl (fun s f => if !f.split && overlaps pa n (f.line * 128) 128 then s.evictLine f.line f.st else s) s) s
    else s
  { s with llc := tmap LlcSet.empty (fun x => { x with
      slots := tmap Slot.empty (fun sl => if inside sl then Slot.empty else sl) x.slots,
      waiting := x.waiting.filter fun f => !overlaps pa n (f.line * 128) 128 }) s.llc }

/-- R135 step 6: the lines of an HBM range are invalidated without write-back: what they held is what their stack holds. -/
def State.loseLines (s : State) (pa n : Nat) : State :=
  if !isHbm pa then s
  else
    let outside (a : Nat) : Bool := decide (a < pa) || decide (pa + n ≤ a)
    let s := s.dropLines pa n false
    { s with mem := s.hbm.foldl (fun m c => if outside c.1 then m else tset memDefault m c.1 c.2) (tkeep outside s.mem) }

/-- R136: a range is husked: its lines invalidated, both views zero. -/
def State.huskPages (s : State) (l : List (Nat × Nat)) : State :=
  l.foldl (fun s p => (s.dropLines p.1 p.2 false).huskRange p.1 p.2) s

/-! ### The hull sweep (R135 step 7, R138) -/

/-- A hull of domain `d`. -/
def sealedBy (d : DomNo) (h : W128) : Bool := decide (h ≠ 0) && decide (hSeal h = d)

/-- The sweep of one bank's hull registers. -/
def Bank.swept (d : DomNo) (b : Bank) : Bank := { b with h := tfilter (fun _ h => !sealedBy d h) b.h }

/-- The hulls of domain `d` in a bank. -/
def Bank.hullsOf (d : DomNo) (b : Bank) : Nat := (b.h.filter fun e => sealedBy d e.2).length

/-- The sweep of a strand: every bank, every call frame, and hulls read for an HCALL under way. -/
def Strand.swept (d : DomNo) (t : Strand) : Strand :=
  let null (h : W128) : W128 := if sealedBy d h then 0 else h
  { t with
    b0 := t.b0.swept d, b1 := t.b1.swept d, b2 := t.b2.swept d,
    frames := t.frames.map fun f => { f with bank := f.bank.swept d },
    park := match t.park with
      | .hcallRead a b c => .hcallRead (null a) (null b) (null c)
      | p => p }

/-- The hulls of domain `d` in a strand. -/
def Strand.hullsOf (d : DomNo) (t : Strand) : Nat :=
  t.b0.hullsOf d + t.b1.hullsOf d + t.b2.hullsOf d + t.frames.foldl (fun n f => n + f.bank.hullsOf d) 0

/-- The addresses of the 16-byte words of mapped hull pages that hold a hull of domain `d`. -/
def State.sweepWords (s : State) (d : DomNo) : List Nat :=
  let pages := s.hullFrames
  (s.mem.foldl (fun (l : List Nat) c =>
    let a := c.1 / 16 * 16
    if l.head? = some a then l
    else if pages.any (fun p => decide (p ≤ a) && decide (a < p + 65536)) && sealedBy d (s.hullAt a) then a :: l else l) []).reverse

/-- R135 step 7: every hull of domain `d` in a hull register, shadow bank, call frame or hull page, and in a buffered HST,
becomes null; HUL_SWEEP reports how many. -/
def State.sweepHulls (s : State) (d : DomNo) : State :=
  let words := s.sweepWords d
  let pages := s.hullFrames
  let held := s.cores.foldl (fun n e => e.2.strands.foldl (fun n t => n + t.2.hullsOf d) n) 0
  let s := words.foldl (fun s a => s.writeMem a (List.replicate 16 0)) s
  let buffered (w : StoreEntry) : Bool :=
    decide (w.bytes.length = 16) && sealedBy d (BitVec.ofNat 128 (leNat w.bytes)) &&
      pages.contains (w.pa / 65536 * 65536)
  let fix (w : StoreEntry) : StoreEntry := if buffered w then { w with bytes := List.replicate 16 0 } else w
  let s := { s with cores := tmap Core.reset (fun (k : Core) => { k with
    strands := tmap Strand.reset (Strand.swept d) k.strands, wbuf := k.wbuf.map fix }) s.cores }
  { s with sweep := ⟨BitVec.ofNat 12 d, false, true, BitVec.ofNat 32 (words.length + held)⟩ }

/-- SWEEP_START (R138): one while a sweep runs is ignored. -/
def execSweepStart (dom : DomId) (s : State) : Out := .next (if s.sweep.busy then s else s.sweepHulls dom.toNat)

/-! ### Calls into a revoked domain (R132) -/

/-- R132: the outermost call into domain `d` of a strand ends: the state of its frame returns as it stood at the HCALL. -/
def Strand.leaveCallee (d : DomNo) (t : Strand) : Option Strand :=
  let callees := (t.frames.drop 1).map Frame.dom ++ [t.dom]
  match (List.range t.frames.length).find? fun i => decide (callees.getD i 0 = d) with
  | none => none
  | some i =>
    match t.frames[i]? with
    | none => none
    | some f =>
      let t := { t with
        cur := f.opened, live1 := t.live1 && decide (f.opened ≠ BankSel.s0), live2 := t.live2 && decide (f.opened = BankSel.s2),
        frames := t.frames.take i, dom := f.dom, park := .none, miss := none, miss2 := none, spLoads := [], gather := false }
      some (t.setBank f.bank)

/-- R135 step 3: the calls into domain `d` of other domains' strands end with FLT_CALLEE_REVOKED. -/
def State.endCalls (s : State) (d : DomNo) : State :=
  s.cores.foldl (fun s e =>
    if e.2.domain = d then s
    else (List.range 8).foldl (fun s i =>
      let w := site e.1 i
      match (s.strand w).leaveCallee d with
      | some t => (((s.dropBuf w).setStrand w t).dropWaiter (.strand e.1 i)).takeFault w (flt 0x1C)
      | none => s) s) s

/-! ### Cancellation (R28, R246, R293, R326, R402) -/

/-- R326: a copy uses a hull of domain `d`. -/
def CopyItem.uses (d : DomNo) (it : CopyItem) : Bool :=
  (it.desc.skind != 1 && sealedBy d it.hsrc) || (it.desc.dkind != 1 && sealedBy d it.hdst) ||
  (it.sig.kind != 0 && sealedBy d it.sig.hull)

/-- R326: the copies that `p` picks on a core's channels are cancelled: those at the front complete now, the others in their
sequence. -/
def State.cancelInOrder (s : State) (c : Nat) (p : CopyItem → Bool) : State :=
  (List.range 4).foldl (fun s i =>
    let ch := tget CopyChan.reset (s.core c).cpy.chans i
    let out := ch.queue.takeWhile p
    let rest := (ch.queue.drop out.length).map fun it =>
      if p it then { it with started := true, done := true, status := 0x50, rvalid := false } else it
    let s := s.modCore c fun k => { k with cpy := { k.cpy with
      chans := tset CopyChan.reset k.cpy.chans i { ch with queue := rest } } }
    s.cancelCopies out) s

/-- R293: the stream descriptors of a core that use a hull of domain `d`. -/
def State.cancelStreamsOf (s : State) (c : Nat) (d : DomNo) : State :=
  let p (it : StreamItem) : Bool := sealedBy d it.hd || sealedBy d it.ht || sealedBy d it.hs
  let q := (s.core c).str.queue
  let out := q.takeWhile p
  let rest := (q.drop out.length).map fun it => if p it then { it with started := true, status := 0x50, nosig := false } else it
  let s := if out.isEmpty then s else s.dropWaiter (.stream c)
  let s := s.modCore c fun k => { k with str := { k.str with queue := rest } }
  out.foldl (fun s it => s.streamDone c { it with nosig := false } 0x50) s

/-- R28, R246, R322: what cancellation does in a core of another domain. -/
def State.cancelForeign (s : State) (c : Nat) (d : DomNo) : State :=
  let s := (s.cancelInOrder c (CopyItem.uses d)).cancelStreamsOf c d
  let mark (it : DrainItem) : DrainItem := if sealedBy d it.hd || sealedBy d it.hp then { it with cancelled := true } else it
  s.modCore c fun k => { k.endStreams fun i => sealedBy d (tget PStream.reset k.pst i).hull with
    acc := { k.acc with queue := k.acc.queue.map mark },
    pst := tmap PStream.reset (fun p => if sealedBy d p.hull then PStream.reset else p) k.pst }

/-- R402: the queues bound to domain `d` are unbound; those that hold a hull of it lose their descriptors and that hull. -/
def State.cancelUpdates (s : State) (d : DomNo) : State :=
  (List.range 16).foldl (fun s x => (List.range 16).foldl (fun s q =>
    let y := (s.updUnit x).queue q
    if y.bound && decide (y.dom = d) then s.updUnbind x q
    else if y.hs.any fun e => sealedBy d e.2 then
      let s := s.updCancelQueue x q
      let y := (s.updUnit x).queue q
      s.setUpdQueue x q { y with hs := tfilter (fun _ h => !sealedBy d h) y.hs }
    else s) s) s

/-- R429: the ring channels of domain `d` are cancelled and returned; a ring that holds a hull of it is cancelled. -/
def State.cancelRings (s : State) (d : DomNo) : State :=
  s.sync.rings.foldl (fun s e =>
    if e.2.on && decide (e.2.dom = d) then (s.ringCancel e.1).setRing e.1 RingChan.none
    else if e.2.on && (sealedBy d e.2.hmem || sealedBy d e.2.hsync) then s.ringCancel e.1
    else s) s

/-- R159: the domains that shared a channel with `d` on this module, or to which it lent a hull. -/
def State.peersOf (s : State) (d : DomNo) : List DomNo :=
  let me := s.moduleId.toNat
  let viaChan := s.sync.chans.filterMap fun e =>
    if e.2.dom ≠ d && ((e.2.tx && decide (e.2.farmod = me) && decide (e.2.fardom = d)) ||
        (e.2.rx && decide (e.2.srcmod = me) && decide (e.2.srcdom = d))) then some e.2.dom else none
  let viaRing := s.sync.rings.filterMap fun e =>
    if e.2.dom ≠ d && e.2.on && ((decide (e.2.nextmod = me) && decide (e.2.nextdom = d)) ||
        (decide (e.2.prevmod = me) && decide (e.2.prevdom = d))) then some e.2.dom else none
  ((s.dom d).lends ++ viaChan ++ viaRing).eraseDups

/-- R135 step 4, R418: channels, pairings that name the domain in either role, slots, granary rights and bindings return to Luami. -/
def State.returnGrants (s : State) (d : DomNo) : State :=
  let s := s.cancelRings d
  let s := { s with sync := { s.sync with
    chans := tfilter (fun _ c => decide (c.dom ≠ d)) s.sync.chans,
    peers := s.sync.peers.filter fun p => decide (p.2.2 ≠ d) && !(decide (p.1 = s.moduleId.toNat) && decide (p.2.1 = d)),
    grants := s.sync.grants.filter fun g => decide (g.1 ≠ d) } }
  let s := { s with upd := { s.upd with
    sched := tfilter (fun _ x => decide (x.dom ≠ d)) s.upd.sched, loss := tfilter (fun _ x => decide (x.dom ≠ d)) s.upd.loss } }
  let s := s.cancelXfers fun x => decide (x.dom = d)
  let s := (s.dom d).rights.foldl (fun s h =>
    if hType h = 5 && decide (hKind h = 9) && hHas h 2 then s.dropOpen (hInst h) else s) s
  s.modGrn fun g => { g with binds := tdel d g.binds }

/-- R135 step 4, R474, R602: the mailboxes of domain `d`: its internal ones are cut short and return to the pool, with their contents;
a VF bound to it is cut short, but for the command that revokes. -/
def State.dropMailboxes (s : State) (d : DomNo) : State :=
  let s := s.mgmt.mbx.foldl (fun s e =>
    if 64 ≤ e.1 && decide (e.2.dom = d) then (s.abortMbx e.1).setMbx e.1 Mbx.reset
    else if 0 < e.1 && e.1 < 64 && decide ((s.func e.1).dom = d) && decide (e.2.opcode ≠ 0x0102) then s.abortMbx e.1
    else s) s
  s.modMgmt fun g => { g with funcs := tmap Func.reset (fun f =>
    if f.dom = d then { f with dom := 0, win := none, irqs := [] } else f) g.funcs }

/-- R86, R136: a core leaves its domain: every item of its strands and units is husked, its counters are zero. -/
def Core.vacate (k : Core) : Core :=
  { k.resetStrands with domain := 0, wbuf := [], pfills := [], int := IntRegs.reset, pmc := PmcSet.reset }

/-- R86, R422: core `c` leaves its domain; its SYN_RERR is reset with it. -/
def State.vacateCore (s : State) (c : Nat) : State :=
  { s.modCore c Core.vacate with sync := { s.sync with rerr := tdel c s.sync.rerr } }

/-- R135: the revocation of domain `d`, steps 1 to 6; steps 7 and 8 begin (HUSKING and SWEEPING, R134). -/
def State.revokeBegin (s : State) (d : DomNo) : State :=
  if d = 0 || (s.dom d).state = 0 || (s.dom d).husking then s
  else
    let cores := (s.dom d).cores
    let s := s.modDom d fun x => { x with state := 2 }
    let s := s.domainMsix d 4
    let peers := s.peersOf d
    let s := cores.foldl (fun s c =>
      let s := ((s.cancelCoreCopies c).cancelCoreUpdates c).dropCoreWaiters c
      s.modCore c fun k => { k.resetStrands with wbuf := [] }) s
    let s := s.endCalls d
    let s := s.cores.foldl (fun s e => if e.2.domain = d then s else s.cancelForeign e.1 d) s
    let s := s.cancelDieCopies (CopyItem.uses d)
    let s := s.cancelUpdates d
    let s := ((s.returnGrants d).dropMailboxes d)
    let s := peers.foldl (fun s e => if s.live e then s.pendAll (s.dom e).cores 43 else s) s
    let s := s.resetNamespace d
    let s := (s.dom d).pages.foldl (fun s p => s.loseLines p.1 p.2) s
    let s := s.modDom d fun x => { x with husking := true, sweeping := true }
    { s with sweep := { s.sweep with domain := BitVec.ofNat 12 d, busy := true, done := false } }

/-- R486, R495: the parked pods that hold some of the cores. -/
def State.parkedPodsOf (s : State) (cores : List Nat) : List Nat :=
  (List.range 32).filter fun p => (s.pod p).state == 2 && cores.any fun c => decide (podOfCore c = p)

/-- R135, R136: the revocation of domain `d`, steps 7 to 9. A parked pod of it is unparked at once for the husk, and parked again after it
(R486, R495); it took `us` microseconds. -/
def State.revokeEnd (s : State) (d : DomNo) (us : Nat) : State :=
  if !(s.dom d).husking then s
  else
    let cores := (s.dom d).cores
    let parked := s.parkedPodsOf cores
    let s := parked.foldl (fun s p => (s.setPod p { s.pod p with floorup := 0 }).raise 0x149 ⟨p / 8, 1, p⟩ p 0 0) s
    let s := s.sweepHulls d
    let s := s.huskPages ((s.dom d).pages ++ (s.dom d).tables)
    let s := s.raise 0x505 srcDieM (us / 1000) d 3
    let back := (s.dom d).backing
    let s := if s.objThere back then
        s.setGrnObj back { s.obj back with clen := 0, data := [], opened := [], paged := [], written := 0, fresh := [], bad := [] }
      else s
    let s := { s with
      cores := tmap Core.reset (fun k => { k with tlb := k.tlb.filter fun e => decide (e.dom ≠ d) }) s.cores,
      revokeQ := s.revokeQ.filter fun x => decide (x ≠ d) }
    let s := cores.foldl State.vacateCore s
    let s := parked.foldl (fun s p => s.raise 0x148 ⟨p / 8, 1, p⟩ p 0 0) s
    let s := s.setDom d Domain.free
    s.raise 0x209 srcDieM us d d

/-- R135, R136: the whole revocation of domain `d`; it took `us` microseconds. -/
def State.revoke (s : State) (d : DomNo) (us : Nat) : State := (s.revokeBegin d).revokeEnd d us

/-- DOMAIN_REVOCATION (R135): Luami revokes a domain that an error, a third fault or a life-cycle change condemned: steps 1 to 6, and, sent
again, steps 7 to 9. -/
def execDomainRevocation (dom : DomId) (us : BitVec 32) (s : State) : Out :=
  .next (
    let d := dom.toNat
    if (s.dom d).husking then s.revokeEnd d us.toNat
    else if s.revokeQ.contains d then s.revokeBegin d
    else s)

/-- DOMAIN_REVOKE (R477): steps 1 to 6; sent again, steps 7 to 9, at the last of which it responds. -/
def execDomainRevoke (m : Fin 320) (us : BitVec 32) (s : State) : Out :=
  .next (
    let x := s.mbx m.val
    match x.arg with
    | [d] =>
      if x.busy && decide (x.stage = 1) && decide (x.opcode = 0x0102) then (s.revokeEnd d us.toNat).respond m.val .ok 0 [rf 8 4 us.toNat]
      else s
    | _ => s.serve m.val 0x0102 [(8, 10)] (.dom 8) fun s d =>
      let s := s.revokeBegin d
      if (s.mbx m.val).busy then s.holdCmd m.val [d] else s)

end Sys2Proof.Machine
end

