-- ==== Sys2Proof/Machine/Domains.lean ====
section
/-! DEFINITION. The domain and page-table commands (R477), page-in and page-out (R142, R359-R361). -/

namespace Sys2Proof.Machine

/-! ### Page-table writes (R139, R140) -/

/-- The level of a PAGE_MAP size code. -/
def sizeLevel (n : Nat) : Nat := 4 - n

/-- R140: a leaf word: W, X, HULLPG, GB with RES, RET. -/
def leafWord (frame : Nat) (w x hp gb : Bool) (ret : Nat) : W64 :=
  BitVec.ofNat 64 (3 + b2n w * 4 + b2n x * 8 + b2n hp * 16 + b2n gb * 32 + b2n gb * 64 + ret % 4 * 128 + frame)

/-- R329: Luami writes a page-table entry through its home slice. -/
def State.writePte (s : State) (a : Nat) (e : W64) : State := s.writeMem a (leBytes 8 e.toNat)

/-- Write the entry for `va` at a level, where a table holds it. -/
def State.setPte (s : State) (d : DomNo) (level va : Nat) (e : W64) : State :=
  match s.tableAt d va level with
  | some t => s.writePte (t + 8 * pteIndex level va) e
  | none => s

/-- R139: an empty table for a level, aligned to its size, in a free place (log entry 14); none where there is no place. -/
def State.newTable (s : State) (d : DomNo) (level : Nat) : Option (State × Nat) :=
  let r := s.fresh
  let n := tableSize level
  match r.1.pickFrame (List.range 16) n r.2 with
  | none => none
  | some f => some ((r.1.huskPages [(f, n)]).modDom d fun x => { x with tables := x.tables ++ [(f, n)] }, f)

/-- The table at a level on the walk of `va`; those that are missing are made. -/
def State.makeTable (s : State) (d : DomNo) (va : Nat) : Nat → Option (State × Nat)
  | 0 => none
  | 1 => some (s, (s.dom d).root)
  | level + 1 =>
    match s.makeTable d va level with
    | none => none
    | some r =>
      let a := r.2 + 8 * pteIndex level va
      let e := r.1.pteAt a
      if bit e 0 then some (r.1, pteAddr e)
      else
        match r.1.newTable d (level + 1) with
        | none => none
        | some q => some (q.1.writePte a (setFld 1 51 12 (q.2 / 4096)), q.2)

/-- Write a leaf, with the tables above it; none where a table finds no place. -/
def State.putLeaf (s : State) (d : DomNo) (level va : Nat) (e : W64) : Option State :=
  (s.makeTable d va level).map fun r => r.1.writePte (r.2 + 8 * pteIndex level va) e

/-- R477: the place of a leaf is taken: a leaf covers the address already, or the entry holds a leaf or a table. -/
def State.placeTaken (s : State) (d : DomNo) (level va : Nat) : Bool :=
  (match s.walk d va with
   | .leaf _ _ => true
   | .invalid _ => false) || (s.pte d level va != 0)

/-- R118: the hull pages mapped in the module. -/
def State.hullPages (s : State) : Nat := s.hullFrames.length

/-- R133: a domain owns `[pa, pa + n)`: a page inside the range becomes part of it, and a page around it stays. -/
def State.own (s : State) (d : DomNo) (pa n : Nat) : State :=
  s.modDom d fun x =>
    if x.pages.any fun p => decide (p.1 ≤ pa) && decide (pa + n ≤ p.1 + p.2) then x
    else { x with pages := (x.pages.filter fun p => !overlaps pa n p.1 p.2) ++ [(pa, n)] }

/-- The part of a page outside `[pa, pa + n)`: what stays owned when a smaller frame is returned. -/
def pageRest (p : Nat × Nat) (pa n : Nat) : List (Nat × Nat) :=
  if !overlaps pa n p.1 p.2 then [p]
  else (if p.1 < pa then [(p.1, pa - p.1)] else []) ++ (if pa + n < p.1 + p.2 then [(pa + n, p.1 + p.2 - (pa + n))] else [])

/-- R477: a frame is husked and returned to the pool. -/
def State.freeFrame (s : State) (d : DomNo) (pa n : Nat) : State :=
  (s.huskPages [(pa, n)]).modDom d fun x => { x with pages := x.pages.flatMap fun p => pageRest p pa n }

/-! ### DOMAIN_CREATE and DOMAIN_START (R477) -/

/-- R477: the virtual addresses of the mappings of a new domain. -/
def vaHull : Nat := 0x000400000000
/-- The scratchpad of core 0. -/
def vaScratch : Nat := 0x000800000000
/-- The domain's HBM. -/
def vaHbm : Nat := 0x001000000000

/-- `n` free 32 MiB frames on stack `x`, each mapped at once, from address `va` on; none when they run out. -/
def State.mapHbm (s : State) (d : DomNo) (x va : Nat) : Nat → Option State
  | 0 => some s
  | n + 1 =>
    let r := s.fresh
    match r.1.pickFrame [x] (2 ^ 25) r.2 with
    | none => none
    | some f =>
      match (r.1.own d f (2 ^ 25)).putLeaf d 3 va (leafWord f true true false false 0) with
      | none => none
      | some s => State.mapHbm s d x (va + 2 ^ 25) n

/-- The HBM of a new domain, stacks ascending, `n` frames on each. -/
def State.mapStacks (s : State) (d : DomNo) (n : Nat) : Nat → List Nat → Option State
  | _, [] => some s
  | va, x :: t =>
    match s.mapHbm d x va n with
    | none => none
    | some s => State.mapStacks s d n (va + n * 2 ^ 25) t

/-- The scratchpad of core `c`: 32 pages of 64 KiB; none when no table finds a place. -/
def State.mapScratch (s : State) (d : DomNo) (c : Nat) : Option State :=
  (List.range 32).foldl (fun (s : Option State) k =>
    let pa := scratchBase c + k * 65536
    s.bind fun s => (s.own d pa 65536).putLeaf d 4 (vaScratch + c * 0x200000 + k * 65536) (leafWord pa true false false false 0)) (some s)

/-- A free internal mailbox. -/
def State.freeMailbox (s : State) (start : W64) : Option Nat := findFree 256 start fun i => decide ((s.mbx (64 + i)).dom = 0)

/-- Grant internal mailbox `i` to a domain. -/
def State.giveMailbox (s : State) (d : DomNo) (i : Nat) : State := s.setMbx (64 + i) { Mbx.reset with dom := d }

/-- R477: the unit access hull of internal mailbox `i`. -/
def mailboxHull (d : DomNo) (i : Nat) : W128 :=
  mkHull 4 (rREAD + rWRITE + rDERIVE) d 0 256 (dieRegBase 4 + 0x100 * i)

/-- R86, R517: a core goes to a domain with every item and every PMC_ register at its reset value. -/
def State.assignCore (s : State) (d : DomNo) (c : Nat) : State :=
  (s.vacateCore c).modCore c fun k => { k with domain := d }

/-- R477: DOMAIN_CREATE installs what it promises: state, mappings, cores, the first mailbox; none when a pool is exhausted. -/
def State.createDomain (s : State) (d i : Nat) (cores hbmStacks : List Nat) (hbm backing quota : Nat) : Option State :=
  let s := s.setDom d { Domain.free with state := 1, cores := cores, hbm := hbm, backing := backing, quota := quota, mbx := i }
  match s.newTable d 1 with
  | none => none
  | some t =>
    let s := t.1.modDom d fun x => { x with ptroot := BitVec.ofNat 38 (t.2 / 16384) }
    match s.mapStacks d (hbm / 2 ^ 25 / hbmStacks.length) vaHbm hbmStacks with
    | none => none
    | some s =>
      let r := s.fresh
      match r.1.pickFrame (hbmStacks.take 1) 65536 r.2 with
      | none => none
      | some f =>
        match (r.1.own d f 65536).putLeaf d 4 vaHull (leafWord f true false true false 0) with
        | none => none
        | some s =>
          (cores.foldl (fun (s : Option State) c => (s.bind fun s => s.mapScratch d c).map fun s => s.assignCore d c) (some s)).map fun s =>
            s.giveMailbox d i

/-- R476, R477: DOMAIN_CREATE at its tick boundary. -/
def State.applyDomainCreate (s : State) (m : Nat) : State :=
  let x := s.mbx m
  let cores := (List.range 256).filter (x.at 8 32).testBit
  let hbm := x.at 40 8
  let hbmStacks := (List.range 16).filter (x.at 48 2).testBit
  let backing := x.at 52 4
  if s.mgmt.lc.state ≠ 2 && decide (s.mgmt.lc.state ≠ 3) then s.respond m .state 0 []
  else
    match cores.find? fun c => decide ((s.core c).domain ≠ 0) with
    | some c => s.respond m .state (8 + c / 8) []
    | none =>
      if hbmStacks.isEmpty then s.respond m .badparam 48 []
      else if hbm % (2 ^ 25 * hbmStacks.length) ≠ 0 then s.respond m .badparam 40 []
      else if backing ≠ 0 && (decide ((s.obj backing).kind ≠ 4) ||
          s.doms.any fun e => decide (e.2.state ≠ 0) && decide (e.2.backing = backing)) then s.respond m .state 52 []
      else if s.hullPages ≥ 4096 || cores.any fun c => !s.frameFree (scratchBase c) 0x200000 then s.respond m .nores 0 []
      else
        let r := s.fresh
        match findFree 4095 r.2 fun i => (r.1.dom (i + 1)).state == 0, r.1.freeMailbox r.2 with
        | some d, some i =>
          match r.1.createDomain (d + 1) i cores hbmStacks hbm backing (x.at 56 8) with
          | some t => t.respond m .ok 0 [rf 8 2 (d + 1), rf 10 2 i, rf 16 8 vaHull]
          | none => s.respond m .nores 0 []
        | _, _ => s.respond m .nores 0 []

/-- DOMAIN_CREATE (R476): accepted; Luami applies it at the next tick boundary. -/
def execDomainCreate (m : Fin 320) (s : State) : Out :=
  .next (s.serve m.val 0x0100 [(8, 50), (52, 64)] .pf fun s _ => s.acceptTick m.val)

/-- R477: the start set of strand 0: h15 over the code, h14 over everything DOMAIN_CREATE maps, h11 the first internal mailbox. -/
def startSet (d : DomNo) (x : Domain) (entry k lman : Nat) : Table W128 :=
  match canonLen vaHull (vaHbm + x.hbm - vaHull) with
  | some (e, n) =>
    tset 0 (tset 0 (tset 0 [] 11 (mailboxHull d x.mbx)) 14 (mkHull 1 0x41FF d e n vaHull)) 15 (mkHull 1 (rEXEC + rREAD) d k lman entry)
  | none => []

/-- DOMAIN_START. -/
def execDomainStart (m : Fin 320) (s : State) : Out :=
  .next (s.serve m.val 0x0101 [(8, 12), (16, 32)] (.dom 8) fun s d =>
    let x := s.mbx m.val
    let c := x.at 10 2
    let entry := x.at 16 8
    let len := x.at 24 8
    if c > 255 then s.respond m.val .badparam 10 []
    else if !(s.dom d).cores.contains c || (List.range 8).any fun i => ((s.core c).strand i).running then s.respond m.val .state 10 []
    else if entry % 4 ≠ 0 || entry ≥ 2 ^ 57 then s.respond m.val .badparam 16 []
    else if entry + len > 2 ^ 57 then s.respond m.val .badparam 24 []
    else
      match canonLen entry len with
      | none => s.respond m.val .refused 114 []
      | some (k, n) =>
        let h := startSet d (s.dom d) entry k n
        let t : Strand := { Strand.reset with running := true, b0 := { Bank.reset with pc := BitVec.ofNat 57 entry, h := h }, dom := d }
        (s.setStrand (site c 0) t).respondOk m.val)

/-! ### PAGE_MAP and PAGE_UNMAP (R477) -/

/-- R20, R118, R140, R297, R333, R359: why Luami refuses a leaf at a frame: the rule. -/
def State.refuseLeaf (s : State) (d : DomNo) (level frame : Nat) (x hp gb : Bool) : Option Nat :=
  let n := leafSize level
  let last := frame + n - 1
  let kind := regionOf frame
  if (hp && decide (level ≠ 4)) then some 140
  else
    match kind with
    | .scratch _ _ =>
      if level ≠ 4 then some 297 else if x then some 333 else if gb then some 359 else if frame % n ≠ 0 then some 140 else none
    | .hbm _ =>
      if regionOf last ≠ kind then some 20
      else if frame % n ≠ 0 then some 140
      else if gb && (decide (level = 2) || hp || decide ((s.dom d).backing = 0)) then some 359
      else none
    | _ => some 20

/-- R133: a named frame is another domain's, holds a page table, which only Luami reaches, or is mapped already. -/
def State.frameTaken (s : State) (d : DomNo) (frame n : Nat) : Bool :=
  (s.doms.any fun e =>
    (decide (e.1 ≠ d) && e.2.pages.any fun p => overlaps frame n p.1 p.2) || e.2.tables.any fun p => overlaps frame n p.1 p.2) ||
  (s.leaves d).any fun l => (!bit l.2.2 5 || bit l.2.2 6) && overlaps frame n (pteAddr l.2.2) (leafSize l.1)

/-- PAGE_MAP. -/
def execPageMap (m : Fin 320) (s : State) : Out :=
  .next (s.serve m.val 0x0103 [(8, 12), (16, 32)] (.dom 8) fun s d =>
    let q := s.mbx m.val
    let size := q.at 10 1
    let fl := q.at 11 1
    let va := q.at 16 8
    let frame := q.at 24 8
    let level := sizeLevel size
    let n := leafSize level
    let x := fl.testBit 1
    let hp := fl.testBit 2
    let gb := fl.testBit 3
    let e (f : Nat) : W64 := leafWord f (fl.testBit 0) x hp gb (nfld fl 5 4)
    let done (s : State) (f : Nat) : State :=
      match (s.own d f n).putLeaf d level va (e f) with
      | some s => s.respond m.val .ok 0 [rf 8 8 f]
      | none => s.respond m.val .nores 0 []
    if size > 2 then s.respond m.val .badparam 10 []
    else if fl > 63 || 2 ≤ nfld fl 5 4 then s.respond m.val .badparam 11 []
    else if va % n ≠ 0 || va ≥ 2 ^ 57 then s.respond m.val .badparam 16 []
    else
      let r := s.fresh
      let spot := if frame ≠ 0 then some frame else r.1.pickFrame (List.range 16) n r.2
      match spot with
      | none => s.respond m.val .nores 0 []
      | some f =>
        match s.refuseLeaf d level f x hp gb with
        | some rule => s.respond m.val .refused rule []
        | none =>
          if s.placeTaken d level va then s.respond m.val .state 16 []
          else if frame ≠ 0 && s.frameTaken d f n then s.respond m.val .refused 133 []
          else if hp && decide (4096 ≤ s.hullPages) then s.respond m.val .nores 0 []
          else done (if frame ≠ 0 then s else r.1) f)

/-- R143, R477: a PAGE_UNMAP goes on once every access under the old translation has completed. Its `arg` is the frame, its size, and
whether it is returned. -/
def State.unmapDone (s : State) (m : Nat) (d : DomNo) (pa n free : Nat) : State :=
  if !s.pageQuiet pa n then s.holdCmd m [d, pa, n, free]
  else (if free = 1 then s.freeFrame d pa n else s).respondOk m

/-- PAGE_UNMAP: once no unit holds a translation of the page, the leaf goes and its cached translations with it; sent again, it
goes on from its wait. -/
def execPageUnmap (m : Fin 320) (s : State) : Out :=
  .next (
    let x := s.mbx m.val
    match x.arg with
    | [d, pa, n, free] =>
      if x.busy && decide (x.stage = 1) && decide (x.opcode = 0x0104) then s.finding [] fun s => s.unmapDone m.val d pa n free
      else s
    | _ => s.serve m.val 0x0104 [(8, 11), (16, 25)] (.dom 8) fun s d =>
      let size := x.at 10 1
      let va := x.at 16 8
      let free := x.at 24 1
      let level := sizeLevel size
      if size > 2 then s.respond m.val .badparam 10 []
      else if va ≥ 2 ^ 57 then s.respond m.val .badparam 16 []
      else if free > 1 then s.respond m.val .badparam 24 []
      else
        match s.walk d va with
        | .invalid _ => s.respond m.val .state 16 []
        | .leaf l e =>
          if l ≠ level || va % leafSize level ≠ 0 then s.respond m.val .state 16 []
          else if s.unitsHold d va (leafSize level) then s
          else
            let s := (s.setPte d level va 0).dropTlb d va (leafSize level)
            let back := (s.dom d).backing
            let s := s.modDom d fun y => { y with lost := y.lost.filter fun a => decide (a ≠ va) }
            if bit e 5 && !bit e 6 then
              (s.setGrnObj back { s.obj back with paged := tdel va (s.obj back).paged }).respondOk m.val
            else s.unmapDone m.val d (pteAddr e) (leafSize level) free)

/-! ### The remaining domain commands -/

/-- VECTOR_SET (R145): only alignment is checked. -/
def execVectorSet (m : Fin 320) (s : State) : Out :=
  .next (s.serve m.val 0x0108 [(8, 10), (16, 32)] (.dom 8) fun s d =>
    let v := (s.mbx m.val).at 16 8
    let f := (s.mbx m.val).at 24 8
    if v % 512 ≠ 0 then s.respond m.val .badparam 16 []
    else if f % 4 ≠ 0 then s.respond m.val .badparam 24 []
    else
      let word (a : Nat) : W64 := if a = 0 then 0 else BitVec.ofNat 64 (a % 2 ^ 57 + 1)
      (s.modDom d fun x => { x with vbase := word v, dfpc := word f }).respondOk m.val)

/-- R476: QUOTA_SET at its tick boundary. -/
def State.applyQuotaSet (s : State) (m : Nat) : State :=
  let d := (s.mbx m).at 8 2
  if !s.live d then s.respond m .state 8 []
  else (s.modDom d fun x => { x with quota := (s.mbx m).at 16 8 }).respondOk m

/-- QUOTA_SET. -/
def execQuotaSet (m : Fin 320) (s : State) : Out :=
  .next (s.serve m.val 0x0109 [(8, 10), (16, 24)] (.pfDom 8) fun s _ => s.acceptTick m.val)

/-- FAULT_POLICY (R156, R477). -/
def execFaultPolicy (m : Fin 320) (s : State) : Out :=
  .next (s.serve m.val 0x010B [(8, 11)] (.pfDom 8) fun s d =>
    let p := (s.mbx m.val).at 10 1
    if p > 1 then s.respond m.val .badparam 10 []
    else (s.modDom d fun x => { x with revokeOn3 := decide (p = 1) }).respondOk m.val)

/-! ### Page-in and page-out (R142, R359-R361, R530) -/

/-- R142, R151: the strands whose entry to a bank waits for a page go on with it. -/
def State.wakeEntries (s : State) : State :=
  s.cores.foldl (fun s e => (List.range 8).foldl (fun s i =>
    let w := site e.1 i
    match (s.strand w).park with
    | .entry e handler => s.resumeEntry w e handler
    | _ => s) s) s

/-- R91, R142: the strands that wait for a page go on. -/
def State.wakePage (s : State) (d : DomNo) (base n : Nat) : State :=
  State.wakeEntries { s with cores := tmap Core.reset (fun k => { k with
      strands := tmap Strand.reset (fun t =>
        match t.park with
        | .pageIn e va => if e = d && decide (base ≤ va) && decide (va < base + n) then { t with park := .none } else t
        | _ => t) k.strands }) s.cores }

/-- PAGE_IN (R142): Luami reads a page that is not resident from the granary into a free frame, through its home slices (R329), and sets RES. A page the granary cannot
supply makes the accesses fault with FLT_PAGE_LOST. While the quota has no room, or no frame is free, it waits. -/
def execPageIn (dom : DomId) (va : Nat) (supplied : Bool) (err : ErrMap) (s : State) : Out :=
  .next (s.finding err fun s =>
    let d := dom.toNat
    match s.walk d va with
    | .invalid _ => s
    | .leaf level e =>
      let n := leafSize level
      let base := va / n * n
      let back := (s.dom d).backing
      if !s.live d || !bit e 5 || bit e 6 then s
      else if !supplied then
        let r := s.fresh
        let s := r.1.modGrn fun g => { g with uncorr := satInc g.uncorr 1 }
        let s := s.raise 0x404 srcDieM (r.2.toNat % 32) 0 back
        (s.modDom d fun x => { x with lost := if x.lost.contains base then x.lost else x.lost ++ [base] }).wakePage d base n
      else if (s.dom d).quota < s.residentBytes d + n then s
      else
        let r := s.fresh
        match r.1.pickFrame (List.range 16) n r.2 with
        | none => s
        | some f =>
          let b := tget [] (s.obj back).paged base
          let s := (r.1.own d f n).writeMem f (memBytes b 0 n)
          let s := s.setPte d level va (setFld (setBit e 6 true) 51 12 (f / 4096))
          let s := s.setGrnObj back { s.obj back with paged := tdel base (s.obj back).paged }
          let s := s.modDom d fun x => { x with lost := x.lost.filter fun a => decide (a ≠ base) }
          ((s.raise 0x401 srcDieM n 0 d).countDie 4 0x44 0 n).wakePage d base n)

/-- R360: a slot of the physical range that is pinned or locked. -/
def State.holdsPage (s : State) (pa n : Nat) : Bool :=
  s.llc.any fun e => e.2.slots.any fun w =>
    (w.2.pinned || w.2.locked) && decide (pa ≤ w.2.pair * 256) && decide (w.2.pair * 256 < pa + n)

/-- PAGE_OUT (R360): a resident granary-backed page of a domain at its quota (a further page would pass it) is written back, stored in
the backing object, committed, and its frame returned; where in the object, and so its CLEN, is free. Luami takes no page with a pinned slot and waits for a locked one; nothing is
written while the granary takes no writes (R533, R535). `e` is what the check codes of memory find. -/
def execPageOut (dom : DomId) (va : Nat) (e : ErrMap) (s : State) : Out :=
  .next (s.finding e fun s =>
    let d := dom.toNat
    match s.walk d va with
    | .invalid _ => s
    | .leaf level e =>
      let n := leafSize level
      let base := va / n * n
      let back := (s.dom d).backing
      let pa := pteAddr e
      let g := s.mgmt.grn
      if !s.live d || !bit e 5 || !bit e 6 || s.residentBytes d + 2 ^ 25 ≤ (s.dom d).quota then s
      else if s.holdsPage pa n || !s.pageQuiet pa n || s.unitsHold d base n || !g.ready || !g.holdup || g.readonly then s
      else
        let s := (s.setPte d level va (setBit e 6 false)).dropTlb d base n
        let s := s.dropLines pa n true
        let b := (s.mem.filter fun c => decide (pa ≤ c.1) && decide (c.1 < pa + n)).map fun c => (c.1 - pa, c.2)
        let r := s.fresh
        let y := s.obj back
        let s := r.1.setGrnObj back { y with
          paged := tset [] y.paged base b, gen := y.gen + 1, clen := r.2.toNat % (y.cap + 1), ctime := s.timeOf 4 }
        let s := (s.wear n).countDie 4 0x45 0 n
        (s.freeFrame d pa n).raise 0x258 srcDieM (b2n (level == 3)) d d)

end Sys2Proof.Machine
end

