-- ==== Sys2Proof/Machine/Flags.lean ====
section
/-! DEFINITION. The register field types of R14: how a stored word is formed and read, and what a write does to an RW and an RW1C field.
A write never reaches an RO or RSVD field; a WO field triggers its register's action. -/

namespace Sys2Proof.Machine

/-- A register word from its fields: low bit, width, value. Bits of no field read zero (R14, R6). -/
def regWord : List (Nat × Nat × Nat) → W64
  | [] => 0
  | (lo, w, v) :: t => setFld (regWord t) (lo + w - 1) lo v

/-- A one-bit field. -/
def flag (lo : Nat) (b : Bool) : Nat × Nat × Nat := (lo, 1, b2n b)

/-- R14: the mask of a field. -/
def fieldMask (hi lo : Nat) : W64 := BitVec.ofNat 64 ((2 ^ (hi + 1 - lo) - 1) * 2 ^ lo)

/-- R14: a write of `v` to a stored word whose RW bits are `rw` and whose RW1C bits are `w1c`. -/
def mergeWrite (old v rw w1c : W64) : W64 := ((old &&& ~~~rw) ||| (v &&& rw)) &&& ~~~(v &&& w1c)

/-- R14: an RW1C flag after a write: writing 1 clears it. -/
def w1c (f : Bool) (v : W64) (i : Nat) : Bool := f && !bit v i

end Sys2Proof.Machine
end

