-- ==== Sys2Proof/Machine/Links.lean ====
section
/-! DEFINITION. The Prarik links (chapter 15): flits, retry, lanes and lasers, port power, packets at transit and destination,
route epochs, module identity. -/

namespace Sys2Proof.Machine

/-! ### Sending flits (R440, R441, R447, R449) -/

/-- Take up to `n` bytes from a queue of packets: the bytes, the packets left. -/
def takeBytes : Nat → List TxPkt → Nat → List Byte × List TxPkt
  | 0, q, _ => ([], q)
  | _ + 1, [], _ => ([], [])
  | fuel + 1, x :: t, n =>
    let b := (pktBytes x.pkt).drop x.sent
    if n < b.length then (b.take n, { x with sent := x.sent + n } :: t)
    else if n = b.length then (b, t)
    else
      let r := takeBytes fuel t (n - b.length)
      (b ++ r.1, r.2)

/-- R447: a flit of a channel and class has a credit. -/
def Port.hasCredit (p : Port) (vc cls : Nat) : Bool := decide (tget 0 p.used (vcKey vc cls) < 16) || decide (p.shared < 1536)

/-- R449: the class of a channel that may send: 3 before 2 before 1. -/
def Port.ready (p : Port) (vc : Nat) : Option Nat :=
  [3, 2, 1].find? fun cls => !(tget [] p.tx (vcKey vc cls)).isEmpty && p.hasCredit vc cls

/-- R449: the channel and class that take the next slot: management first while it has used none of the last 64 slots, then the other
seven in round robin. -/
def Port.grant (p : Port) : Option (Nat × Nat) :=
  match (if p.hist = 0 then p.ready 6 else none) with
  | some cls => some (6, cls)
  | none =>
    let order := ((List.range 8).map fun i => (p.rr + 1 + i) % 8).filter fun v => decide (v ≠ 6)
    order.findSome? fun v => (p.ready v).map fun cls => (v, cls)

/-- R440, R447: up to two credit returns: the two fields and what stays owed. -/
def Port.credits (p : Port) : Nat × Nat × Table Nat :=
  let one := fun (t : Table Nat) =>
    match t with
    | [] => (0, t)
    | (k, n) :: _ =>
      let c := min n 63
      (k / 8 + (k / 2 % 4) * 8 + c * 32 + (k % 2) * 2048, tset 0 t k (n - c))
  let a := one p.owed
  let b := one a.2
  (a.1, b.1, b.2)

/-- R440: the header every flit carries, with its kind, channel and payload. -/
def Port.flit (p : Port) (seq : Nat) (ctrl : Bool) (vc cls : Nat) (payload : List Byte) : Flit × Table Nat :=
  let c := p.credits
  ({ seq := seq, ackseq := (p.rxSeq - 1).toNat, nak := p.nak, ctrl := ctrl, vc := vc, cls := cls, cr0 := c.1, cr1 := c.2.1,
     lreq := (p.rxReq.getD 0).toNat, lreqv := p.rxReq.isSome, payload := payload, bad := false }, c.2.2)

/-- A port sends flits: UP, DEGRADED, or powering down while it drains. -/
def Port.sends (p : Port) : Bool := decide (p.state = 2) || decide (p.state = 3) || decide (p.state = 4)

/-- FLIT_SEND (R439-R441, R447, R449): one slot: a flit being replayed, else a new data flit while fewer than 2,048 are
unacknowledged, else a control flit. -/
def execFlitSend (port : Fin 36) (s : State) : Out :=
  .next (
    let k := port.val
    let p := s.port k
    if !p.sends then s
    else
      let s := s.countDie (k / 9) 0x10 (k % 9) 1
      match p.resend with
      | f :: rest =>
        let r := p.flit f.seq.toNat false f.vc f.cls f.payload
        s.setPort k { p with resend := rest, owed := r.2, wire := rsBlock (flitBytes r.1) }
      | [] =>
        match (if p.replay.length < 2048 then p.grant else none) with
        | none =>
          let r := p.flit p.txSeq.toNat true 0 0 []
          s.setPort k { p with owed := r.2, wire := rsBlock (flitBytes r.1), hist := p.hist <<< 1 }
        | some (vc, cls) =>
          let q := takeBytes 16 (tget [] p.tx (vcKey vc cls)) 236
          let r := p.flit p.txSeq.toNat false vc cls q.1
          let own := decide (tget 0 p.used (vcKey vc cls) < 16)
          let s := s.bwAdd (k / 9) (4 + k % 9) 0 q.1.length
          s.setPort k { p with
            tx := tset [] p.tx (vcKey vc cls) q.2, owed := r.2, wire := rsBlock (flitBytes r.1), txSeq := p.txSeq + 1,
            replay := p.replay ++ [⟨p.txSeq, vc, cls, q.1⟩], progress := if p.replay.isEmpty then s.time else p.progress,
            used := if own then tset 0 p.used (vcKey vc cls) (tget 0 p.used (vcKey vc cls) + 1) else p.used,
            shared := if own then p.shared else p.shared + 1,
            hist := (p.hist <<< 1) ||| (if vc = 6 then 1 else 0), rr := if vc = 6 then p.rr else vc })

/-! ### Receiving flits (R438, R441, R447, R450) -/

/-- R447: buffers are freed and their credits owed to the sender. -/
def Port.free (p : Port) (key : Nat) (charges : List Bool) : Port :=
  charges.foldl (fun p sh => { p with
    rused := if sh then p.rused else tset 0 p.rused key (tget 0 p.rused key - 1),
    owed := tset 0 p.owed (key * 2 + b2n sh) (tget 0 p.owed (key * 2 + b2n sh) + 1) }) p

/-- R451: a packet kind that is not reserved. -/
def kindOk (k : Nat) : Bool := [1, 2, 3, 4, 5, 6, 7, 9, 10].contains k

/-- R450, R453: a whole packet has crossed port `k`: it counts the hop; at its destination it is checked, and otherwise it waits to be
forwarded or taken. -/
def State.arrive (s : State) (k key : Nat) (p : Packet) (charges : List Bool) : State :=
  let p := { p with hidx := p.hidx + 1 }
  if p.hidx ≥ p.hops && decide (p.dst ≠ s.moduleId.toNat) then (s.modPort k fun x => x.free key charges).discard k p
  else if p.hidx ≥ p.hops && (p.bad || !kindOk p.kind) then
    (s.modPort k fun x => x.free key charges).raise 0x34B (srcPort k) p.kind 0 k
  else s.modPort k fun x =>
    let c := tget RxChan.empty x.rx key
    { x with rx := tset RxChan.empty x.rx key { c with pkts := c.pkts ++ [⟨p, charges⟩] } }

/-- R450: cut the bytes received on a channel into packets. -/
def State.cutPackets : Nat → State → Nat → Nat → State
  | 0, s, _, _ => s
  | fuel + 1, s, k, key =>
    let c := tget RxChan.empty (s.port k).rx key
    match pktLen c.bytes with
    | none => s
    | some n =>
      if c.bytes.length < n then s
      else
        let rest := c.bytes.drop n
        let mine := if rest.isEmpty then c.charges else c.charges.dropLast
        let left := if rest.isEmpty then [] else c.charges.drop (c.charges.length - 1)
        let s := s.modPort k fun x => { x with rx := tset RxChan.empty x.rx key { c with bytes := rest, charges := left } }
        State.cutPackets fuel (s.arrive k key (pktOf (c.bytes.take n)) mine) k key

/-- R441, R442: a flit is discarded: counted, NAK set, event 0x340. One whose SEQ cannot be read counts as a rejection of the SEQ that
is expected; a later SEQ does not. -/
def State.rejectFlit (s : State) (k : Nat) (seq : Nat) (unread : Bool) : State :=
  let s := s.modPort k fun p => { p with crcerr := satInc p.crcerr 1, nak := true, rejects := p.rejects + b2n unread }
  s.raise 0x340 (srcPort k) k 0 seq

/-- R447: take one credit return. -/
def Port.takeCredit (p : Port) (cr : Nat) : Port :=
  let key := vcKey (nfld cr 2 0) (nfld cr 4 3)
  let n := nfld cr 10 5
  if cr.testBit 11 then { p with shared := p.shared - n } else { p with used := tset 0 p.used key (tget 0 p.used key - n) }

/-- R441: the acknowledgements, NAK, credits and lane request of a good flit. -/
def Port.takeHeader (p : Port) (f : Flit) (now : W64) : Port :=
  let left := p.replay.filter fun r => !decide ((BitVec.ofNat 12 f.ackseq - r.seq).toNat < 2048)
  let p := (p.takeCredit f.cr0).takeCredit f.cr1
  { p with
    progress := if left.length < p.replay.length then now else p.progress,
    replay := left, resend := p.resend.filter fun r => left.contains r, nakSeen := f.nak && !left.isEmpty,
    txReq := if f.lreqv && decide (BitVec.ofNat 16 f.lreq ≠ p.txmask) then some (BitVec.ofNat 16 f.lreq) else p.txReq }

/-- R439, R443: the wavelength that carries byte `b` of a block under a mask. -/
def laneOfByte (mask : W16) (b : Nat) : Nat :=
  let l := (List.range 16).filter fun n => bit mask n
  l.getD (b % l.length) 0

/-- R467: corrected symbols are counted for the port and each wavelength. -/
def Port.countFec (p : Port) (pos : List Nat) : Port :=
  { p with
    csym := satInc p.csym pos.length,
    lcur := pos.foldl (fun t b => tset 0 t (laneOfByte p.rxmask b) (satInc (tget 0 t (laneOfByte p.rxmask b)) 1)) p.lcur }

/-- FLIT_RECEIVE (R438, R441, R447): a block arrives: decoded, checked, its header taken; a data flit with the expected SEQ is accepted
and cut into packets, any other is rejected. -/
def execFlitReceive (port : Fin 36) (block : List Byte) (s : State) : Out :=
  .next (
    let k := port.val
    if !(s.port k).sends then s
    else
      match rsUnblock block with
      | none =>
        (s.modPort k fun p => { p with uncorr := satInc p.uncorr 1 }).rejectFlit k (s.port k).rxSeq.toNat true
      | some (b, pos) =>
        let s := s.modPort k fun p => p.countFec pos
        let f := flitOf b
        if f.bad then s.rejectFlit k (s.port k).rxSeq.toNat true
        else
          let s := s.modPort k fun p => p.takeHeader f s.time
          let p := s.port k
          if f.ctrl then s
          else if f.seq ≠ p.rxSeq.toNat then s.rejectFlit k f.seq false
          else
            let key := vcKey f.vc f.cls
            let sh := decide (tget 0 p.rused key ≥ 16)
            let c := tget RxChan.empty p.rx key
            let s := (s.countDie (k / 9) 0x11 (k % 9) 1).bwAdd (k / 9) (4 + k % 9) 1 f.payload.length
            let s := s.setPort k { p with
              rxSeq := p.rxSeq + 1, nak := false, rejects := 0,
              rused := if sh then p.rused else tset 0 p.rused key (tget 0 p.rused key + 1),
              rx := tset RxChan.empty p.rx key { c with bytes := c.bytes ++ f.payload, charges := c.charges ++ [sh] } }
            State.cutPackets 9 s k key)

/-- REPLAY (R441): on NAK the sender resends every unacknowledged flit in order; event 0x341. -/
def execReplay (port : Fin 36) (s : State) : Out :=
  .next (
    let k := port.val
    let p := s.port k
    if !p.nakSeen || p.replay.isEmpty || !p.sends then s
    else
      let s := s.setPort k { p with resend := p.replay, nakSeen := false, retry := satInc p.retry 1 }
      (s.countDie (k / 9) 0x12 (k % 9) 1).raise 0x341 (srcPort k) p.replay.length 0 k)

/-- RETRAIN (R442, R470): after 8 rejections of one SEQ the receive direction retrains on its present lanes, and after 100 µs without
progress the transmit direction does; SEQ, the replay buffer, credits and packets are kept. A retrain that fails, or fewer than 8
lanes, puts the port in DOWN. -/
def execRetrain (port : Fin 36) (fails : Bool) (locked : BitVec 16) (s : State) : Out :=
  .next (
    let k := port.val
    let p := s.port k
    let rx := decide (p.rejects ≥ 8)
    let due := rx || (!p.replay.isEmpty && decide (p.progress.toNat + 100000 ≤ s.time.toNat))
    if !s.portUsable k || !due then s
    else
      let s := s.setPort k { p with
        retrain := satInc p.retrain 1, rejects := if rx then 0 else p.rejects, progress := if rx then p.progress else s.time }
      let mask := if rx then p.rxmask else p.txmask
      if fails then s.portDown k
      else if mask &&& locked = mask then s
      else s.setMask k (!rx) (mask &&& locked))

/-! ### Lanes and lasers (R437, R443-R445) -/

/-- LANE_BER_WINDOW (R443): the end of a 1 ms window: each wavelength's count is kept and judged; 2,125 warns, 21,250 asks for the
wavelength to be dropped. -/
def execLaneBerWindow (port : Fin 36) (s : State) : Out :=
  .next (
    let k := port.val
    let p := s.port k
    if !s.portUsable k then s
    else
      let lanes := (List.range 16).filter fun n => bit p.rxmask n
      let c := fun n => (tget 0 p.lcur n).toNat
      let bad := lanes.filter fun n => decide (c n ≥ 21250)
      let warn := lanes.filter fun n => decide (c n ≥ 2125)
      let mask := bad.foldl (fun m n => setBit m n false) p.rxmask
      let s := s.setPort k { p with
        lber := (List.range 16).foldl (fun t n => tset 0 t n (tget 0 p.lcur n)) p.lber, lcur := [],
        berhi := warn.foldl (fun m n => setBit m n true) p.berhi, rxReq := if bad.isEmpty then p.rxReq else some mask }
      warn.foldl (fun s n => s.raise 0x34E (srcPort k) (c n) 0 (k + n * 256)) s)

/-- LANE_MASK_CHANGE (R444, R445): a direction switches to the mask that was asked for. -/
def execLaneMaskChange (port : Fin 36) (tx : Bool) (s : State) : Out :=
  .next (
    let k := port.val
    match (if tx then (s.port k).txReq else (s.port k).rxReq) with
    | some m => if s.portUsable k then s.setMask k tx m else s
    | none => s)

/-- R444: a receiver changes its mask by its own finding, and asks the far transmitter for the same mask in LREQ. -/
def State.rxMaskAsked (s : State) (k : Nat) (m : W16) : State :=
  let s := s.setMask k false m
  if s.portUsable k then s.modPort k fun p => { p with rxReq := some m } else s

/-- WAVELENGTH_LOCK_LOSS (R443): the wavelength is dropped from the receive direction. -/
def execWavelengthLockLoss (port : Fin 36) (wl : Fin 16) (s : State) : Out :=
  .next (
    let k := port.val
    let p := s.port k
    if s.portUsable k && bit p.rxmask wl.val then s.rxMaskAsked k (setBit p.rxmask wl.val false) else s)

/-- A laser group as a source of events. -/
def srcLaser (g : Nat) : Src := ⟨4 * g / 9, 6, g⟩

/-- R437 step 2: the ports of a group drop a wavelength from their transmit direction. -/
def State.dropWl (s : State) (g wl : Nat) : State :=
  (List.range 4).foldl (fun s i =>
    let k := 4 * g + i
    let p := s.port k
    let s := s.setPort k { p with spare := setBit p.spare wl false }
    if s.portUsable k && bit p.txmask wl then s.setMask k true (setBit p.txmask wl false) else s) s

/-- A wavelength that has failed, is not served by the redundant laser and is not lost: takeover is due. -/
def Lasers.due (x : Lasers) : Option Nat :=
  (List.range 16).find? fun n => bit x.failed n && !bit x.lost n && decide (x.serves.map Fin.val ≠ some n)

/-- LASER_FAIL (R437): a wavelength laser, the redundant laser serving a wavelength (`wl` that one), or the idle redundant laser
(none) fails. -/
def execLaserFail (group : Fin 9) (wl : Option (Fin 16)) (s : State) : Out :=
  .next (
    let g := group.val
    let x := s.lasers g
    match wl with
    | none =>
      if x.serves.isSome || x.spareBad then s
      else
        let s := (s.setLasers g { x with spareBad := true }).raise 0x348 (srcLaser g) 0xF 0 g
        match x.due with
        | some n => (s.setLasers g { x with spareBad := true, lost := setBit x.lost n true }).raise 0x348 (srcLaser g) n 0 g
        | none => s
    | some n =>
      if x.serves = some n then
        let s := s.setLasers g { x with serves := none, spareBad := true, lost := setBit x.lost n.val true }
        (s.dropWl g n.val).raise 0x348 (srcLaser g) n.val 0 g
      else if bit x.failed n.val then s
      else
        let lost := x.serves.isSome || x.spareBad || x.due.isSome
        let y := { x with failed := setBit x.failed n.val true, lost := if lost then setBit x.lost n.val true else x.lost }
        let s := (s.setLasers g y).dropWl g n.val
        if lost then s.raise 0x348 (srcLaser g) n.val 0 g else s)

/-- LASER_TAKEOVER (R437 step 3): the redundant laser is tuned to the failed wavelength; event 0x347. -/
def execLaserTakeover (group : Fin 9) (s : State) : Out :=
  .next (
    let g := group.val
    let x := s.lasers g
    match x.due with
    | some n =>
      if x.serves.isSome || x.spareBad then s
      else (s.setLasers g { x with serves := some (Fin.ofNat 16 n) }).raise 0x347 (srcLaser g) n 0 g
    | none => s)

/-- LANE_ADD (R445): a wavelength whose laser serves it again, and on which the far receiver has locked, is added back. -/
def execLaneAdd (port : Fin 36) (tx : Bool) (wl : Fin 16) (s : State) : Out :=
  .next (
    let k := port.val
    let p := s.port k
    let x := s.lasers (k / 4)
    let spare := decide (x.serves = some wl)
    if !s.portUsable k then s
    else if tx then
      if bit p.txmask wl.val || (bit x.failed wl.val && !spare) then s
      else (s.setPort k { p with spare := setBit p.spare wl.val spare }).setMask k true (setBit p.txmask wl.val true)
    else if bit p.rxmask wl.val then s else s.rxMaskAsked k (setBit p.rxmask wl.val true))

/-! ### Port power (R464-R466) -/

/-- R466: a write of PLK_PCTL.REQ. -/
def State.pctlRequest (s : State) (k : Nat) (turnOn : Bool) : State :=
  let p := s.port k
  if p.state = 1 || p.state = 4 then
    (s.setPort k { p with req := turnOn, latched := true, lreq := turnOn }).raise 0x34D (srcPort k) k 0 0
  else (s.setPort k { p with req := turnOn }).startRequest k turnOn

/-- PCTL_REQUEST (R466). -/
def execPctlRequest (port : Fin 36) (turnOn : Bool) (s : State) : Out := .next (s.pctlRequest port.val turnOn)

/-- R464: a power-up step fails. -/
def State.upFails (s : State) (k step : Nat) : State :=
  ((s.modPort k fun p => { p with state := 5 }).raise 0x345 (srcPort k) step 0 k).runLatched k

/-- PORT_POWER_UP (R464): the steps of a port that is powering up: lasers, lanes, HELLO and the id check, buffers, Luami's id claim (R456); then the
latched request runs. -/
def execPortPowerUp (port : Fin 36) (env : PortEnv) (s : State) : Out :=
  .next (
    let k := port.val
    let g := k / 4
    let p := s.port k
    if p.state ≠ 1 then s
    else if env.failStep = some 1 then s.upFails k 1
    else
      let x := s.lasers g
      let s := s.setLasers g { x with lit := true }
      let dead := (List.range 16).foldl (fun m n =>
        if bit x.failed n && decide (x.serves.map Fin.val ≠ some n) then setBit m n true else m) (0 : W16)
      let tx := env.txLocked &&& ~~~dead
      if env.failStep = some 2 || maskCount tx < 8 || maskCount env.rxLocked < 8 then s.upFails k 2
      else if env.failStep = some 3 then s.upFails k 3
      else if env.failStep = some 4 then s.upFails k 4
      else
        let clash := decide (env.farMod = s.moduleId) && decide (env.serial ≠ s.link.serial)
        let s := s.setPort k { p with
          farmod := env.farMod, farport := env.farPort, farvalid := true, idconf := p.idconf || clash }
        let s := if clash then s.idConflict env.farMod.toNat env.serial else s
        if env.failStep = some 5 then s.upFails k 5
        else
          let p := s.port k
          let spare : W16 := match x.serves with | some n => setBit 0 n.val (bit tx n.val) | none => 0
          let s := s.setPort k { p with
            txmask := tx, rxmask := env.rxLocked, spare := spare, txSeq := 0, rxSeq := 0, nak := false, nakSeen := false, rejects := 0,
            replay := [], resend := [], used := [], shared := 0, rused := [], owed := [], rx := p.received, txReq := none, rxReq := none,
            progress := s.time }.laneState
          let s := { s with link := { s.link with floods := s.link.floods ++ [(s.moduleId.toNat, s.link.serial, 1)] } }
          (s.raise 0x346 (srcPort k) (maskCount tx) 0 k).runLatched k)

/-- R465 step 3: the lanes are disabled and the port is OFF. -/
def State.portOff (s : State) (k : Nat) : State :=
  ((s.modPort k fun p => { p with
    state := 0, txmask := 0, rxmask := 0, spare := 0, replay := [], resend := [], tx := [], rx := p.received, used := [], shared := 0,
    rused := [], owed := [], txReq := none, rxReq := none }).lasersOff (k / 4)).runLatched k

/-- PORT_POWER_DOWN (R465): a port that is powering down and quiet goes OFF. -/
def execPortPowerDown (port : Fin 36) (s : State) : Out :=
  .next (
    let p := s.port port.val
    if p.state = 4 && p.replay.isEmpty && p.queued.isEmpty then s.portOff port.val else s)

/-- PORT_QUIET_TIMEOUT (R465 step 2): a port not quiet within 1 ms proceeds as though it had gone DOWN. -/
def execPortQuietTimeout (port : Fin 36) (s : State) : Out :=
  .next (if (s.port port.val).state = 4 then (s.portDown port.val).portOff port.val else s)

/-! ### Packets (R448, R453, R457-R460) -/

/-- The packet at the head of a receive channel. -/
def State.rxHead (s : State) (k vc cls : Nat) : Option RxPkt :=
  (tget RxChan.empty (s.port k).rx (vcKey vc cls)).pkts.head?

/-- Take the head of a receive channel; its buffer is freed. -/
def State.rxTake (s : State) (k vc cls : Nat) (x : RxPkt) : State :=
  s.modPort k fun p =>
    let key := vcKey vc cls
    let c := tget RxChan.empty p.rx key
    ({ p with rx := tset RxChan.empty p.rx key { c with pkts := c.pkts.drop 1 } } : Port).free key x.charges

/-- PACKET_FORWARD (R453): the head packet of a channel, with hops left, goes on in the next hop class, rerouted or discarded. -/
def execPacketForward (port : Fin 36) (vc : Fin 8) (cls : Fin 4) (s : State) : Out :=
  .next (
    match s.rxHead port.val vc.val cls.val with
    | some x =>
      if x.pkt.hidx < x.pkt.hops then (s.rxTake port.val vc.val cls.val x).forward port.val vc.val x.pkt else s
    | none => s)

/-- R457: the channel of a packet is configured as a receiver for its source, and its domain is LIVE. -/
def State.chanOk (s : State) (p : Packet) : Bool :=
  let ch := s.chan p.chan
  ch.rx && decide (ch.srcmod = p.src) && decide (ch.srcdom = p.srcdom) && s.live ch.dom

/-- R486: the data of a packet that passes its checks lies in the scratchpad of a parked pod. -/
def State.packetParked (s : State) (p : Packet) : Bool :=
  let ch := s.chan p.chan
  let r := s.ring p.chan
  let waits (d : DomNo) (va n : Nat) (k : AccKind) : Bool := match s.trRange d va n k with | .ok ps => s.piecesWait ps | _ => false
  match p.kind with
  | 1 => s.chanOk p && waits ch.dom (ch.wbase + p.addr) p.rowlen .read
  | 3 => s.chanOk p && waits ch.dom (ch.wbase + p.addr) p.data.length .write
  | 7 => r.on && s.live r.dom && waits (hSeal r.hmem) (r.buf + p.op * r.blen + p.addr) p.data.length .write
  | _ => false

/-- R25, R448, R486: take a packet from its link buffer; one whose data lie in a parked pod's scratchpad then waits at that pod's port, and
holds no link buffer. -/
def State.takeOrWait (s : State) (d : Nat) (f : State → Packet → State) (p : Packet) : State :=
  if s.packetParked p then { s with link := { s.link with atPods := s.link.atPods ++ [(d, p)] } } else f s p

/-- A command that takes a packet of one kind at its destination. -/
def State.onPacket (s : State) (port : Fin 36) (vc : Fin 8) (cls : Fin 4) (kind : Nat) (f : State → Packet → State) : State :=
  match s.rxHead port.val vc.val cls.val with
  | some x =>
    if x.pkt.kind = kind && decide (x.pkt.hidx ≥ x.pkt.hops) then (s.rxTake port.val vc.val cls.val x).takeOrWait (port.val / 9) f x.pkt else s
  | none => s

/-- R457: the row a FIRST packet begins lies in the landing window. -/
def inWindow (ch : StageChan) (p : Packet) : Bool := !p.first || decide (p.addr + p.rowlen ≤ ch.wlen)

/-- R457: a read request is checked, and answered with the bytes of the landing window. -/
def State.rdreq (s : State) (d : Nat) (p : Packet) : State :=
  let ch := s.chan p.chan
  if !s.chanOk p then s.ackTo d p 0x52
  else if decide (p.addr + p.rowlen > ch.wlen) then s.ackTo d p 0x0D
  else
    match s.trRange ch.dom (ch.wbase + p.addr) p.rowlen .read with
    | .ok ps =>
      let r := s.piecesRead ps 0 false
      (r.1.inject d 1 { Packet.to p.src with kind := 2, tag := p.tag, chan := p.chan, addr := p.addr, data := r.2 }).getD r.1
    | .fault c _ _ => s.ackTo d p c
    | .pageIn _ => s.ackTo d p 0x52

/-- RDREQ (R457). `e` is what the check codes of memory find. -/
def execRdreq (port : Fin 36) (vc : Fin 8) (cls : Fin 4) (e : ErrMap) (s : State) : Out :=
  .next (s.finding e fun s => s.onPacket port vc cls 1 fun s p => s.rdreq (port.val / 9) p)

/-- R458: the operation of a tracker completes. -/
def State.trackerDone (s : State) (t : Tracker) (status : Nat) (data : List Byte) : State :=
  let s := { s with link := { s.link with trackers := s.link.trackers.filter fun x => decide (x.tag ≠ t.tag) } }
  match t.op with
  | .read e seq off n => s.copyReply e seq status (if status = 0 then some (off, bytesAt data 0 n) else none)
  | .row e seq => s.copyReply e seq status none
  | .close e seq c => (if status = 0 then s else s.breakChan c).copyReply e seq status none
  | .closeOnly c => if status = 0 then s else s.breakChan c
  | .sync c _ _ => s.syncAcked c t.tag status
  | .ring c seq => s.ringReply c seq status false
  | .credit c seq => s.ringReply c seq status true
  | .mgmt => s

/-- R458: a reply with a tag completes its operation; a reply nobody waits for is discarded. -/
def State.reply (s : State) (tag status : Nat) (data : List Byte) : State :=
  match s.link.trackers.find? fun t => decide (t.tag = tag) with
  | some t => s.trackerDone t status data
  | none => s

/-- RDDATA (R451): read data for the requester's tracker. -/
def execRddata (port : Fin 36) (vc : Fin 8) (cls : Fin 4) (s : State) : Out :=
  .next (s.onPacket port vc cls 2 fun s p => s.reply p.tag 0 p.data)

/-- ACK (R458). -/
def execAck (port : Fin 36) (vc : Fin 8) (cls : Fin 4) (s : State) : Out :=
  .next (s.onPacket port vc cls 9 fun s p => s.reply p.tag p.status [])

/-- R457, R314: a row that a FIRST packet refuses is refused to its LAST packet. -/
def State.noteRefused (s : State) (p : Packet) (refuse : Bool) : State :=
  let ch := s.chan p.chan
  if p.last then s.setChan p.chan { ch with refused := ch.refused.filter fun c => decide (c ≠ p.cseq) }
  else if refuse && !ch.refused.contains p.cseq then s.setChan p.chan { ch with refused := ch.refused ++ [p.cseq] }
  else s

/-- R457: what the checks of a landing packet refuse, if anything. -/
def State.landRefuses (s : State) (p : Packet) (reduce : Bool) : Option Nat :=
  let ch := s.chan p.chan
  if !s.chanOk p then some 0x52
  else if !inWindow ch p || ch.refused.contains p.cseq || decide (p.addr + p.data.length > ch.wlen) then some 0x0D
  else if reduce && !ch.reduce then some 0x52
  else none

/-- R457, R458: a landing packet: refused, or its bytes land in the window through the channel's domain and it is acknowledged. -/
def State.land (s : State) (d : Nat) (p : Packet) (reduce : Bool) : State :=
  let ch := s.chan p.chan
  match s.landRefuses p reduce with
  | some c => (s.noteRefused p (decide (c = 0x0D))).ackTo d p c
  | none =>
    let s := s.noteRefused p false
    match s.trRange ch.dom (ch.wbase + p.addr) p.data.length .write with
    | .fault c _ _ => s.ackTo d p c
    | .pageIn _ => s.ackTo d p 0x52
    | .ok ps =>
      if !reduce then (s.piecesWrite ps p.data 0 false).ackTo d p 0
      else
        match redOpOf p.op with
        | none => s.ackTo d p 0x52
        | some op =>
          let r := ps.foldl (fun (acc : State × List Byte) x =>
            (State.reduceRange (x.2.1 / 128 + 2) acc.1 x.1 op (acc.2.take x.2.1), acc.2.drop x.2.1)) (s, p.data)
          r.1.ackTo d p 0

/-- WRITE (R457). `e` is what the check codes of memory find. -/
def execWrite (port : Fin 36) (vc : Fin 8) (cls : Fin 4) (e : ErrMap) (s : State) : Out :=
  .next (s.finding e fun s => s.onPacket port vc cls 3 fun s p => s.land (port.val / 9) p false)

/-- REDUCE (R457): the elements go to the home slice. `e` is what the check codes of memory find. -/
def execReduce (port : Fin 36) (vc : Fin 8) (cls : Fin 4) (e : ErrMap) (s : State) : Out :=
  .next (s.finding e fun s => s.onPacket port vc cls 4 fun s p => s.land (port.val / 9) p true)

/-- R460: take CLOSE packets in CSEQ order: status 0 adds 1 to FOBJ before the ACK. -/
def State.takeClose : Nat → State → Nat → State
  | 0, s, _ => s
  | fuel + 1, s, c =>
    let ch := s.chan c
    match ch.early.find? fun e => decide (e.1.cseq = ch.cseqRx.toNat) with
    | none => s
    | some e =>
      let s := s.setChan c { ch with cseqRx := ch.cseqRx + 1, early := ch.early.filter fun x => decide (x.1.cseq ≠ ch.cseqRx.toNat) }
      let s := if e.1.status = 0 then s.objSignal ch.dom ch.fobj (.inc 1) 0 else s
      State.takeClose fuel (s.ackTo e.2 e.1 0) c

/-- CLOSE (R460). -/
def execClose (port : Fin 36) (vc : Fin 8) (cls : Fin 4) (s : State) : Out :=
  .next (s.onPacket port vc cls 5 fun s p =>
    let d := port.val / 9
    let ch := s.chan p.chan
    if !s.chanOk p then s.ackTo d p 0x52
    else State.takeClose (ch.early.length + 1) (s.setChan p.chan { ch with early := ch.early ++ [(p, d)] }) p.chan)

/-- R451: the operation a SYNC packet names; CFG goes with YSET only. -/
def syncOpOf (p : Packet) : Option ObjOp :=
  let v : W64 := BitVec.ofNat 64 (leAt p.data 0 8)
  match p.op with
  | 0 => some (.inc (v.toNat % 2 ^ 32))
  | 1 => some (.dec (v.toNat % 2 ^ 32))
  | 2 => some (.set v)
  | 6 => some (.cfg v)
  | 3 => some .arrive
  | _ => none

/-- R418, R419: a sync packet is resolved in the paired namespace and performed; the status it answers. -/
def State.remoteSync (s : State) (p : Packet) : State × Nat :=
  match s.sync.peers.find? fun e => decide (e.1 = p.src) && decide (e.2.1 = p.srcdom) with
  | none => (s, 0x52)
  | some e =>
    let d := e.2.2
    if !s.live d || !s.objExists d p.addr then (s, 0x52)
    else
      match syncOpOf p with
      | none => (s, 0x38)
      | some op =>
        let x := s.objWord d p.addr
        let sem := match op with | .dec _ => decide (objType x = 1) | _ => false
        match (if sem then none else objApply x op) with
        | none => (s, 0x38)
        | some x' => (s.objPerform d p.addr op x' 0, 0)

/-- SYNC (R418). -/
def execSync (port : Fin 36) (vc : Fin 8) (cls : Fin 4) (s : State) : Out :=
  .next (s.onPacket port vc cls 6 fun s p =>
    let r := s.remoteSync p
    r.1.ackTo (port.val / 9) p r.2)

/-- R428, R457: a block lands in a half of the member's buffer; once every byte has landed RECV gains 1. -/
def State.ringLand (s : State) (d : Nat) (p : Packet) : State :=
  let x := s.ring p.chan
  if !x.on || decide (x.prevmod ≠ p.src) || decide (x.prevdom ≠ p.srcdom) || !s.live x.dom || decide (p.op > 1) ||
      decide (p.addr + p.data.length > x.blen) then s.ackTo d p 0x52
  else
    match s.trRange (hSeal x.hmem) (x.buf + p.op * x.blen + p.addr) p.data.length .write with
    | .ok ps =>
      let s := s.piecesWrite ps p.data 0 false
      (if p.last then s.objSignal x.dom x.recv (.inc 1) 0 else s).ackTo d p 0
    | .fault c _ _ => s.ackTo d p c
    | .pageIn _ => s.ackTo d p 0x52

/-- RING (R428, R457). `e` is what the check codes of memory find. -/
def execRing (port : Fin 36) (vc : Fin 8) (cls : Fin 4) (e : ErrMap) (s : State) : Out :=
  .next (s.finding e fun s => s.onPacket port vc cls 7 fun s p => s.ringLand (port.val / 9) p)

/-- R486: the packets that waited at the ports of pods go on; one whose pod is still parked waits on. -/
def State.podPortsGo (s : State) : State :=
  s.link.atPods.foldl (fun s x =>
    s.takeOrWait x.1 (fun s p => if p.kind = 1 then s.rdreq x.1 p else if p.kind = 3 then s.land x.1 p false else s.ringLand x.1 p) x.2)
    { s with link := { s.link with atPods := [] } }

/-- MGMT (R448): the packet enters Luami's receive ring of 256 entries, or is discarded and its sender receives FLT_LINK_FAIL. -/
def execMgmt (port : Fin 36) (vc : Fin 8) (cls : Fin 4) (s : State) : Out :=
  .next (s.onPacket port vc cls 10 fun s p =>
    if s.link.mgmt.length < 256 then { s with link := { s.link with mgmt := s.link.mgmt ++ [p] } }
    else s.ackTo (port.val / 9) p 0x52)

/-- REPLY_TIMEOUT (R458): 10 ms without a reply: the operation completes with FLT_LINK_FAIL. -/
def execReplyTimeout (tag : BitVec 16) (s : State) : Out := .next (s.reply tag.toNat 0x52 [])

/-! ### Identity and epochs (R454, R456) -/

/-- ID_CLAIM_RECEIVE (R456): a claim of (id, serial): a serial other than the id's own or one claimed before is a conflict; a claim not
seen before is sent on, for three hops. -/
def execIdClaimReceive (id : BitVec 12) (serial : BitVec 64) (hops : Fin 4) (s : State) : Out :=
  .next (
    let l := tget [] s.link.claims id.toNat
    let clash := if id = s.moduleId then decide (serial ≠ s.link.serial) else !l.isEmpty && !l.contains serial
    let s := if clash then s.idConflict id.toNat serial else s
    if l.contains serial then s
    else { s with link := { s.link with
      claims := tset [] s.link.claims id.toNat (l ++ [serial]),
      floods := if hops.val < 3 then s.link.floods ++ [(id.toNat, serial, hops.val + 1)] else s.link.floods } })

/-- R454, R468: a write of PLK_EPOCH.COMMIT, ignored while BUSY. -/
def State.routeCommit (s : State) (d : Nat) : State :=
  let x := s.switch d
  if x.busy then s else s.setSwitch d { x with busy := true }

/-- ROUTE_EPOCH_COMMIT (R454): the injection points of a die flip to the shadow table. -/
def execRouteEpochCommit (die : Fin 4) (s : State) : Out := .next (s.routeCommit die.val)

/-- R468: OLDPKT: old-epoch packets in flight from or through a die: unacknowledged ones it sent, and those its ports hold. -/
def State.oldPkt (s : State) (d : Nat) : Nat :=
  let old := (s.switch d).active
  if !(s.switch d).busy then 0
  else
    (s.link.trackers.filter fun t => decide (t.die = d) && t.epoch == old).length +
    ((List.range 9).map fun i =>
      let p := s.port (9 * d + i)
      (p.queued.filter fun e => decide (e.2.pkt.hidx ≠ 0) && e.2.pkt.epoch == old).length +
      (p.rx.map fun e => (e.2.pkts.filter fun x => x.pkt.epoch == old).length).sum).sum

/-- ROUTE_EPOCH_RETIRE (R454): once OLDPKT is 0, ACTIVE names the new table; event 0x34A. When all four dies have retired, a
ROUTE_COMMIT responds. -/
def execRouteEpochRetire (die : Fin 4) (s : State) : Out :=
  .next (
    let d := die.val
    let x := s.switch d
    if !x.busy || decide (s.oldPkt d ≠ 0) then s
    else
      let s := (s.setSwitch d { x with active := !x.active, busy := false, done := true, retired := s.time + 1 }).raise 0x34A (srcDie d) d 0 0
      if (List.range 4).any fun i => (s.switch i).busy then s else s.respondWaiting 0x0401 .ok [])

/-! ### Counter clears -/

/-- PLK_ERR_CLR (R467). -/
def execPlkErrClr (port : Fin 36) (s : State) : Out :=
  .next (s.modPort port.val fun p => { p with crcerr := 0, uncorr := 0, retry := 0, retrain := 0 })

/-- FECC_CLR (R467). -/
def execFeccClr (port : Fin 36) (s : State) : Out := .next (s.modPort port.val fun p => { p with csym := 0 })

/-- BSTAT_CLR (R468). -/
def execBstatClr (die : Fin 4) (b : Fin 3) (s : State) : Out :=
  .next (s.setSwitch die.val { s.switch die.val with bretry := tset 0 (s.switch die.val).bretry b.val 0 })

end Sys2Proof.Machine
end

