-- ==== Sys2Proof/Machine/Grants.lean ====
section
/-! DEFINITION. The mailbox commands that grant rights, objects, queues, mailboxes and channels, and those of links and routes
(R369, R418, R424, R426, R452-R456, R477, R478). -/

namespace Sys2Proof.Machine

/-! ### Lending and device rights -/

/-- R477: a hull lies within what the source's root bounds. -/
def State.withinRoot (s : State) (src : DomNo) (h : W128) : Bool :=
  if hType h = 2 then
    decide (nfld (hBase h) 27 16 = s.moduleId.toNat) && decide (nfld (hBase h) 15 0 + hLen h ≤ 65536) &&
      (List.range (min (hLen h) 65536)).all fun i => s.objExists src (nfld (hBase h) 15 0 + i)
  else true

/-- HULL_LEND: the template with SEAL = source, placed in the target's hull page. -/
def execHullLend (m : Fin 320) (s : State) : Out :=
  .next (s.serve m.val 0x0200 [(8, 12), (16, 40)] (.dom 8) fun s src =>
    let x := s.mbx m.val
    let dst := x.at 10 2
    let h : W128 := setFld (BitVec.ofNat 128 (x.at 24 16)) 107 96 src
    if dst = 0 || dst > 4095 then s.respond m.val .badparam 10 []
    else if !s.live dst then s.respond m.val .state 10 []
    else if hType h ≠ 1 && decide (hType h ≠ 2) && decide (hType h ≠ 3) then s.respond m.val .badparam 39 []
    else if hMalformed h || (decide (hType h = 3) && (decide (hLen h ≠ 64) || decide (hBase h % 64 ≠ 0))) then s.respond m.val .badparam 24 []
    else if !s.withinRoot src h then s.respond m.val .refused 477 []
    else
      match s.hullSpot dst (x.at 16 8) 16 with
      | .inl e => s.respond m.val e.1 e.2 []
      | .inr pa =>
        let s := s.modDom src fun d => { d with lends := if d.lends.contains dst then d.lends else d.lends ++ [dst] }
        (s.putHull pa h).respondOk m.val)

/-- R117: the instances of a KIND of device right. -/
def kindInstances (k : Nat) : Nat :=
  match k with
  | 1 => 32
  | 2 => 261
  | 3 => 1
  | 4 => 16
  | 5 => 64
  | 6 => 256
  | _ => 4096

/-- R477: some domain other than `d` (0 for any) holds an exclusive right of KIND `k` over one of `n` instances from `a`. -/
def State.rightTaken (s : State) (d : DomNo) (k a n : Nat) : Bool :=
  decide (5 ≤ k) && s.doms.any fun e => decide (e.1 ≠ d) && e.2.rights.any fun h =>
    decide (hType h = 5) && decide (hKind h = k) && overlaps a n (hInst h) (hLen h)

/-- R389, R393: schedule and loss-monitor slots know the domain they are granted to. -/
def State.ownSlots (s : State) (d : DomNo) (k a n : Nat) : State :=
  (List.range n).foldl (fun s i =>
    if k = 5 then s.setSchedSlot (a + i) { s.schedSlot (a + i) with dom := d }
    else if k = 6 then s.setLossSlot (a + i) { s.lossSlot (a + i) with dom := d }
    else s) s

/-- RIGHT_GRANT. -/
def execRightGrant (m : Fin 320) (s : State) : Out :=
  .next (s.serve m.val 0x0201 [(8, 20), (24, 32)] (.dom 8) fun s d =>
    let x := s.mbx m.val
    let k := x.at 10 1
    let rt := x.at 11 1
    let first := x.at 12 4
    let n := x.at 16 4
    let lim := kindInstances k
    if k < 1 || k > 8 then s.respond m.val .badparam 10 []
    else if k ≤ 4 && decide (m.val ≠ 0) then s.respond m.val .noauth 0 []
    else if rt > 7 then s.respond m.val .badparam 11 []
    else if n = 0 || n > lim then s.respond m.val .badparam 16 []
    else if first ≠ 0xFFFFFFFF && decide (lim < first + n) then s.respond m.val .badparam 12 []
    else if first ≠ 0xFFFFFFFF && s.rightTaken 0 k first n then s.respond m.val .state 12 []
    else
      let r := s.fresh
      let spot := if first = 0xFFFFFFFF then findFree (lim - n + 1) r.2 fun i => !s.rightTaken 0 k i n else some first
      match spot with
      | none => s.respond m.val .nores 0 []
      | some a =>
        match s.hullSpot d (x.at 24 8) 24 with
        | .inl e => s.respond m.val e.1 e.2 []
        | .inr pa =>
          let h := mkHull 5 (rt % 4 + rDERIVE + (if rt.testBit 2 then rPASS else 0)) d 0 n (k * 2 ^ 48 + a)
          let s := if first = 0xFFFFFFFF then r.1 else s
          (((s.ownSlots d k a n).putHull pa h).addRight d h).respond m.val .ok 0 [rf 8 4 a])

/-! ### Sync objects, queues, mailboxes, peers -/

/-- R404: some object of `n` from `a` is granted in the namespace of `d` already. -/
def State.objTaken (s : State) (d : DomNo) (a n : Nat) : Bool :=
  s.sync.grants.any fun g => decide (g.1 = d) && overlaps a n g.2.1 g.2.2

/-- SYNC_GRANT: WAIT, SIGNAL, SET, CONFIG and DERIVE, and PASS when asked. -/
def execSyncGrant (m : Fin 320) (s : State) : Out :=
  .next (s.serve m.val 0x0203 [(8, 11), (12, 20), (24, 32)] (.dom 8) fun s d =>
    let x := s.mbx m.val
    let first := x.at 12 4
    let n := x.at 16 4
    if x.at 10 1 > 1 then s.respond m.val .badparam 10 []
    else if n = 0 || n > 65536 then s.respond m.val .badparam 16 []
    else if first ≠ 0xFFFFFFFF && decide (65536 < first + n) then s.respond m.val .badparam 12 []
    else if first ≠ 0xFFFFFFFF && s.objTaken d first n then s.respond m.val .state 12 []
    else
      let r := s.fresh
      let spot := if first = 0xFFFFFFFF then findFree (65536 - n + 1) r.2 fun i => !s.objTaken d i n else some first
      match spot with
      | none => s.respond m.val .nores 0 []
      | some a =>
        match canonLen (s.moduleId.toNat * 65536 + a) n, s.hullSpot d (x.at 24 8) 24 with
        | _, .inl e => s.respond m.val e.1 e.2 []
        | none, _ => s.respond m.val .refused 114 []
        | some (k, l), .inr pa =>
          let h := mkHull 2 (0xF + rDERIVE + (if x.at 10 1 = 1 then rPASS else 0)) d k l (s.moduleId.toNat * 65536 + a)
          let s := if first = 0xFFFFFFFF then r.1 else s
          let s := { s with sync := { s.sync with grants := s.sync.grants ++ [(d, a, n)] } }
          (s.putHull pa h).respond m.val .ok 0 [rf 8 4 a])

/-- R399: the base of the register page of queue `q` of unit `x`. -/
def queuePage (x q : Nat) : Nat := dieRegBase (x / 4) + 0x100000 + 0x10000 * (x % 4) + 0x8000 + 0x800 * q

/-- The hulls in `n` consecutive words of a hull page of domain `d` from `va`, or the failure. -/
def State.hullsFrom (s : State) (d : DomNo) (o : Nat) : Nat → Nat → (Sts × Nat) ⊕ List W128
  | 0, _ => .inr []
  | n + 1, va =>
    match s.hullSpot d va o with
    | .inl e => .inl e
    | .inr pa =>
      match State.hullsFrom s d o n (va + 16) with
      | .inl e => .inl e
      | .inr l => .inr (s.hullAt pa :: l)

/-- UPDQ_BIND (R369). -/
def execUpdqBind (m : Fin 320) (s : State) : Out :=
  .next (s.serve m.val 0x0204 [(8, 12), (16, 32)] (.dom 8) fun s d =>
    let x := s.mbx m.val
    let u := x.at 10 1
    let q := x.at 11 1
    if u > 15 then s.respond m.val .badparam 10 []
    else if q > 15 && decide (q ≠ 255) then s.respond m.val .badparam 11 []
    else if q ≠ 255 && ((s.updUnit u).queue q).bound then s.respond m.val .state 12 []
    else
      let r := s.fresh
      let spot := if q = 255 then findFree 16 r.2 fun i => !((s.updUnit u).queue i).bound else some q
      match spot with
      | none => s.respond m.val .nores 0 []
      | some q' =>
        match s.hullsFrom d 16 6 (x.at 16 8), s.hullSpot d (x.at 24 8) 24 with
        | .inl e, _ => s.respond m.val e.1 e.2 []
        | _, .inl e => s.respond m.val e.1 e.2 []
        | .inr hs, .inr pa =>
          let h := mkHull 4 (rREAD + rWRITE) d 0 0x800 (queuePage u q')
          let s := if q = 255 then r.1 else s
          let y := (s.updUnit u).queue q'
          let hs := (hs.mapIdx fun i h => (i, h)).filter fun e => decide (e.2 ≠ 0)
          let s := s.setUpdQueue u q' { y with bound := true, dom := d, hs := hs }
          (s.putHull pa h).respond m.val .ok 0 [rf 8 1 u, rf 9 1 q'])

/-- UPDQ_UNBIND (R369, R402). -/
def execUpdqUnbind (m : Fin 320) (s : State) : Out :=
  .next (s.serve m.val 0x0205 [(8, 12)] (.dom 8) fun s d =>
    let u := (s.mbx m.val).at 10 1
    let q := (s.mbx m.val).at 11 1
    if u > 15 then s.respond m.val .badparam 10 []
    else if q > 15 then s.respond m.val .badparam 11 []
    else if !((s.updUnit u).queue q).bound || ((s.updUnit u).queue q).dom ≠ d then s.respond m.val .state 10 []
    else (s.updUnbind u q).respondOk m.val)

/-- MBX_GRANT. -/
def execMbxGrant (m : Fin 320) (s : State) : Out :=
  .next (s.serve m.val 0x0207 [(8, 10), (16, 24)] (.dom 8) fun s d =>
    let r := s.fresh
    match r.1.freeMailbox r.2 with
    | none => s.respond m.val .nores 0 []
    | some i =>
      match s.hullSpot d ((s.mbx m.val).at 16 8) 16 with
      | .inl e => s.respond m.val e.1 e.2 []
      | .inr pa => ((r.1.giveMailbox d i).putHull pa (mailboxHull d i)).respond m.val .ok 0 [rf 8 2 i])

/-- PEER_PAIR (R418): the pairing of (far module, far domain). -/
def execPeerPair (m : Fin 320) (s : State) : Out :=
  .next (s.serve m.val 0x0208 [(8, 14)] .pf fun s _ =>
    let x := s.mbx m.val
    let d := x.at 8 2
    let a := x.at 10 2
    let e := x.at 12 2
    if d > 4095 then s.respond m.val .badparam 8 []
    else if d ≠ 0 && !s.live d then s.respond m.val .state 8 []
    else if a > 4095 then s.respond m.val .badparam 10 []
    else if e = 0 || e > 4095 then s.respond m.val .badparam 12 []
    else
      let rest := s.sync.peers.filter fun p => !(decide (p.1 = a) && decide (p.2.1 = e))
      let l := if d = 0 then rest else rest ++ [(a, e, d)]
      ({ s with sync := { s.sync with peers := l } } : State).respondOk m.val)

/-! ### Channels (R424, R426, R478) -/

/-- R478: the first byte of fields that must be zero which is not. -/
def Mbx.notZero (x : Mbx) (l : List (Nat × Nat)) : Option Nat :=
  (List.range 64).find? fun o => (l.any fun r => decide (r.1 ≤ o) && decide (o < r.2)) && decide (x.at o 1 ≠ 0)

/-- R457: a granary-backed page of domain `d` lies in `[va, va + n)`. -/
def State.backedIn (s : State) (d : DomNo) (va n : Nat) : Bool :=
  (s.leaves d).any fun l => bit l.2.2 5 && overlaps va n l.2.1 (leafSize l.1)

/-- R477: the device right hull that CHAN_CONFIG grants over channel `c`: USE. -/
def chanHull (d : DomNo) (kind c : Nat) : W128 := mkHull 5 1 d 0 1 (kind * 2 ^ 48 + c)

/-- R426, R422: the unit access hull over a ring channel's three registers. -/
def ringPage (d : DomNo) (c : Nat) : W128 :=
  mkHull 4 (rREAD + rWRITE) d 0 24 (dieRegBase (c / 1024) + 0x310000 + 0x100 * (c % 1024))

/-- The channel's device right enters the domain's rights once. -/
def State.grantChan (s : State) (d : DomNo) (kind c : Nat) : State :=
  let h := chanHull d kind c
  if (s.dom d).rights.contains h then s else s.addRight d h

/-- CHAN_CONFIG, KIND 0: the sender's end. -/
def State.configSender (s : State) (m : Nat) (d : DomNo) (c : Nat) : State :=
  let x := s.mbx m
  match x.notZero [(11, 12), (18, 56)] with
  | some o => s.respond m .badparam o []
  | none =>
    if x.at 14 2 > 4095 then s.respond m .badparam 14 []
    else if x.at 16 2 > 4095 then s.respond m .badparam 16 []
    else
      match s.hullSpot d (x.at 56 8) 56 with
      | .inl e => s.respond m e.1 e.2 []
      | .inr pa =>
        let s := s.setChan c { s.chan c with
          tx := true, dom := d, farmod := x.at 14 2, fardom := x.at 16 2, cseqTx := 0, broken := false }
        (((s.grantChan d 7 c).putHull pa (chanHull d 7 c))).respondOk m

/-- CHAN_CONFIG, KIND 1: the receiver's end. -/
def State.configReceiver (s : State) (m : Nat) (d : DomNo) (c : Nat) : State :=
  let x := s.mbx m
  let base := x.at 32 8
  let len := x.at 28 4
  match x.notZero [(18, 22), (24, 28), (40, 64)] with
  | some o => s.respond m .badparam o []
  | none =>
    if x.at 11 1 > 1 then s.respond m .badparam 11 []
    else if x.at 14 2 > 4095 then s.respond m .badparam 14 []
    else if x.at 16 2 > 4095 then s.respond m .badparam 16 []
    else if base + len > 2 ^ 57 then s.respond m .badparam 32 []
    else if s.backedIn d base len then s.respond m .refused 457 []
    else
      (s.setChan c { s.chan c with
        rx := true, dom := d, srcmod := x.at 14 2, srcdom := x.at 16 2, wbase := base, wlen := len, fobj := x.at 22 2,
        reduce := decide (x.at 11 1 = 1), cseqRx := 0, early := [], refused := [] }).respondOk m

/-- CHAN_CONFIG, KIND 2: a ring member. -/
def State.configRing (s : State) (m : Nat) (d : DomNo) (c : Nat) : State :=
  let x := s.mbx m
  let blen := x.at 28 4
  let buf := x.at 32 8
  match x.notZero [(11, 12)] with
  | some o => s.respond m .badparam o []
  | none =>
    if x.at 14 2 > 4095 then s.respond m .badparam 14 []
    else if x.at 16 2 > 4095 then s.respond m .badparam 16 []
    else if x.at 18 2 > 4095 then s.respond m .badparam 18 []
    else if x.at 20 2 > 4095 then s.respond m .badparam 20 []
    else if blen % 64 ≠ 0 || blen > 2 ^ 30 then s.respond m .badparam 28 []
    else if buf + 2 * blen > 2 ^ 57 then s.respond m .badparam 32 []
    else if s.backedIn d buf (2 * blen) then s.respond m .refused 457 []
    else
      match s.hullsFrom d 48 2 (x.at 48 8), s.hullSpot d (x.at 56 8) 56, s.hullSpot d (x.at 56 8 + 16) 56 with
      | .inr [hm, hs], .inr p1, .inr p2 =>
        let s := s.ringCancel c
        let s := s.setRing c { s.ring c with
          on := true, dom := d, nextmod := x.at 14 2, nextdom := x.at 16 2, prevmod := x.at 18 2, prevdom := x.at 20 2,
          blen := blen, buf := buf, nextbuf := x.at 40 8, recv := x.at 22 2, used := x.at 24 2, credit := x.at 26 2,
          hmem := hm, hsync := hs }
        (((s.grantChan d 8 c).putHull p1 (chanHull d 8 c)).putHull p2 (ringPage d c)).respondOk m
      | .inl e, _, _ => s.respond m e.1 e.2 []
      | _, .inl e, _ => s.respond m e.1 e.2 []
      | _, _, .inl e => s.respond m e.1 e.2 []
      | _, _, _ => s.respond m .refused 118 []

/-- R477: channel `c` belongs to a domain other than `d`. -/
def State.chanTaken (s : State) (d : DomNo) (kind c : Nat) : Bool :=
  if kind = 2 then ((s.ring c).on && decide ((s.ring c).dom ≠ d)) || s.rightTaken d 8 c 1
  else (((s.chan c).tx || (s.chan c).rx) && decide ((s.chan c).dom ≠ d)) || s.rightTaken d 7 c 1

/-- CHAN_CONFIG. -/
def execChanConfig (m : Fin 320) (s : State) : Out :=
  .next (s.serve m.val 0x0209 [(8, 64)] (.dom 8) fun s d =>
    let k := (s.mbx m.val).at 10 1
    let c := (s.mbx m.val).at 12 2
    if k > 2 then s.respond m.val .badparam 10 []
    else if c > 4095 then s.respond m.val .badparam 12 []
    else if s.chanTaken d k c then s.respond m.val .state 12 []
    else if k = 0 then s.configSender m.val d c
    else if k = 1 then s.configReceiver m.val d c
    else s.configRing m.val d c)

/-- CHAN_UNCONFIG (R429): a ring's descriptors are cancelled. -/
def execChanUnconfig (m : Fin 320) (s : State) : Out :=
  .next (s.serve m.val 0x020A [(8, 11), (12, 14)] (.dom 8) fun s d =>
    let k := (s.mbx m.val).at 10 1
    let c := (s.mbx m.val).at 12 2
    let x := s.chan c
    if k > 2 then s.respond m.val .badparam 10 []
    else if c > 4095 then s.respond m.val .badparam 12 []
    else if k = 2 then
      if !(s.ring c).on || (s.ring c).dom ≠ d then s.respond m.val .state 12 []
      else
        let s := s.ringCancel c
        let y := s.ring c
        (s.setRing c { RingChan.none with next := y.next, done := y.done, err := y.err, ovf := y.ovf, rdone := y.rdone }).respondOk m.val
    else if x.dom ≠ d || !(if k = 0 then x.tx else x.rx) then s.respond m.val .state 12 []
    else
      let y : StageChan := if k = 0 then { x with tx := false, farmod := 0, fardom := 0, cseqTx := 0, broken := false }
        else { x with rx := false, srcmod := 0, srcdom := 0, wbase := 0, wlen := 0, fobj := 0, reduce := false, cseqRx := 0, early := [], refused := [] }
      (s.setChan c (if y.tx || y.rx then y else StageChan.none)).respondOk m.val)

/-! ### Routes, ports, conflicts (R452-R456, R466) -/

/-- R452: a route's form: its hop count, and its ports from bit `lo`: used ones are 0-35, the others zero; the bit at which it fails. -/
def routeFormBad (e : W64) (lo hops : Nat) : Option Nat :=
  [0, 1, 2].findSome? fun i =>
    let p := fld e (lo + 6 * i + 5) (lo + 6 * i)
    if (if i < hops then decide (35 < p) else decide (p ≠ 0)) then some (lo + 6 * i) else none

/-- R452: the form of an entry for module `m` fails at a bit. -/
def State.entryBad (s : State) (m : Nat) (e : W64) : Option Nat :=
  match routeFormBad e 0 (fld e 19 18) with
  | some b => some b
  | none =>
    match routeFormBad e 20 (fld e 39 38) with
    | some b => some b
    | none =>
      if bit e 42 != decide (m = s.moduleId.toNat) then some 42
      else if fld e 63 43 ≠ 0 then some 43
      else none

/-- R452, R454: write entry `m` of the shadow table of die `d`; CONFLICT is RW1C and the reserved bits
[63:43] read zero (R6). -/
def State.writeRoute (s : State) (d m : Nat) (e : W64) : State :=
  let x := s.switch d
  let put (t : Table W64) : Table W64 := tset 0 t m (setBit (e &&& fieldMask 42 0) 41 (bit (tget 0 t m) 41 && !bit e 41))
  s.setSwitch d (if x.active then { x with rt0 := put x.rt0 } else { x with rt1 := put x.rt1 })

/-- ROUTE_WRITE. -/
def execRouteWrite (m : Fin 320) (s : State) : Out :=
  .next (s.serve m.val 0x0400 [(8, 11), (16, 64)] .pf fun s _ =>
    let x := s.mbx m.val
    let first := x.at 8 2
    let n := x.at 10 1
    let entry (i : Nat) : W64 := BitVec.ofNat 64 (x.at (16 + 8 * i) 8)
    if first > 4095 then s.respond m.val .badparam 8 []
    else if n < 1 || n > 6 || first + n > 4096 then s.respond m.val .badparam 10 []
    else
      match (List.range n).findSome? fun i => (s.entryBad (first + i) (entry i)).map fun b => 16 + 8 * i + b / 8 with
      | some o => s.respond m.val .badparam o []
      | none =>
        if (List.range 4).any fun d => (s.switch d).busy then s.respond m.val .state 0 []
        else
          ((List.range 4).foldl (fun s d => (List.range n).foldl (fun s i => s.writeRoute d (first + i) (entry i)) s) s).respondOk m.val)

/-- ROUTE_COMMIT: commits on all four dies, not within 20 ms of the last retirement (R454): sent again, it goes on then. It responds when all
have retired (ROUTE_EPOCH_RETIRE). -/
def execRouteCommit (m : Fin 320) (s : State) : Out :=
  .next (s.serve m.val 0x0401 [] .pf fun s _ =>
    if (List.range 4).any fun d => (s.switch d).busy then s.respond m.val .state 0 []
    else if s.epochRests then s
    else ((List.range 4).foldl State.routeCommit s).holdCmd m.val [])

/-- PORT_POWER (R466). -/
def execPortPower (m : Fin 320) (s : State) : Out :=
  .next (s.serve m.val 0x0402 [(8, 17)] .pf fun s _ =>
    let mask := (s.mbx m.val).at 8 8
    let on := (s.mbx m.val).at 16 1
    if mask ≥ 2 ^ 36 then s.respond m.val .badparam 12 []
    else if on > 1 then s.respond m.val .badparam 16 []
    else
      ((List.range 36).foldl (fun s k => if mask.testBit k then s.pctlRequest k (decide (on = 1)) else s) s).respondOk m.val)

/-- CONFLICT_CLEAR (R456): the entry's CONFLICT goes in both tables of every die; ALERT_N's cause ends with the last of them. -/
def execConflictClear (m : Fin 320) (s : State) : Out :=
  .next (s.serve m.val 0x0403 [(8, 10)] .pf fun s _ =>
    let id := (s.mbx m.val).at 8 2
    if id > 4095 then s.respond m.val .badparam 8 []
    else
      let s := (List.range 4).foldl (fun s d =>
        let x := s.switch d
        let put (t : Table W64) : Table W64 := tset 0 t id (setBit (tget 0 t id) 41 false)
        s.setSwitch d { x with rt0 := put x.rt0, rt1 := put x.rt1 }) s
      let s := { s with link := { s.link with claims := tdel id s.link.claims } }
      let left := (List.range 4).any fun d =>
        ((s.switch d).rt0.any fun e => bit e.2 41) || (s.switch d).rt1.any fun e => bit e.2 41
      (if left then s else s.alertGone 3).respondOk m.val)

end Sys2Proof.Machine
end

