-- ==== Sys2Proof/Machine/Recorder.lean ====
section
/-! DEFINITION. The event recorder, the always-on store, captures and bandwidth monitors, and their mailbox commands
(chapter 17). -/

namespace Sys2Proof.Machine

/-! ### The catalogue (R506) -/

/-- R506: a third of the catalogue: code, default class (0 C, 1 N, 2 none), BINMODE, BASE, SHIFT. -/
def catalogueA : List (Nat × Nat × Nat × Nat × Nat) :=
  [(0x001, 1, 1, 0, 0), (0x002, 2, 1, 0, 0), (0x003, 1, 1, 0, 0), (0x140, 1, 1, 0, 0), (0x141, 0, 0, 0, 0),
   (0x142, 1, 0, 0, 0), (0x143, 1, 0, 0, 1), (0x144, 2, 0, 95, 1), (0x145, 0, 0, 105, 0), (0x146, 2, 1, 0, 0),
   (0x147, 1, 0, 0, 0), (0x148, 2, 0, 0, 1), (0x149, 2, 0, 0, 1), (0x14A, 1, 0, 0, 1), (0x14B, 1, 0, 85, 1),
   (0x14C, 1, 0, 40, 0), (0x14D, 0, 0, 0, 0), (0x14E, 0, 1, 0, 0), (0x14F, 2, 0, 0, 1), (0x180, 2, 0, 0, 0),
   (0x181, 1, 1, 0, 0), (0x182, 2, 1, 0, 0), (0x183, 2, 1, 0, 0), (0x185, 0, 0, 0, 0), (0x186, 2, 1, 0, 0),
   (0x208, 2, 1, 0, 0), (0x209, 1, 1, 0, 0), (0x20A, 0, 0, 0, 4), (0x20B, 1, 0, 0, 0), (0x230, 2, 0, 0, 0),
   (0x231, 0, 0, 0, 0), (0x234, 2, 0, 0, 1), (0x235, 0, 0, 0, 1)]

/-- R506: a third of the catalogue: code, default class (0 C, 1 N, 2 none), BINMODE, BASE, SHIFT. -/
def catalogueB : List (Nat × Nat × Nat × Nat × Nat) :=
  [(0x238, 0, 0, 0, 0), (0x23A, 2, 0, 0, 0), (0x23B, 0, 0, 0, 0), (0x23C, 2, 0, 0, 1), (0x23D, 0, 0, 0, 1),
   (0x23E, 2, 0, 0, 0), (0x23F, 2, 0, 0, 0), (0x240, 2, 0, 0, 0), (0x241, 1, 0, 0, 0), (0x242, 0, 0, 0, 0),
   (0x243, 2, 0, 0, 0), (0x244, 2, 1, 0, 0), (0x250, 2, 0, 0, 2), (0x251, 0, 0, 0, 2), (0x252, 2, 0, 0, 2),
   (0x253, 1, 0, 0, 2), (0x254, 1, 0, 0, 2), (0x255, 1, 0, 85, 1), (0x258, 2, 0, 0, 0), (0x300, 2, 1, 0, 0),
   (0x301, 1, 0, 0, 0), (0x302, 1, 0, 0, 0), (0x303, 2, 0, 0, 0), (0x304, 1, 1, 0, 0), (0x305, 2, 0, 0, 0),
   (0x306, 1, 0, 0, 0), (0x307, 1, 0, 0, 2), (0x310, 1, 0, 0, 4), (0x311, 1, 0, 0, 4), (0x312, 1, 0, 0, 4),
   (0x313, 1, 0, 0, 2), (0x330, 2, 0, 0, 0), (0x331, 1, 0, 0, 4)]

/-- R506: a third of the catalogue: code, default class (0 C, 1 N, 2 none), BINMODE, BASE, SHIFT. -/
def catalogueC : List (Nat × Nat × Nat × Nat × Nat) :=
  [(0x332, 1, 0, 0, 0), (0x333, 1, 1, 0, 0), (0x340, 2, 0, 0, 2), (0x341, 2, 1, 0, 0), (0x343, 1, 0, 0, 0),
   (0x344, 2, 0, 0, 0), (0x345, 1, 0, 0, 0), (0x346, 2, 0, 0, 0), (0x347, 1, 0, 0, 0), (0x348, 0, 0, 0, 0),
   (0x349, 0, 1, 0, 0), (0x34A, 2, 0, 0, 0), (0x34B, 1, 0, 0, 0), (0x34C, 2, 0, 0, 0), (0x34D, 2, 0, 0, 2),
   (0x34E, 1, 1, 0, 0), (0x400, 2, 1, 0, 0), (0x401, 2, 1, 0, 0), (0x402, 1, 0, 0, 1), (0x403, 2, 0, 0, 1),
   (0x404, 0, 0, 0, 1), (0x405, 1, 0, 0, 3), (0x406, 0, 0, 0, 0), (0x407, 1, 1, 0, 0), (0x500, 2, 1, 0, 0),
   (0x501, 0, 0, 0, 0), (0x502, 0, 0, 0, 0), (0x503, 1, 0, 0, 0), (0x504, 1, 0, 0, 0), (0x505, 2, 1, 0, 0), (0x506, 1, 0, 0, 0)]

/-- R506: word 7 that Luami loads for a code; zero for a code that is not listed. -/
def catalogueW7 (c : Nat) : W64 :=
  match (catalogueA ++ catalogueB ++ catalogueC).find? fun e => decide (e.1 = c) with
  | none => 0
  | some (_, k, mode, base, shift) =>
    BitVec.ofNat 64 ((if k = 0 then 2 else 2000) + (if k = 2 then 0 else 2 ^ 16) + 2 ^ 17 + mode * 2 ^ 18 + shift * 2 ^ 19 + base * 2 ^ 24)

/-- R499: word 7 of a record. -/
def State.evrW7 (s : State) (c : Nat) : W64 := (tget none s.evr.w7 c).getD (catalogueW7 c)

/-- The record of a code. -/
def State.evrRec (s : State) (c : Nat) : EvrRec := tget EvrRec.reset s.evr.records c

/-- Apply `f` to the recorder. -/
def State.modEvr (s : State) (f : Recorder → Recorder) : State := { s with evr := f s.evr }

/-- Replace a record. -/
def State.setEvrRec (s : State) (c : Nat) (r : EvrRec) : State :=
  s.modEvr fun e => { e with records := tset EvrRec.reset e.records c r }

/-! ### Applying occurrences (R497, R498, R504) -/

/-- R498: the bin of a value. -/
def evrBin (w7 : W64) (v : Nat) : Nat :=
  if bit w7 18 then (if v = 0 then 0 else min 15 (bitLen 32 v))
  else
    let base := fld w7 55 24
    if v < base then 0 else min 15 ((v - base) >>> fld w7 23 19)

/-- R497: an occurrence updates the record of its code. -/
def EvrRec.apply (r : EvrRec) (w7 : W64) (o : Occ) : EvrRec :=
  let b := evrBin w7 o.value.toNat
  { r with
    first := if r.count = 0 then o.time else r.first, last := o.time, count := satInc r.count o.n.toNat,
    min := BitVec.ofNat 32 (Nat.min r.min.toNat o.value.toNat), max := BitVec.ofNat 32 (Nat.max r.max.toNat o.value.toNat),
    bins := tset 0 r.bins b (satInc (tget 0 r.bins b) o.n.toNat), lastval := o.value, det := o.det }

/-- R504 steps 1-3: a clear of codes FIRST to LAST takes effect and raises 0x001; `mbx` waits for it. -/
def State.evrClear (s : State) (first last : Nat) (dom : DomNo) (mbx : Option Nat) : State :=
  let n := if last < first then 0 else last - first + 1
  let s := s.modEvr fun e => { e with
    records := tkeep (fun c => !(decide (first ≤ c) && decide (c ≤ last))) e.records, clearing := some mbx }
  s.raise 0x001 srcDieM n dom (first + last * 2 ^ 16)

/-- R504, R505: a write of EVR_CLR with GO; ignored while a clear runs. -/
def State.evrClrGo (s : State) (dom : DomNo) (first last : Nat) : State :=
  match s.evr.clearing with
  | some _ => s
  | none => s.evrClear first last dom none

/-- EVR_CLR_GO (R504). -/
def execEvrClrGo (dom : DomId) (first last : BitVec 12) (s : State) : Out := .next (s.evrClrGo dom.toNat first.toNat last.toNat)

/-- R504: the clear's own occurrence has been applied: its mailbox is answered and the next held clear starts. -/
def State.evrCleared (s : State) : State :=
  match s.evr.clearing with
  | none => s
  | some m =>
    let s := s.modEvr fun e => { e with clearing := none }
    let s := match m with | some m => s.respondOk m | none => s
    match s.evr.heldClears with
    | [] => s
    | h :: rest => (s.modEvr fun e => { e with heldClears := rest }).evrClear h.1 h.2.1 0 (some h.2.2)

/-- R497: the die whose collector holds the earliest occurrence; on equal TIME the die order decides. -/
def State.nextOcc (s : State) : Option (Nat × Occ) :=
  (List.range 5).foldl (fun best d =>
    match tget [] s.evr.collectors d with
    | [] => best
    | o :: _ =>
      match best with
      | none => some (d, o)
      | some b => if o.time.toNat < b.2.time.toNat then some (d, o) else best) none

/-- R496, R497: the intake applies one occurrence. -/
def State.applyOcc (s : State) (o : Occ) : State :=
  let s := s.setEvrRec o.code ((s.evrRec o.code).apply (s.evrW7 o.code) o)
  let s := s.countDie 4 0x48 0 o.n.toNat
  if o.code = 0x001 then s.evrCleared else s

/-- OCCURRENCE_APPLY (R496, R497). -/
def execOccurrenceApply (s : State) : Out :=
  .next (
    match s.nextOcc with
    | none => s
    | some (d, o) =>
      let s := s.modEvr fun e => { e with collectors := tset [] e.collectors d ((tget [] e.collectors d).drop 1) }
      s.applyOcc o)

/-! ### Records as words, persistence and notification (R499-R502) -/

/-- R499: word `i` of a record. -/
def State.evrWord (s : State) (c i : Nat) : W64 :=
  let r := s.evrRec c
  match i with
  | 0 => r.count.setWidth 64
  | 1 => r.first
  | 2 => r.last
  | 3 => BitVec.ofNat 64 (r.min.toNat + r.max.toNat * 2 ^ 32)
  | 4 => BitVec.ofNat 64 (r.folded.toNat + r.lastval.toNat * 2 ^ 32)
  | 5 => r.det
  | 6 => 0
  | 7 => s.evrW7 c
  | _ => BitVec.ofNat 64 ((tget 0 r.bins (2 * i - 16)).toNat + (tget 0 r.bins (2 * i - 15)).toNat * 2 ^ 32)

/-- R502: a persisted record of 160 bytes. -/
def State.persistedBytes (s : State) (c seq : Nat) : List Byte :=
  let body := leBytes 2 1 ++ leBytes 2 c ++ leBytes 4 seq ++ leBytes 8 (s.timeOf 4).toNat ++
    (List.range 16).flatMap fun i => leBytes 8 (s.evrWord c i).toNat
  body ++ leBytes 4 (crc32 body) ++ leBytes 4 s.mgmt.boot.bootn.toNat ++ leBytes 8 (seq % 2 ^ 32 + 0xE7D1 * 2 ^ 32)

/-- R502: the record of a code is persisted: the record's object takes 160 bytes, its body committed before VALID; a failed write
raises 0x003. The records fill the object in turn (log entry 45). -/
def State.persist (s : State) (c : Nat) (works : Bool) : State :=
  match (if works && s.mgmt.grn.ready then s.mgmt.grn.objs.find? fun o => decide (o.2.kind = 5) else none) with
  | none => s.raise 0x003 srcDieM c 0 0
  | some (id, o) =>
    let seq := s.evr.seq.toNat
    let b := s.persistedBytes c seq
    let at_ := 160 * (seq % (o.cap / 160))
    let data := memPut o.data at_ b
    let o := { o with data := data, opened := data, gen := o.gen + 2, clen := max o.clen (at_ + 160), ctime := s.timeOf 4 }
    (s.modGrn fun g => { g with objs := tset GrnObj.none g.objs id o }).modEvr fun e => { e with seq := e.seq + 1 }

/-- R501: a notification entry is appended, or discarded when the ring is full. -/
def State.notify (s : State) (n : Note) : State :=
  let l := s.evr.notes
  if l.length < 256 then
    let s := s.modEvr fun e => { e with notes := l ++ [n] }
    if l.isEmpty then s.msix 0 2 else s
  else (s.modEvr fun e => { e with nqlost := satInc e.nqlost 1 }).raise 0x002 srcDieM n.code 0 0

/-- R500: a code is selected at the present tick. -/
def State.noteDue (s : State) (c : Nat) (r : EvrRec) : Bool :=
  let rlim := fld (s.evrW7 c) 15 0
  decide (0 < rlim) && decide (r.notecount.toNat < r.count.toNat) &&
  match r.lastnote with
  | none => true
  | some t => decide (t + rlim ≤ s.mgmt.pwr.tick)

/-- R500: what Luami does for a selected code. -/
def State.noteCode (s : State) (c : Nat) (works : Bool) : State :=
  let r := s.evrRec c
  let w7 := s.evrW7 c
  let delta := r.count.toNat - r.notecount.toNat
  let s := s.setEvrRec c { r with folded := satInc r.folded (delta - 1) }
  let s := if bit w7 17 then s.persist c works else s
  let s := if bit w7 16 then s.notify ⟨c, BitVec.ofNat 32 (min delta (2 ^ 32 - 1)), r.last⟩ else s
  s.setEvrRec c { s.evrRec c with lastnote := some s.mgmt.pwr.tick, notecount := r.count }

/-- R500: step 8 of a tick: at most 64 selected codes, in ascending order. -/
def State.noteTick (s : State) (works : Bool) : State :=
  let due := (s.evr.records.filter fun e => s.noteDue e.1 e.2).map fun e => e.1
  (due.take 64).foldl (fun s c => s.noteCode c works) s

/-- AOS_NOR_COPY (R503): while input power is present, the always-on store is copied to the NOR. -/
def execAosNorCopy (s : State) : Out :=
  .next (if s.mgmt.boot.state = .lockout then s else s.modEvr fun e => { e with aosNor := e.aos })

/-! ### Captures (R511-R513) -/

/-- R512: what a capture does to one set of counters. -/
def PmcSet.capture (x : PmcSet) (mode : Nat) (skewed : Bool) : PmcSet :=
  if mode = 0 then
    { x with cnts := tmap PmcCnt.reset (fun c => { c with snap := c.count }) x.cnts, snapgen := x.snapgen + 1, skewed := skewed }
  else { x with frozen := decide (mode = 1) }

/-- R512: every counter of the module is captured. -/
def State.captureAll (s : State) (mode : Nat) (skewed : Bool) : State :=
  let s := (List.range 256).foldl (fun s c => s.modCore c fun k => { k with pmc := k.pmc.capture mode skewed }) s
  let sets := (List.range 5).foldl (fun t d => tset PmcSet.reset t d ((tget PmcSet.reset t d).capture mode skewed)) s.pmc.sets
  let p := s.pmc
  { s with pmc := if mode = 0 then { p with sets := sets, snapgen := p.snapgen + 1 }
                  else { p with sets := sets, frozen := decide (mode = 1) } }

/-- PMC_CAPTURE_TC (R512): TIME reaches Tc. -/
def execPmcCaptureTc (s : State) : Out :=
  .next (
    match s.pmc.capture with
    | none => s
    | some c =>
      let s := { s with time := if s.time.toNat < c.tc.toNat then c.tc else s.time, pmc := { s.pmc with capture := none } }
      let s := s.captureAll c.mode false
      match c.mbx with
      | some m => s.respond m .ok 0 [rf 8 8 c.tc.toNat, rf 24 2 s.pmc.snapgen.toNat]
      | none => s)

/-- R507: counter `n` of set `set` (0-255 cores, 256-260 dies) wraps on an event of the given weight. -/
def State.pmcWrap (s : State) (set n weight : Nat) : State :=
  if set < 256 then
    let k := s.core set
    if n < 16 && !k.pmc.frozen && decide (2 ^ 48 ≤ (tget PmcCnt.reset k.pmc.cnts n).count.toNat + weight) then
      let r := pmcAddChain true 16 k.pmc n weight
      s.setCore set (r.2.foldl (fun k v => k.pend v.2) { k with pmc := r.1 })
    else s
  else
    let d := set - 256
    let st := tget PmcSet.reset s.pmc.sets d
    if !st.frozen && decide (2 ^ 48 ≤ (tget PmcCnt.reset st.cnts n).count.toNat + weight) then
      let r := pmcAddChain false 64 st n weight
      let s := { s with pmc := { s.pmc with sets := tset PmcSet.reset s.pmc.sets d r.1 } }
      r.2.foldl (fun s v =>
        let sel := (tget PmcCnt.reset r.1.cnts v.1).sel
        if bit sel 28 then s.pendVec (fld sel 27 20) 41 else s) s
    else s

/-- PMC_WRAP (R507). -/
def execPmcWrap (set : Fin 261) (n : Fin 64) (weight : BitVec 16) (s : State) : Out :=
  .next (s.pmcWrap set.val n.val weight.toNat)

/-! ### Bandwidth monitors (R514, R515) -/

/-- Monitor `m` (16 per die; 64 is die M's). -/
def State.mon (s : State) (m : Nat) : BwMon := tget BwMon.reset s.pmc.mons m

/-- Replace a monitor. -/
def State.setMon (s : State) (m : Nat) (x : BwMon) : State :=
  { s with pmc := { s.pmc with mons := tset BwMon.reset s.pmc.mons m x } }

/-- The lesser of two 48-bit counts. -/
def minW48 (a b : W48) : W48 := if a.toNat < b.toNat then a else b

/-- The greater of two 48-bit counts. -/
def maxW48 (a b : W48) : W48 := if a.toNat < b.toNat then b else a

/-- R514: a complete window ends. The count of windows past its width is a free value (log entry 46). -/
def State.bwWindowEnd (s : State) (m : Nat) : State :=
  let x := s.mon m
  let full := decide (x.windows.toNat = 2 ^ 32 - 1)
  let r := if full then s.fresh else (s, 0)
  r.1.setMon m { x with
    valid := true, last0 := x.cur0, last1 := x.cur1, min0 := minW48 x.min0 x.cur0, max0 := maxW48 x.max0 x.cur0,
    min1 := minW48 x.min1 x.cur1, max1 := maxW48 x.max1 x.cur1, windows := if full then r.2.setWidth 32 else x.windows + 1,
    cur0 := 0, cur1 := 0 }

/-- BW_WINDOW_END (R514). -/
def execBwWindowEnd (mon : Fin 65) (s : State) : Out := .next (s.bwWindowEnd mon.val)

/-- R515: PMC_BWSTAT.CLR. -/
def State.bwClear (s : State) (m : Nat) : State :=
  s.setMon m { s.mon m with min0 := 0xFFFFFFFFFFFF, max0 := 0, min1 := 0xFFFFFFFFFFFF, max1 := 0, windows := 0 }

/-- BWSTAT_CLR (R515). -/
def execBwstatClr (mon : Fin 65) (s : State) : Out := .next (s.bwClear mon.val)

/-- R514: a monitor flips to a new window length; the window cut short updates LAST only. -/
def State.bwFlip (s : State) (m : Nat) (win : BitVec 17) : State :=
  let x := s.mon m
  let s := s.setMon m { x with last0 := x.cur0, last1 := x.cur1, cur0 := 0, cur1 := 0 }
  { s with pmc := { s.pmc with bwwin := tset 1000 s.pmc.bwwin (m / 16) (win.setWidth 64) } }

/-! ### Mailbox commands (R516) -/

/-- EVR_READ. -/
def execEvrRead (m : Fin 320) (s : State) : Out :=
  .next (s.serve m.val 0x0500 [(8, 11)] .pf fun s _ =>
    let x := s.mbx m.val
    let c := x.at 8 2
    let bins (a n : Nat) : List Byte := (List.range n).flatMap fun i => leBytes 4 (tget 0 (s.evrRec c).bins (a + i)).toNat
    if c > 0xFFF then s.respond m.val .badparam 8 []
    else match x.at 10 1 with
      | 0 => s.respond m.val .ok 0 [(8, ([0, 1, 2, 3, 4, 5, 7].flatMap fun i => leBytes 8 (s.evrWord c i).toNat))]
      | 1 => s.respond m.val .ok 0 [(8, bins 0 14)]
      | 2 => s.respond m.val .ok 0 [(8, bins 14 2)]
      | _ => s.respond m.val .badparam 10 [])

/-- EVR_CLEAR: held while a clear runs; it responds when its own clear ends (R504). -/
def execEvrClear (m : Fin 320) (s : State) : Out :=
  .next (s.serve m.val 0x0501 [(8, 12)] .pf fun s _ =>
    let x := s.mbx m.val
    let first := x.at 8 2
    let last := x.at 10 2
    if first > 0xFFF then s.respond m.val .badparam 8 []
    else if last > 0xFFF then s.respond m.val .badparam 10 []
    else
      let s := s.holdCmd m.val []
      match s.evr.clearing with
      | some _ => s.modEvr fun e => { e with heldClears := e.heldClears ++ [(first, last, m.val)] }
      | none => s.evrClear first last 0 (some m.val))

/-- EVR_NOTES (R501): up to three entries leave the notification ring. -/
def execEvrNotes (m : Fin 320) (s : State) : Out :=
  .next (s.serve m.val 0x0502 [(8, 9)] .pf fun s _ =>
    let n := (s.mbx m.val).at 8 1
    if n = 0 || n > 3 then s.respond m.val .badparam 8 []
    else
      let l := s.evr.notes.take n
      let s := s.modEvr fun e => { e with notes := e.notes.drop n }
      s.respond m.val .ok 0 ([rf 8 2 s.evr.notes.length] ++ l.mapIdx fun i e =>
        (16 + 16 * i, leBytes 4 e.code ++ leBytes 4 e.delta.toNat ++ leBytes 8 e.last.toNat)))

/-- EVR_CONFIG: word 7 of a record. -/
def execEvrConfig (m : Fin 320) (s : State) : Out :=
  .next (s.serve m.val 0x0503 [(8, 14), (16, 20)] .pf fun s _ =>
    let x := s.mbx m.val
    let c := x.at 8 2
    if c > 0xFFF then s.respond m.val .badparam 8 []
    else if x.at 12 1 > 7 then s.respond m.val .badparam 12 []
    else if x.at 13 1 > 31 then s.respond m.val .badparam 13 []
    else
      let w : W64 := BitVec.ofNat 64 (x.at 10 2 + x.at 12 1 * 2 ^ 16 + x.at 13 1 * 2 ^ 19 + x.at 16 4 * 2 ^ 24)
      (s.modEvr fun e => { e with w7 := tset none e.w7 c (some w) }).respondOk m.val)

/-- R516: the caller holds device right 0x02 with MODIFY over instances 0-260. -/
def State.mayCapture (s : State) (m : Nat) : Bool :=
  decide (m = 0) || (s.dom (s.callerDom m)).rights.any fun h =>
    decide (fld h 55 48 = 2) && bit h 109 && decide (fld h 47 0 = 0) && decide (261 ≤ fld h 88 57 * 2 ^ fld h 95 89)

/-- PMC_CAPTURE (R512, R513, R516). -/
def execPmcCapture (m : Fin 320) (s : State) : Out :=
  .next (s.serve m.val 0x0504 [(8, 9)] .any fun s _ =>
    let mode := (s.mbx m.val).at 8 1
    if !s.mayCapture m.val then s.respond m.val .noauth 0 []
    else if mode > 2 then s.respond m.val .badparam 8 []
    else if s.available then
      match s.pmc.capture with
      | some _ => (s.requestCapture mode none).respond m.val .state 0 []
      | none => (s.holdCmd m.val []).requestCapture mode (some m.val)
    else if mode = 0 then
      let s := s.captureAll 0 true
      s.respond m.val .ok 0 [rf 8 8 (s.timeOf 4).toNat, rf 16 8 (s.timeOf 4).toNat, rf 24 2 s.pmc.snapgen.toNat, rf 26 1 1]
    else s.respond m.val .state 0 [])

/-- PMC_TRIGSET. -/
def execPmcTrigset (m : Fin 320) (s : State) : Out :=
  .next (s.serve m.val 0x0505 [(8, 14)] .pf fun s _ =>
    let x := s.mbx m.val
    if x.at 10 2 > 4095 then s.respond m.val .badparam 10 []
    else if x.at 12 1 > 2 then s.respond m.val .badparam 12 []
    else if x.at 13 1 > 1 then s.respond m.val .badparam 13 []
    else
      let w : W64 := BitVec.ofNat 64 (x.at 8 2 + x.at 10 2 * 2 ^ 16 + x.at 12 1 * 2 ^ 28 + x.at 13 1 * 2 ^ 30)
      ({ s with pmc := { s.pmc with trig := w } } : State).respondOk m.val)

/-- BW_WINDOW (R514): staged. -/
def execBwWindow (m : Fin 320) (s : State) : Out :=
  .next (s.serve m.val 0x0506 [(8, 12)] .pf fun s _ =>
    let n := (s.mbx m.val).at 8 4
    if n = 0 || n > 100000 then s.respond m.val .badparam 8 [] else s.acceptStaged m.val (.bwWindow (BitVec.ofNat 17 n)))

/-- EVR_AOS (R503, R516): an entry of the always-on store; bit 0 of byte 9 clears the store and its copy. -/
def execEvrAos (m : Fin 320) (s : State) : Out :=
  .next (s.serve m.val 0x0507 [(8, 10)] .pf fun s _ =>
    let x := s.mbx m.val
    if x.at 8 1 > 7 then s.respond m.val .badparam 8 []
    else if x.at 9 1 > 1 then s.respond m.val .badparam 9 []
    else
      let res : List ResField :=
        match s.evr.aos[x.at 8 1]? with
        | none => []
        | some e => [rf 8 2 e.code, rf 12 4 e.value.toNat, rf 16 8 e.time.toNat, rf 24 8 e.det.toNat, rf 32 4 e.bootn.toNat, rf 36 1 1]
      let s := if x.at 9 1 = 1 then s.modEvr fun e => { e with aos := [], aosNor := [] } else s
      s.respond m.val .ok 0 res)

end Sys2Proof.Machine
end

