-- ==== Sys2Proof/Machine/Tiles.lean ====
section
/-! DEFINITION. Tile instructions: TCFG, TLD, TST, TZERO, TMOV, the transfer engine, and the tile-file count clear (R164-R193). -/

namespace Sys2Proof.Machine

/-- What one row of a transfer finds. -/
inductive RowRes where
  | ok (s : State)
  | wait (s : State)
  | fault (f : Flt)

/-- The fault of row `r` of a transfer (R182). -/
def rowFlt (code addr h r level : Nat) (store : Bool) : Flt :=
  ⟨code, BitVec.ofNat 64 addr, infoWord (some h) (some r) level store false false⟩

/-- The bytes a row of the transfer moves: the row, or the table store (R187). -/
def State.xferBytes (s : State) (c g : Nat) (x : TileXfer) : Nat :=
  let w := s.tcfgWord c g x.tile
  if x.table then (if cfgTbl w then 32 else 16) else cfgBpr w

/-- The items the engine handles: rows, and with T the table store; the table form of a TLD or TST is one row (R187). -/
def State.xferRows (s : State) (c g : Nat) (x : TileXfer) : Nat :=
  let n := cfgRows (s.tcfgWord c g x.tile)
  match x.kind with
  | .load => if x.table then 1 else n
  | .store => if x.table then 1 else n
  | _ => n + b2n x.table

/-- The row that item `r` of the engine handles; 64 stands for the table store. -/
def State.xferItem (s : State) (c g : Nat) (x : TileXfer) (r : Nat) : Nat :=
  match x.kind with
  | .load => if x.table then 64 else r
  | .store => if x.table then 64 else r
  | _ => if r < cfgRows (s.tcfgWord c g x.tile) then r else 64

/-- R182, R183, R187: one row of a TLD or TST: check, translate, wait for the order of R177, move. A row in a tile-file error is not
written (R190, R193). `e` is what the reads of the tile file find, granule by granule. -/
def State.xferRow (s : State) (c g : Nat) (x : TileXfer) (r : Nat) (e : ErrMap) : RowRes :=
  let store := decide (x.kind = .store)
  let n := s.xferBytes c g x
  let addr := (((x.base : Int) + (r : Int) * x.stride) % (2 ^ 64 : Nat)).toNat
  let h := ((s.core c).strand x.strand).bank.readH x.hreg
  let idx := s.xferItem c g x r
  match hullCheck s h 1 (if store then rWRITE else rREAD) addr n with
  | some code => .fault (rowFlt code (if code = 0x0D then hullFailAt h addr else addr) x.hreg r 0 store)
  | none =>
    match s.trRange (hSeal h) addr n (if store then .write else .read) with
    | .fault code l a => .fault (rowFlt code a x.hreg r l store)
    | .pageIn _ => .wait s
    | .ok ps =>
      if s.piecesWait ps then .wait s else
      let s' := s.count c 0x29 0 1
      if store then
        if s.writerBefore c g x.tile idx x.ord || (s.core c).storeOwed ps then .wait s
        else
          let q := s'.tileCheck c g x.tile idx n e (8 * idx)
          let v := if x.table then (s.tileTable c g x.tile).toNat else (s.tileRow c g x.tile r).toNat
          .ok (if q.2 ≠ [] then q.1 else q.1.coreWrite c ps (leBytes n v) x.hint (hHas h rPIN))
      else if !s.mayWriteRow c g x.tile idx x.ord then .wait s
      else
        let s' := if ps.all fun p => isHbm p.1 then
            (s'.modCore c fun k => (k.touchStreams (hSeal h) addr).touchStreams (hSeal h) (addr + n - 1)).count c 0x10 x.strand 1
          else s'
        let q := s'.coreRead c ps x.hint (hHas h rPIN) (if x.noalloc then none else some 3)
        .ok (if x.table then
            q.1.setTileTable c g x.tile (BitVec.ofNat 256 (leNat q.2 +
              (if n = 16 then (s.tileTable c g x.tile).toNat / 2 ^ 128 * 2 ^ 128 else 0)))
          else q.1.setTileRow c g x.tile r (BitVec.ofNat 1024 (leNat q.2 +
              (s.tileRow c g x.tile r).toNat / 2 ^ (8 * n) * 2 ^ (8 * n))))

/-- R189, R190: one row, or the table store, of a TZERO or TMOV, once the order of R177 allows; a granule in a tile-file error is not
copied. -/
def State.moveRow (s : State) (c g : Nat) (x : TileXfer) (r : Nat) (e : ErrMap) : RowRes :=
  let i := s.xferItem c g x r
  if !s.mayWriteRow c g x.tile i x.ord then .wait s
  else
    match x.kind with
    | .move sg st =>
      if s.writerBefore c sg st i x.ord then .wait s
      else
        let q := s.tileCheck c sg st i (if i = 64 then 32 else cfgBpr (s.tcfgWord c g x.tile)) e (8 * i)
        let keep (v old : Nat) : Nat := q.2.foldl (fun n j => n - n / 2 ^ (128 * j) % 2 ^ 128 * 2 ^ (128 * j) + old / 2 ^ (128 * j) % 2 ^ 128 * 2 ^ (128 * j)) v
        .ok (if i = 64 then q.1.setTileTable c g x.tile (BitVec.ofNat 256 (keep (s.tileTable c sg st).toNat (s.tileTable c g x.tile).toNat))
          else q.1.setTileRow c g x.tile i (BitVec.ofNat 1024 (keep (s.tileRow c sg st i).toNat (s.tileRow c g x.tile i).toNat)))
    | _ => .ok (if i = 64 then s.setTileTable c g x.tile 0 else s.setTileRow c g x.tile i 0)

/-- One item of the engine. -/
def State.xferOne (s : State) (c g : Nat) (x : TileXfer) (r : Nat) (e : ErrMap) : RowRes :=
  match x.kind with
  | .load => s.xferRow c g x r e
  | .store => s.xferRow c g x r e
  | _ => s.moveRow c g x r e

/-- R182, R189: items in ascending order until all are handled, one waits, or one fails. -/
def State.xferLoop : Nat → State → Nat → Nat → TileXfer → ErrMap → State × TileXfer × Option Flt
  | 0, s, _, _, x, _ => (s, x, none)
  | fuel + 1, s, c, g, x, e =>
    if s.xferRows c g x ≤ x.next then (s, x, none)
    else
      match s.xferOne c g x x.next e with
      | .ok s' => State.xferLoop fuel s' c g { x with next := x.next + 1 } e
      | .wait s' => (s', x, none)
      | .fault f => (s, x, some f)

/-- Run what stands in a group's engine as far as it goes: the state, the transfer, whether it is complete, and a fault. -/
def State.runXfer (s : State) (c g : Nat) (x : TileXfer) (e : ErrMap) : State × TileXfer × Bool × Option Flt :=
  let r := s.xferLoop 66 c g x e
  (r.1, r.2.1, decide (s.xferRows c g x ≤ r.2.1.next), r.2.2)

/-- R182: the hold after a fault at row `next`; the table form never sets one (R187). -/
def TileGroup.heldAt (gr : TileGroup) (x : TileXfer) (pc : VAddr) : TileGroup :=
  { gr with xfer := none, held := if x.table then gr.held else some ⟨x.next, x.strand, decide (x.kind = .store), x.tile, pc, x.ord⟩ }

/-- R157, R171, R172, R181: a tile transfer or TCFG of the strand is not ready: the engine is busy, another strand holds TSTART, or a TCFG of
the group waits to be applied. -/
def TileGroup.notReady (gr : TileGroup) (strand : Nat) : Bool :=
  gr.xfer.isSome || gr.pendCfg.isSome || match gr.held with | some h => decide (h.holder ≠ strand) | none => false

/-- TLD and TST (R180-R183, R187): once ready, the checks, resume or restart, and the rows. The strand is parked until
TILE_TRANSFER_DONE. `e` is what the reads of memory (TLD) or of the tile file (TST) find. -/
def opTransfer (w : Site) (store : Bool) (tile ga gb : RegField) (h : BitVec 4) (hint : BitVec 2) (tbl noalloc : Bool)
    (z : BitVec 2) (e : ErrMap) (s : State) : Out :=
  .next (s.finding (if store then [] else e) fun s => s.issue w [.g ga.toNat, .g gb.toNat, .h h.toNat] fun s =>
    let c := w.core.val
    let g := groupOf w.strand.val
    let cw := s.tcfgWord c g tile.toNat
    let base := (s.g w ga).toNat
    let gr := s.group c g
    if gr.notReady w.strand.val then .wait .none
    else if tile.toNat ≥ 16 || z ≠ 0 || hint = 3 || (store && noalloc) || (tbl && gb ≠ 0) then .fault s (flt 0x01)
    else s.unitBody w (
      if !cfgV cw || (tbl && !(cfgRole cw == 0 && cfgFmt cw == 9)) then .fault s (flt 0x24)
      else if base % 16 ≠ 0 then .fault s (fltA 0x02 base h.toNat 0 store false)
      else if !tbl && (s.g w gb).toNat % 16 ≠ 0 then .fault s (fltA 0x02 base h.toNat 0 store false)
      else
        let resume := match gr.held with
          | some x => !tbl && decide (x.thpc = s.pcOf w) && decide (x.store = store) && decide (x.tile = tile.toNat)
          | none => false
        let row := match gr.held with | some x => if resume then x.row else 0 | none => 0
        let q := s.takeOrd c
        let ord := match gr.held with | some x => if resume then x.ord else q.2 | none => q.2
        let x : TileXfer := ⟨if store then .store else .load, w.strand.val, tile.toNat, base,
          if tbl then 0 else (s.g w gb).toInt, h.toNat, hint.toNat, noalloc, tbl, row, ord⟩
        let gr := { gr with xfer := some x, held := if resume then gr.held else none }
        let r := (q.1.setGroup c g gr).runXfer c g x e
        match r.2.2.2 with
        | some f => .fault (r.1.setGroup c g ((r.1.group c g).heldAt r.2.1 (s.pcOf w))) f
        | none => .hold ((r.1.setGroup c g { r.1.group c g with xfer := some r.2.1 }).park w (.tile tbl))))

/-- TLD (R182). -/
def execTld (w : Site) (tile ga gb : RegField) (h : BitVec 4) (hint : BitVec 2) (tbl noalloc : Bool) (z : BitVec 2)
    (e : ErrMap) (s : State) : Out :=
  opTransfer w false tile ga gb h hint tbl noalloc z e s

/-- TST (R182). -/
def execTst (w : Site) (tile ga gb : RegField) (h : BitVec 4) (hint : BitVec 2) (tbl noalloc : Bool) (z : BitVec 2)
    (e : ErrMap) (s : State) : Out :=
  opTransfer w true tile ga gb h hint tbl noalloc z e s

/-- TILE_TRANSFER_DONE (R182, R184): the engine of a group goes on; when its last row is complete any hold ends, the engine is
free, and the strand of a TLD or TST goes on. In a parked pod it waits (R486). `e` is what the reads of memory of a TLD, or of the
tile file, find. -/
def execTileTransferDone (core : Fin 256) (group : Fin 2) (e : ErrMap) (s : State) : Out :=
  .next (
    let c := core.val
    let g := group.val
    match (s.group c g).xfer with
    | none => s
    | some x =>
      if s.podStopped c then s else s.finding (if x.kind = .load then e else []) fun s =>
      let w := site c x.strand
      let r := s.runXfer c g x e
      let gr := r.1.group c g
      match r.2.2.2 with
      | some f =>
        (((r.1.setGroup c g (gr.heldAt r.2.1 (s.pcOf w))).park w .none).takeFault w f).releaseTaskFences c
      | none =>
        if !r.2.2.1 then r.1.setGroup c g { gr with xfer := some r.2.1 }
        else
          match x.kind with
          | .zero => r.1.setGroup c g { gr with xfer := none }
          | .move _ _ => r.1.setGroup c g { gr with xfer := none }
          | _ =>
            let held := if x.table then gr.held else none
            (((r.1.setGroup c g { gr with xfer := none, held := held }).park w .none).retire w).releaseTaskFences c)

/-- TZERO and TMOV enter the group's engine, which does the work at once as far as the order of R177 allows. -/
def State.startEngine (s : State) (w : Site) (kind : XferKind) (td : Nat) (table : Bool) (e : ErrMap) : Res :=
  let c := w.core.val
  let g := groupOf w.strand.val
  let q := s.takeOrd c
  let x : TileXfer := ⟨kind, w.strand.val, td, 0, 0, 0, 0, false, table, 0, q.2⟩
  let r := (q.1.setGroup c g { q.1.group c g with xfer := some x }).runXfer c g x e
  .done (r.1.setGroup c g { r.1.group c g with xfer := if r.2.2.1 then none else some r.2.1 })

/-- TZERO (R188, R189). -/
def execTzero (w : Site) (td a b : RegField) (t sg : Bool) (z : BitVec 5) (s : State) : Out :=
  .next (s.issue w [] fun s =>
    let gr := s.group w.core.val (groupOf w.strand.val)
    if gr.xfer.isSome || gr.pendCfg.isSome then .wait .none
    else if td.toNat ≥ 16 || a ≠ 0 || b ≠ 0 || sg || z ≠ 0 then .fault s (flt 0x01)
    else s.unitBody w (
      if !cfgV (s.tcfgWord w.core.val (groupOf w.strand.val) td.toNat) then .fault s (flt 0x24)
      else s.startEngine w .zero td.toNat t []))

/-- TMOV (R188, R189): td and ts must have equal rows and bytes per row. `e` is what the reads of the tile file find. -/
def execTmov (w : Site) (td ts b : RegField) (t sg : Bool) (z : BitVec 5) (e : ErrMap) (s : State) : Out :=
  .next (s.issue w [] fun s =>
    let c := w.core.val
    let g := groupOf w.strand.val
    let sgr := if sg then 1 - g else g
    if (s.group c g).xfer.isSome || (s.group c g).pendCfg.isSome || (s.group c sgr).pendCfg.isSome then .wait .none
    else if td.toNat ≥ 16 || ts.toNat ≥ 16 || b ≠ 0 || z ≠ 0 then .fault s (flt 0x01)
    else s.unitBody w (
      let x := s.tcfgWord c g td.toNat
      let y := s.tcfgWord c sgr ts.toNat
      if !cfgV x || !cfgV y || cfgRows x ≠ cfgRows y || cfgBpr x ≠ cfgBpr y then .fault s (flt 0x24)
      else if sgr = g && td = ts then .done s
      else s.startEngine w (.move sgr ts.toNat) td.toNat t e))

/-- R97, R171: the read of a unit instruction's block counts as a load: it is an L1D access, and where it misses while a miss of the strand
is outstanding the strand waits for that miss first. -/
def State.blockMisses (s : State) (w : Site) (pa : Nat) : Bool :=
  isHbm pa && (l1Find (s.core w.core.val).l1d 8 pa).isNone

/-- The event counts of the read of a unit instruction's block (R97, R510). -/
def State.countBlock (s : State) (w : Site) (pa : Nat) : State :=
  if !isHbm pa then s
  else
    let t := s.count w.core.val 0x10 w.strand.val 1
    if s.blockMisses w pa then t.count w.core.val 0x11 w.strand.val 1 else t

/-- TCFG (R171): once ready, checks; the block read as a load; the strand is parked until TCFG_APPLY. A holding strand's TCFG releases the
hold (R157). `e` is what the reads of the block find. -/
def execTcfg (w : Site) (d ga b : RegField) (h : BitVec 4) (z : BitVec 6) (e : ErrMap) (s : State) : Out :=
  .next (s.finding e fun s => s.issue w [.g ga.toNat, .h h.toNat] fun s =>
    let c := w.core.val
    let g := groupOf w.strand.val
    let a := (s.g w ga).toNat
    let hv := s.h w h.toNat
    if (s.group c g).notReady w.strand.val then .wait .none
    else if d ≠ 0 || b ≠ 0 || z ≠ 0 then .fault s (flt 0x01)
    else s.unitBody w (
      if a % 64 ≠ 0 then .fault s (fltA 0x02 a h.toNat 0 false false)
      else
        match hullCheck s hv 1 rREAD a 64 with
        | some code => .fault s (fltA code (if code = 0x0D then hullFailAt hv a else a) h.toNat 0 false false)
        | none => s.onPage w (hSeal hv) a .read h.toNat fun pa leaf s =>
          if s.padWaits pa then .wait .none
          else if s.blockMisses w pa && (s.strand w).miss.isSome then .wait .secondMiss
          else
            let r := (s.countBlock w pa).coreRead c [(pa, 64, leaf)] 0 (hHas hv rPIN) (some 1)
            let block := (List.range 16).map fun i => leAt r.2 (4 * i) 4
            match cfgBlockFault block with
            | some (t, code) => .fault r.1 ⟨code, 0, infoWord none (some t) 0 false false false⟩
            | none =>
              let q := r.1.takeOrd c
              .hold ((q.1.setGroup c g { q.1.group c g with pendCfg := some (block, w.strand.val, q.2), held := none }).park w .tcfg)))

/-- R172: an older instruction of the core still uses a tile of the group. -/
def State.groupBusy (s : State) (c g ord : Nat) : Bool :=
  (List.range 16).any fun t => (List.range 65).any fun r => s.readerBefore c g t r ord || s.writerBefore c g t r ord

/-- R172: apply a block: changed tiles have their rows and table zeroed and their latches invalidated. -/
def State.applyCfg (s : State) (c g : Nat) (block : List Nat) : State :=
  let gr := s.group c g
  let changed (t : Nat) : Bool := decide ((tget 0 gr.cfg t).toNat ≠ block.getD t 0)
  let cfg := (List.range 16).foldl (fun m t => tset 0 m t (BitVec.ofNat 32 (block.getD t 0))) gr.cfg
  let tiles := tkeep (fun t => !changed t) gr.tiles
  (s.setGroup c g { gr with cfg := cfg, tiles := tiles, pendCfg := none }).modCore c fun k =>
    k.dropLatch fun x => decide (x / 65 / 16 = g) && changed (x / 65 % 16)

/-- TCFG_APPLY (R172): once every older use of the group's tiles is over, all words change in one step and the strand goes
on. -/
def execTcfgApply (core : Fin 256) (group : Fin 2) (s : State) : Out :=
  .next (
    let c := core.val
    let g := group.val
    match (s.group c g).pendCfg with
    | none => s
    | some (block, strand, ord) =>
      if s.groupBusy c g ord || s.podStopped c then s
      else
        let w := site c strand
        ((s.applyCfg c g block).park w .none).retire w)

/-- TILE_CE_CLR (R191): CE_CLR zeroes the corrected count. -/
def execTileCeClr (core : Fin 256) (s : State) : Out :=
  .next (s.modCore core.val fun k => { k with tileEcc := setFld k.tileEcc 15 0 0 })

end Sys2Proof.Machine
end

