-- ==== Sys2Proof/Machine/Power.lean ====
section
/-! DEFINITION. Power: sensors and rails, thermal and cap ceilings, delay monitors, parking, staged epochs, the power management
controller, and their mailbox commands (R36-R45, R471, R484-R493). -/

namespace Sys2Proof.Machine

/-! ### Monitors -/

/-- Temperature sensor `i`. -/
def State.sensor (s : State) (i : Nat) : Sensor := tget Sensor.reset s.mgmt.pwr.tsens i

/-- Rail monitor `r`. -/
def State.vmonOf (s : State) (r : Nat) : VMon := tget VMon.reset s.mgmt.pwr.vmon r

/-- Delay monitor `i`. -/
def State.dmonOf (s : State) (i : Nat) : DMon := tget DMon.reset s.mgmt.pwr.dmon i

/-- Replace a delay monitor. -/
def State.setDmon (s : State) (i : Nat) (x : DMon) : State := s.modPwr fun w => { w with dmon := tset DMon.reset w.dmon i x }

/-- A sensor or rail as an event's source (R496). -/
def srcSensor (i : Nat) : Src := ⟨4, 10, i⟩

/-- A pod as an event's source. -/
def srcPod (p : Nat) : Src := ⟨p / 8, 1, p⟩

/-- TEMP as a number of units of 0.125 degC. -/
def Sensor.units (x : Sensor) : Int := x.temp.toInt

/-- The highest valid reading among sensors, in units of 0.125 degC. -/
def State.hottest (s : State) (l : List Nat) : Option Int :=
  l.foldl (fun m i =>
    let x := s.sensor i
    if x.valid then (match m with | none => some x.units | some y => some (max x.units y)) else m) none

/-- A temperature in whole degrees, rounded down (log entry 48). -/
def degrees (u : Int) : Int := u / 8

/-- A temperature as a field of unsigned degrees; below 0 it reads 0 (log entry 48). -/
def degreeField (u : Option Int) : Nat := (degrees (u.getD 0)).toNat

/-- R491: the sensors of a pod. -/
def podSensors (p : Nat) : List Nat := (List.range 8).map fun i => 8 * p + i

/-- R33, R34: the sensors of compute die `d`, or of die M (4). -/
def dieSensors (d : Nat) : List Nat := if d < 4 then (List.range 64).map (64 * d + ·) ++ [281 + d] else [285]

/-- R492: the nominal voltage of a fixed rail in units of 2 mV. -/
def railNominal (r : Nat) : Nat := if r < 38 then 375 else if r < 54 then 525 else if r < 70 then 375 else 1650

/-- R33: the guaranteed minimum of a pod rail in M waves/s, by rail voltage code and Tj; none where the table gives none. -/
def podFloor (vdd : Nat) (tj : Int) : Option Nat :=
  let pick (a b c : Nat) : Nat := if tj < 80 then b else if 760 < tj then c else a
  if vdd < 75 || vdd > 250 then none
  else if vdd < 100 then some (pick 1000 900 920)
  else if vdd < 160 then some (pick 1400 1260 1288)
  else if vdd < 210 then some (pick 2200 1980 2024)
  else some (pick 2600 2340 2392)

/-- R34: the guaranteed minimum of a fabric rail. -/
def fabricFloor (tj : Int) : Nat := if tj < 80 then 2070 else if 760 < tj then 2100 else 2300

/-- R39, R41: a sample is below the floor; a paced pod has none. Tj is the highest valid reading; the rules give none for a pod or a die
without a valid sensor: here it is then 0 degC, the cold band (DESIGN CHOICE, log entry 134). -/
def State.belowFloor (s : State) (i rate vdd : Nat) : Bool :=
  let tj := (s.hottest (if i < 32 then podSensors i else dieSensors (i - 32))).getD 0
  let floor := if i < 32 then (if (s.pod i).pace = 0 then podFloor vdd tj else none) else some (fabricFloor tj)
  match floor with
  | some f => decide (97 * rate < 100 * f)
  | none => false

/-- R17, R41, R45: the rail of a delay monitor is powered, and its pod unparked. -/
def State.railRuns (s : State) (i : Nat) : Bool :=
  if i < 32 then !s.podStopped (8 * i) else s.mgmt.boot.state != .halted

/-- DMON_WINDOW (R40, R41): a window ends: RATE is that of the last complete one; one that was complete, on a rail powered and unparked
throughout, gives a valid sample. A window that is not valid leaves the mark of a low sample before it: 'consecutive valid samples' is read
as consecutive among the valid ones (DESIGN CHOICE, log entry 135). -/
def execDmonWindow (mon : Fin 37) (env : DMonEnv) (s : State) : Out :=
  .next (
    let x := s.dmonOf mon.val
    let valid := env.whole && env.powered && s.railRuns mon.val
    let x := { x with vdd := env.vdd, slewing := env.slewing, valid := valid, rate := if env.whole then env.rate else x.rate }
    if valid then
      let low := s.belowFloor mon.val env.rate.toNat env.vdd.toNat
      s.setDmon mon.val { x with
        rmin := (if env.rate.toNat < x.rmin.toNat then env.rate else x.rmin),
        rmax := (if x.rmax.toNat < env.rate.toNat then env.rate else x.rmax), floor := x.floor || (low && x.below), below := low }
    else s.setDmon mon.val x)

/-- R41: PWR_DMON_CLR. -/
def State.dmonClear (s : State) (mask : BitVec 37) : State :=
  (List.range 37).foldl (fun s i =>
    if bit mask i then s.setDmon i { s.dmonOf i with rmin := 0xFFFF, rmax := 0 } else s) s

/-- DMON_CLEAR. -/
def execDmonClear (mask : BitVec 37) (s : State) : Out := .next (s.dmonClear mask)

/-! ### Parking (R486, R487) -/

/-- R486 step 1 of either table. -/
def State.startSequence (s : State) (p : Nat) (park : Bool) : State :=
  s.setPod p { s.pod p with state := if park then 1 else 3, ready := false }

/-- R487: a park or unpark request for a pod. -/
def State.parkRequest (s : State) (p : Nat) (park : Bool) : State :=
  let x := s.pod p
  if x.state = 0 then (if park then s.startSequence p true else s)
  else if x.state = 2 then (if park then s else s.startSequence p false)
  else
    let toward := x.state == 1
    if park = toward then (if x.latched then s.setPod p { x with latched := false, lreq := false } else s)
    else (s.setPod p { x with latched := true, lreq := park }).raise 0x14F (srcPod p) p 0 (b2n park)

/-- R487: a sequence has ended: the latched request runs, unless it asks for the state reached. -/
def State.podLatched (s : State) (p : Nat) : State :=
  let x := s.pod p
  if x.latched then (s.setPod p { x with latched := false, lreq := false }).parkRequest p x.lreq else s

/-- R486: a tile group's engine is idle or stands at a row whose page is not resident. -/
def State.xferQuiet (s : State) (c g : Nat) : Bool :=
  match (s.group c g).xfer with
  | none => true
  | some x =>
    let h := ((s.core c).strand x.strand).bank.readH x.hreg
    (decide (x.kind = .load) || decide (x.kind = .store)) &&
    match s.trRange (hSeal h) (((x.base : Int) + (x.next : Int) * x.stride) % (2 ^ 64 : Nat)).toNat (s.xferBytes c g x)
        (if x.kind = .store then .write else .read) with
    | .pageIn _ => true
    | _ => false

/-- R219, R230, R295, R326, R486 step 2: the units of a core are at their quiescent points: arrays, drain unit and clear engine empty, the
stream engine empty or its head waiting, copy channels and tile engines idle or waiting on a page-in, no shift in progress, no buffered
store. -/
def State.coreQuiet (s : State) (c : Nat) : Bool :=
  let k := s.core c
  k.vals.isEmpty && k.mats.all (fun e => e.2.queue.isEmpty && e.2.flights.isEmpty && e.2.shadow.isNone) &&
  k.acc.queue.isEmpty && k.acc.clears.isEmpty &&
  (match k.str.queue with | [] => true | it :: _ => s.headWaits c it) &&
  k.cpy.chans.all (fun e => match e.2.queue with | [] => true | it :: _ => s.copyWaits it) &&
  (List.range 2).all (fun g => s.xferQuiet c g) && k.wbuf.isEmpty

/-- POD_PARK_QUIESCE (R486 steps 2 and 3): the units of a pod that is parking have reached their quiescent points. -/
def execPodParkQuiesce (pod : Fin 32) (s : State) : Out :=
  .next (if (s.pod pod.val).state = 1 && (coresOfPod pod.val).all s.coreQuiet then s.setPod pod.val { s.pod pod.val with ready := true } else s)

/-- POD_UNPARK_SLEW (R486 steps 2 and 3): the rail reaches its target, issue resumes, and accesses that waited at the pod's port go on.
`e` is what the check codes of memory find. -/
def execPodUnparkSlew (pod : Fin 32) (e : ErrMap) (s : State) : Out :=
  .next (s.finding e fun s =>
    let x := s.pod pod.val
    if x.state = 3 then (s.setPod pod.val { x with ready := true, vdd := x.targetv }).podPortsGo else s)

/-- R477: a POD_PARK that has been applied (its `arg` is the pods, what it asks, the pods abandoned) responds when every named
pod's sequence has ended: INCOMPLETE when one was abandoned. -/
def State.answerParks (s : State) : State :=
  (List.range 320).foldl (fun s m =>
    let x := s.mbx m
    match x.arg with
    | [mask, want, gone] =>
      if x.busy && decide (x.stage = 2) && decide (x.opcode = 0x0302) then
        let pods := (List.range 32).filter mask.testBit
        let ended := pods.all fun p => let y := s.pod p; !y.latched && (y.state == 0 || y.state == 2)
        if ended then
          let reached := pods.foldl (fun n p => if decide ((s.pod p).state = 2) = decide (want = 1) then n + 2 ^ p else n) 0
          s.respond m (if gone = 0 then .ok else .incomplete) 0 [rf 8 4 reached, rf 12 4 gone]
        else s
      else s
    | _ => s) s

/-- A pod's park has been abandoned: the commands that asked for it note that. -/
def State.noteAbandoned (s : State) (p : Nat) : State :=
  (List.range 320).foldl (fun s m =>
    let x := s.mbx m
    match x.arg with
    | [mask, want, gone] =>
      if x.busy && decide (x.stage = 2) && decide (x.opcode = 0x0302) && mask.testBit p && decide (want = 1) then
        s.setMbx m { x with arg := [mask, want, gone ||| 2 ^ p] }
      else s
    | _ => s) s

/-- PARK_ABANDON (R486): a park that is not quiescent after 1 ms; a pod reset's park has no such limit (R553). -/
def execParkAbandon (pod : Fin 32) (s : State) : Out :=
  .next (
    let p := pod.val
    let x := s.pod p
    if x.state = 1 && !x.ready && !x.forced then
      let s := (s.setPod p { x with state := 0 }).raise 0x14A (srcPod p) p 0 0
      ((s.noteAbandoned p).podLatched p).answerParks
    else s)

/-- R486 step 4 of both tables, at a tick. -/
def State.parkTick (s : State) (p : Nat) : State :=
  let x := s.pod p
  if x.state = 1 && x.ready then
    ((s.setPod p { x with state := 2, ready := false, forced := false, vdd := 0x19 }).raise 0x148 (srcPod p) p 0 0).podLatched p
  else if x.state = 3 && x.ready then
    ((s.setPod p { x with state := 0, ready := false, floorup := 0 }).raise 0x149 (srcPod p) p 0 0).podLatched p
  else s

/-! ### The tick: samples (R484 step 2, R491, R492) -/

/-- The whole temperature sample of a tick. -/
def State.sampleTemps (s : State) (env : TickEnv) : State :=
  (List.range 324).foldl (fun (s : State) (i : Nat) =>
    let r : BitVec 12 × Bool := match env.temps.find? fun e => decide (e.1.val = i) with | some e => e.2 | none => (env.base, true)
    let x := s.sensor i
    let hi := if x.tmax.toInt < r.1.toInt then r.1 else x.tmax
    s.modPwr fun w => { w with tsens := tset Sensor.reset w.tsens i ⟨r.1, r.2, if r.2 then hi else x.tmax⟩ }) s

/-- R492: a rail's reading against its limits: under, over. -/
def State.railLimits (s : State) (r v : Nat) : Bool × Bool :=
  if r < 32 then
    let t := (s.pod r).targetv.toNat + 200
    if (s.pod r).state = 0 then (decide (2 * v + 25 < 2 * t), decide (2 * t + 25 < 2 * v)) else (false, false)
  else if r = 79 then (decide (v < 20000), decide (30000 < v))
  else
    let n := railNominal r
    (decide (100 * v < 96 * n), decide (104 * n < 100 * v))

/-- What a rail reads at a tick unless the sample says otherwise: its target, its retention voltage, its nominal voltage, V_IN. -/
def State.railUsual (s : State) (r vin : Nat) : Nat :=
  if r < 32 then (if (s.pod r).state = 0 then (s.pod r).targetv.toNat + 200 else 225)
  else if r = 79 then min 65535 (50 * vin) else railNominal r

/-- R491, R492: sample one rail: extremes, UV and OV with event 0x14E; a pod rail out of limits twice running is parked. -/
def State.sampleRail (s : State) (env : TickEnv) (r : Nat) : State :=
  let v := match env.volts.find? fun e => decide (e.1.val = r) with | some e => e.2.toNat | none => s.railUsual r env.vin
  let x := s.vmonOf r
  let lim := s.railLimits r v
  let w : W16 := BitVec.ofNat 16 v
  let y : VMon := ⟨w, x.uv || lim.1, x.ov || lim.2, if v < x.vmin.toNat then w else x.vmin, if x.vmax.toNat < v then w else x.vmax⟩
  let s := s.modPwr fun p => { p with vmon := tset VMon.reset p.vmon r y }
  let out := lim.1 || lim.2
  let s := if out then (s.raiseAos 0x14E (srcSensor r) r (1 + 2 * b2n lim.2)).alertCause 4 true else s
  if r < 32 then
    let p := s.pod r
    let s := s.setPod r { p with vdd := BitVec.ofNat 8 (v - 200), outs := if out then p.outs + 1 else 0 }
    if out && p.outs + 1 ≥ 2 then s.parkRequest r true else s
  else s

/-- Sample every rail; cause 4 stands only while a rail is out of limits. -/
def State.sampleRails (s : State) (env : TickEnv) : State :=
  (List.range 80).foldl (fun s r => s.sampleRail env r) (s.alertGone 4)

/-- R485: the flow estimate in 0.01 L/min, rounded down; 0 where the temperatures allow none. -/
def State.flowEstimate (s : State) (power : Nat) : Nat :=
  let i := s.sensor 322
  let o := s.sensor 323
  let dt := o.units - i.units
  if i.valid && o.valid && decide (0 < dt) then 12 * power / dt.toNat else 0

/-- R38, R485: the OPH condition. -/
def State.ophHolds (s : State) (power : Nat) : Bool :=
  let c := s.mgmt.pwr.cap.toNat
  decide (4000 ≤ c) && decide (c ≤ 4200) && decide (power ≤ c) && decide ((s.sensor 322).units ≤ 360) &&
  decide (400 ≤ s.flowEstimate power)

/-- R484 step 2: PWR_MOD, and the sensor causes of ALERT. -/
def State.sampleModule (s : State) (env : TickEnv) : State :=
  let oph := s.ophHolds env.power
  let flow := min 1023 (s.flowEstimate env.power)
  let was := s.mgmt.pwr.oph
  let s := s.modPwr fun w => { w with
    pwr := BitVec.ofNat 13 (min 8191 env.power), peak := BitVec.ofNat 13 (min 8191 env.peak),
    overcap := decide (w.cap.toNat < env.power), oph := oph, vin := BitVec.ofNat 10 (min 1023 env.vin), flow := BitVec.ofNat 10 flow }
  let s := if was && !oph then s.raise 0x14C (srcSensor 322) (degreeField (some (s.sensor 322).units)) 0 flow else s
  if (List.range 324).any fun i => !(s.sensor i).valid then s.alertCause 5 true else s.alertGone 5

/-! ### The tick: ceilings (R36, R42, R484 steps 3-6, R485, R488) -/

/-- The valid sensors of a pod. -/
def State.validSensors (s : State) (p : Nat) : Nat := ((podSensors p).filter fun i => (s.sensor i).valid).length

/-- R33, R488: a pod's Tj in units of 0.125 degC; with fewer than six valid sensors it counts as 105 degC. -/
def State.podTj (s : State) (p : Nat) : Int := if s.validSensors p < 6 then 840 else (s.hottest (podSensors p)).getD 0

/-- R488: the thermal ceiling of one pod. -/
def State.thermalPod (s : State) (p : Nat) : State :=
  let x := s.pod p
  let valid := s.validSensors p
  let s := if valid < 6 then s.raise 0x14D (srcPod p) valid 0 p else s
  let t := s.podTj p
  let x := { x with tj := BitVec.ofNat 8 (degreeField (some t)), hot105 := decide (840 ≤ t) }
  let hbm := (s.hottest ((List.range 4).map fun i => 256 + 4 * (p / 8) + i)).getD 0
  let reg := (s.hottest [286 + p]).getD 0
  let low (v : Nat) : BitVec 8 := BitVec.ofNat 8 (max 75 v)
  if 920 ≤ t then s.setPod p x
  else if 840 ≤ t then
    ((s.setPod p { x with thermv := BitVec.ofNat 8 (min x.thermv.toNat 100), throt := true }).raise 0x145 (srcPod p) x.tj.toNat 0 p)
  else if 760 ≤ t || 920 ≤ reg || 760 ≤ hbm then
    let s := s.setPod p { x with thermv := low (min x.thermv.toNat x.targetv.toNat - 5), throt := true }
    if x.throt then s else s.raise 0x144 (srcPod p) x.tj.toNat 0 p
  else if 744 ≤ t then s.setPod p x
  else s.setPod p { x with thermv := BitVec.ofNat 8 (min 250 (x.thermv.toNat + 5)), throt := false }

/-- R484 step 3, R488: pods, laser groups, and cause 1 of ALERT. -/
def State.thermalTick (s : State) : State :=
  let s := (List.range 32).foldl State.thermalPod s
  let s := (List.range 9).foldl (fun s g =>
    let x := s.sensor (272 + g)
    if x.valid && decide (680 ≤ x.units) then s.raise 0x14B ⟨4, 6, g⟩ (degreeField (some x.units)) 0 g else s) s
  if (List.range 32).any fun p => (s.pod p).hot105 then s.alertCause 1 true else s.alertGone 1

/-- The pods that are not parked. -/
def State.unparked (s : State) : List Nat := (List.range 32).filter fun p => (s.pod p).state != 2

/-- The first element of a list with the greatest key. -/
def argMax (key : Nat → Int) : List Nat → Option Nat
  | [] => none
  | a :: t =>
    match argMax key t with
    | none => some a
    | some b => if key a < key b then some b else some a

/-- R39, R159: a pod's registers change; where that sets PACED, vector 44 becomes pending in its cores. -/
def State.repace (s : State) (p : Nat) (x : PodReg) : State :=
  let set := decide ((s.pod p).pace = 0) && decide (x.pace ≠ 0)
  let s := s.setPod p x
  if set then s.pendAll (coresOfPod p) 44 else s

/-- R484 step 4, R485: the cap ceiling and the pacer. The ceiling is one value: the registers of parked pods follow it, so that a pod that
is unparked shares it. -/
def State.capTick (s : State) (power : Nat) : State :=
  let l := s.unparked
  let c := s.mgmt.pwr.cap.toNat
  match l with
  | [] => s
  | first :: _ =>
    let before := (s.pod first).capv.toNat
    let high := l.foldl (fun m p => max m (s.pod p).targetv.toNat) 0
    let paced := argMax (fun p => ((s.pod p).pace.toNat : Int)) (l.filter fun p => (s.pod p).pace != 0)
    let below := decide (100 * power < 98 * c)
    let cap :=
      if 105 * c < 100 * power then high - 15
      else if c < power then high - 5
      else if below && paced.isNone then min 250 (before + 2)
      else before
    let s : State := match (if below then paced else none) with
      | some p => s.setPod p { s.pod p with pace := BitVec.ofNat 3 ((s.pod p).pace.toNat - 1) }
      | none => s
    let cap := max 75 cap
    let cap := if s.mgmt.pwr.oph then cap else min 0xD1 cap
    let s : State := (List.range 32).foldl (fun s p => s.setPod p { s.pod p with capv := BitVec.ofNat 8 cap }) s
    let s : State := if cap < before then s.raise 0x146 srcDieM power 0 cap else s
    if c < power && before ≤ 75 then
      match argMax s.podTj (l.filter fun (p : Nat) => decide ((s.pod p).pace.toNat < 7)) with
      | some p =>
        let k := (s.pod p).pace.toNat + 1
        (s.repace p { s.pod p with pace := BitVec.ofNat 3 k }).raise 0x147 (srcPod p) k 0 p
      | none => s.raise 0x147 (srcPod first) 7 0 ((argMax s.podTj l).getD first)
    else s

/-- R42, R484 step 5: Luami acts on BELOW_FLOOR. -/
def State.floorTick (s : State) : State :=
  (List.range 37).foldl (fun s i =>
    let x := s.dmonOf i
    if !x.floor then s
    else
      let s := s.setDmon i { x with floor := false }
      if i < 32 then
        let p := s.pod i
        if p.floorup.toNat < 4 then
          (s.setPod i { p with floorup := p.floorup + 1 }).raise 0x140 (srcSensor i) x.rate.toNat 0 i
        else (s.parkRequest i true).raise 0x143 (srcPod i) i 0 0
      else s.raise 0x140 (srcSensor i) x.rate.toNat 0 i) s

/-- R36, R484 step 6: a pod's target; a fall makes vector 44 pending in its cores. -/
def State.targetTick (s : State) (p : Nat) : State :=
  let x := s.pod p
  let t := min (x.reqv.toNat + 5 * x.floorup.toNat) (min x.thermv.toNat x.capv.toNat)
  let s := s.setPod p { x with targetv := BitVec.ofNat 8 t }
  if t < x.targetv.toNat then s.pendAll (coresOfPod p) 44 else s

/-! ### Staged epochs (R476, R493) -/

/-- Apply `f` to the staged configuration. -/
def State.modEpoch (s : State) (f : Epoch → Epoch) : State := s.modMgmt fun g => { g with epoch := f g.epoch }

/-- R493: the units a staged change reaches. -/
def Staged.units : Staged → List EpochUnit
  | .pinLimit mask _ _ =>
    (List.range 128).filterMap fun n =>
      if mask.getLsbD (n / 32 * 4 + n % 32 / 8) then some (.slice (Fin.ofNat 128 n)) else none
  | .bwWindow _ => (List.range 65).map fun n => .mon (Fin.ofNat 65 n)
  | .clink core _ => [.clink (Fin.ofNat 256 core)]
  | .slice n _ _ => [.slice (Fin.ofNat 128 n)]

/-- R476: at a tick boundary the oldest accepted change enters the shadow copies, unless an epoch is in progress. -/
def State.epochTick (s : State) : State :=
  let e := s.mgmt.epoch
  match e.shadow, e.waiting with
  | none, x :: rest => if e.busy then s else s.modEpoch fun e => { e with shadow := some x, waiting := rest }
  | _, _ => s

/-- R493 step 4: the epoch retires and its command responds. -/
def State.epochRetire (s : State) : State :=
  let e := s.mgmt.epoch
  let s := s.modEpoch fun e => { e with gen := e.gen + 1, busy := false, done := true, shadow := none, todo := [] }
  let s := s.raise 0x186 srcDieM (e.gen + 1).toNat 0 0
  match e.shadow with
  | some (some m, _) => s.respondOk m
  | _ => s

/-- R493: PWR_EPOCH.COMMIT; ignored while BUSY. -/
def State.epochCommit (s : State) : State :=
  let e := s.mgmt.epoch
  match e.shadow with
  | some (_, x) =>
    if e.busy then s
    else
      let s := s.modEpoch fun e => { e with busy := true, todo := x.units }
      if x.units.isEmpty then s.epochRetire else s
  | none => s

/-- CONFIG_EPOCH_COMMIT (R493). -/
def execConfigEpochCommit (s : State) : Out := .next s.epochCommit

/-- R346, R493: a slice has no fill waiting. -/
def State.sliceQuiet (s : State) (n : Nat) : Bool :=
  s.llc.all fun e => decide (e.1 / 2048 ≠ n) || e.2.waiting.isEmpty

/-- R493: a unit takes the shadow's value, if it is at a quiescent point. -/
def State.unitFlip (s : State) (u : EpochUnit) : Option State :=
  match s.mgmt.epoch.shadow, u with
  | some (_, .pinLimit _ ways cmp), .slice n =>
    if s.sliceQuiet n.val then some (s.setSlice n.val { s.slice n.val with pinWays := ways, cmpEn := cmp }) else none
  | some (_, .slice k ways cmp), .slice n =>
    if n.val = k && s.sliceQuiet k then some (s.setSlice k { s.slice k with pinWays := ways, cmpEn := cmp }) else none
  | some (_, .bwWindow win), .mon n => some (s.bwFlip n.val win)
  | some (_, .clink core w), .clink c =>
    if c.val = core then some { s with upd := { s.upd with clink := tset 0 s.upd.clink core w } } else none
  | _, _ => none

/-- EPOCH_UNIT_FLIP (R493). -/
def execEpochUnitFlip (u : EpochUnit) (s : State) : Out :=
  .next (
    let e := s.mgmt.epoch
    if e.busy && e.todo.contains u then
      match s.unitFlip u with
      | none => s
      | some s =>
        let l := e.todo.filter fun v => decide (v ≠ u)
        let s := s.modEpoch fun e => { e with todo := l }
        if l.isEmpty then s.epochRetire else s
    else s)

/-! ### The power management controller (R45, R471) -/

/-- POD_HOT_CLAMP (R471): without Luami, a pod at 105 degC is forced to 0.60 V. -/
def execPodHotClamp (pod : Fin 32) (tj : BitVec 8) (s : State) : Out :=
  .next (
    if 105 ≤ tj.toNat then
      let x := s.pod pod.val
      let v : BitVec 8 := BitVec.ofNat 8 (min 100 x.targetv.toNat)
      s.setPod pod.val { x with targetv := v, vdd := v, tj := tj, hot105 := true }
    else s)

/-- R45: the memory that is not HBM. -/
def dropHbm (m : List Host.Cell) : List Host.Cell := tkeep (fun a => !isHbm a) m

/-- REFERENCE_LOSS (R45): the always-on store records 0x141, ALERT_N is asserted, every pod rail goes to retention and the module is
halted; HBM contents are lost. -/
def execReferenceLoss (s : State) : Out :=
  .next (
    if s.mgmt.boot.state = .lockout then s
    else
      let s := s.aosWrite 0x141 0 (detWord srcDieM 0 0)
      let s := (List.range 32).foldl (fun s p => s.setPod p { s.pod p with vdd := 0x19 }) s
      let s := { s with mem := dropHbm s.mem, hbm := [], llc := [] }
      let s := (List.range 36).foldl (fun s k => if (s.port k).state = 0 then s else s.portDown k) s
      let s := (List.range 16).foldl (fun s x => s.setStack x { s.stack x with ready := false }) s
      let s := s.modGrn fun g => { g with ready := false }
      (s.modBoot fun b => { b with state := .halted }).alertCause 2 true)

/-- R43, R45: the number of an island in the order of R43's table (log entry 49). -/
def islandCode : Island → Nat
  | .pcie => 0
  | .hbmPhy _ => 1
  | .serdes _ => 2
  | .onfi => 3
  | .timeBase _ => 6

/-- PLL_LOCK_LOSS (R45): only its own island goes down: a port is DOWN, a stack accepts no request, the granary no command, the host
reaches nothing, a replica of TIME stands (log entry 49). -/
def execPllLockLoss (island : Island) (s : State) : Out :=
  .next (
    let s := s.raise 0x142 srcDieM (islandCode island) 0 0
    match island with
    | .pcie => s.modMgmt fun g => { g with pcieDown := true }
    | .timeBase d => s.modMgmt fun g => { g with stopped := tset none g.stopped d.val (some (s.timeOf d.val)) }
    | .serdes k => if (s.port k.val).state = 0 then s else s.portDown k.val
    | .hbmPhy x => s.setStack x.val { s.stack x.val with ready := false }
    | .onfi => s.modGrn fun g => { g with ready := false })

/-! ### Mailbox commands (R477) -/

/-- MODULE_STATUS. -/
def execModuleStatus (m : Fin 320) (s : State) : Out :=
  .next (s.serve m.val 0x0003 [] .any fun s _ =>
    let w := s.mgmt.pwr
    let mask (p : PodReg → Bool) : Nat := (List.range 32).foldl (fun n i => if p (s.pod i) then n + 2 ^ i else n) 0
    let deg (l : List Nat) : Nat := ofInt 8 (degrees ((s.hottest l).getD 0))
    s.respond m.val .ok 0 [rf 8 2 w.pwr.toNat, rf 10 2 w.cap.toNat, rf 12 1 (deg (List.range 256)),
      rf 13 1 (deg ((List.range 16).map (256 + ·))), rf 14 1 (deg [322]),
      rf 15 1 (b2n w.oph + 2 * b2n s.alert + 4 * b2n s.mgmt.epoch.busy), rf 16 4 (mask fun x => x.state == 2),
      rf 20 4 (mask fun x => decide (x.thermv.toNat < x.reqv.toNat)), rf 24 4 (mask fun x => x.pace != 0),
      rf 28 4 (w.causes ||| w.unacked).toNat])

/-- ALERT_ACK (R490). -/
def execAlertAck (m : Fin 320) (s : State) : Out :=
  .next (s.serve m.val 0x0005 [(8, 12)] .pf fun s _ =>
    (s.alertAck (BitVec.ofNat 32 ((s.mbx m.val).at 8 4))).respondOk m.val)

/-- EPOCH_STATUS. -/
def execEpochStatus (m : Fin 320) (s : State) : Out :=
  .next (s.serve m.val 0x0007 [] .any fun s _ =>
    let e := s.mgmt.epoch
    s.respond m.val .ok 0 [rf 8 2 e.gen.toNat, rf 10 1 (b2n e.busy), rf 12 4 e.todo.length])

/-- SENSOR_READ. -/
def execSensorRead (m : Fin 320) (s : State) : Out :=
  .next (s.serve m.val 0x0008 [(8, 11)] .any fun s _ =>
    let x := s.mbx m.val
    let a := x.at 8 2
    let n := x.at 10 1
    if n = 0 || n > 24 then s.respond m.val .badparam 10 []
    else if a + n > 324 then s.respond m.val .badparam 8 []
    else s.respond m.val .ok 0 [(8, (List.range n).flatMap fun i => leBytes 2 (s.sensor (a + i)).temp.toNat)])

/-- PIN_LIMIT (R341, R493): staged. -/
def execPinLimit (m : Fin 320) (s : State) : Out :=
  .next (s.serve m.val 0x0206 [(8, 12)] .pf fun s _ =>
    let x := s.mbx m.val
    if x.at 10 1 > 12 then s.respond m.val .badparam 10 []
    else if x.at 11 1 > 1 then s.respond m.val .badparam 11 []
    else s.acceptStaged m.val (.pinLimit (BitVec.ofNat 16 (x.at 8 2)) (BitVec.ofNat 4 (x.at 10 1)) (x.at 11 1 == 1)))

/-- POD_VOLTAGE: accepted for the next tick. -/
def execPodVoltage (m : Fin 320) (s : State) : Out :=
  .next (s.serve m.val 0x0300 [(8, 13)] .pf fun s _ =>
    let v := (s.mbx m.val).at 12 1
    if v < 0x4B || v > 0xFA then s.respond m.val .badparam 12 [] else s.acceptTick m.val)

/-- R42, R477: POD_VOLTAGE at the boundary: REQV, and FLOORUP returns to 0. -/
def State.applyPodVoltage (s : State) (m : Nat) : State :=
  let x := s.mbx m
  let mask := x.at 8 4
  let s := (List.range 32).foldl (fun s p =>
    if mask.testBit p then s.setPod p { s.pod p with reqv := BitVec.ofNat 8 (x.at 12 1), floorup := 0 } else s) s
  s.respondOk m

/-- POWER_CAP: accepted for the next tick. -/
def execPowerCap (m : Fin 320) (s : State) : Out :=
  .next (s.serve m.val 0x0301 [(8, 10)] .pf fun s _ =>
    let v := (s.mbx m.val).at 8 2
    if v < 1500 || v > 4200 then s.respond m.val .badparam 8 [] else s.acceptTick m.val)

/-- POWER_CAP at the boundary. -/
def State.applyPowerCap (s : State) (m : Nat) : State :=
  (s.modPwr fun w => { w with cap := BitVec.ofNat 13 ((s.mbx m).at 8 2) }).respondOk m

/-- POD_PARK: accepted for the next tick. -/
def execPodPark (m : Fin 320) (s : State) : Out :=
  .next (s.serve m.val 0x0302 [(8, 13)] .pf fun s _ =>
    if (s.mbx m.val).at 12 1 > 1 then s.respond m.val .badparam 12 [] else s.acceptTick m.val)

/-- R487: POD_PARK at the boundary: a request for every named pod; it responds when their sequences have ended. -/
def State.applyPodPark (s : State) (m : Nat) : State :=
  let x := s.mbx m
  let mask := x.at 8 4
  let want := x.at 12 1
  let s := (List.range 32).foldl (fun s p => if mask.testBit p then s.parkRequest p (want == 1) else s) s
  (s.setMbx m { s.mbx m with stage := 2, arg := [mask, want, 0] }).answerParks

end Sys2Proof.Machine
end

