-- ==== Sys2Proof/Machine/Reset.lean ====
section
/-! DEFINITION. Module reset, boot, the watchdog, the thermal trip, die and pod reset (R541-R553, R561, R562, R471, R489). -/

namespace Sys2Proof.Machine

/-! ### Module reset (R541, R542) -/

/-- R542: what a module reset keeps of a stack: the hard repairs that wait for it, and the count of those applied. -/
def StackRegs.afterReset (r : StackRegs) : StackRegs := { StackRegs.reset with hardRepairs := r.hardRepairs, hppr := r.hppr }

/-- R437: a laser that has failed stays so, and a wavelength that is lost stays lost, until the module is replaced; every group is dark. -/
def Lasers.afterReset (x : Lasers) : Lasers := { Lasers.reset with failed := x.failed, spareBad := x.spareBad, lost := x.lost }

/-- R532, R542: the committed granary. -/
def Granary.afterReset (g : Granary) : Granary :=
  { Granary.reset with
    objs := tmap GrnObj.none (fun o => { o with opened := o.data, written := 0, fresh := [] }) g.objs, keys := g.keys,
    usedIds := g.usedIds, nextXfer := g.nextXfer, written := g.written, avgpe := g.avgpe, factbad := g.factbad,
    grownbad := g.grownbad, spare := g.spare, heldMs := g.heldMs, material := g.material }

/-- R561: the trial of the image in the running slot has failed: PENDING is cleared, and the next boot takes the other slot. -/
def Boot.trialFails (b : Boot) : Boot :=
  if !b.trial then b
  else
    let b := { b with trial := false, skip := some b.slot }
    if b.slot then { b with b := { b.b with owed := false } } else { b with a := { b.a with owed := false } }

/-- R542: the module reset with a cause: everything is as right after reset but for what the rule keeps; a trial boot that it cuts short
has failed (R561). What runs on the always-on rail
(the I3C address, the TAP) and the reset pins stay (log entry 50). -/
def State.moduleReset (s : State) (cause : Nat) : State :=
  let b := s.mgmt.boot.trialFails
  let r := State.reset
  let m : Mgmt := { Mgmt.reset with
    grn := s.mgmt.grn.afterReset,
    boot := { b with
      state := .held, waitVin := false, cause := BitVec.ofNat 3 cause, fallback := false, phase := 0, done := false, bootms := 0,
      replay := false, trial := false, due := none },
    lc := { s.mgmt.lc with trans := false, nonce := none, token := [] },
    side := { Sideband.reset with i3c := s.mgmt.side.i3c }, opened := s.mgmt.opened, jtag := s.mgmt.jtag }
  { r with
    hbmStacks := tmap StackRegs.reset StackRegs.afterReset s.hbmStacks,
    link := { r.link with lasers := tmap Lasers.reset Lasers.afterReset s.link.lasers },
    evr := { r.evr with aos := s.evr.aos, aosNor := s.evr.aosNor, seq := s.evr.seq },
    mgmt := m, freeCtr := s.freeCtr, pending := s.pending }

/-- R544, R558: a module reset that has been asked for begins. -/
def State.dueReset (s : State) : State :=
  match s.mgmt.boot.due with
  | some c => s.moduleReset c
  | none => s

/-- R533: a module reset by PERST_N uses the hold-up store; how long is free, at most 30 ms or more. -/
def State.useHoldup (s : State) (ms : Nat) : State :=
  if s.mgmt.grn.ready then s.modGrn fun g => { g with heldMs := ms } else s

/-- PERST_N_ASSERT (R543). -/
def execPerstNAssert (s : State) : Out :=
  .next (
    if s.mgmt.boot.state = .lockout then s.modBoot fun b => { b with perst := true }
    else
      let r := s.fresh
      let s := r.1.useHoldup (r.2.toNat % 2 ^ 32)
      (s.moduleReset 1).modBoot fun b => { b with perst := true })

/-- MOD_RST_N_ASSERT (R543). -/
def execModRstNAssert (s : State) : Out :=
  .next (
    if s.mgmt.boot.state = .lockout then s.modBoot fun b => { b with modrst := true }
    else (s.moduleReset 2).modBoot fun b => { b with modrst := true })

/-- MODULE_RESET (R544): accepted for the next tick boundary. -/
def execModuleReset (m : Fin 320) (s : State) : Out :=
  .next (s.serve m.val 0x0006 [] .pf fun s _ => s.acceptTick m.val)

/-- R544: MODULE_RESET at its tick boundary: it responds, and the reset begins after the tick. -/
def State.applyModuleReset (s : State) (m : Nat) : State := (s.respondOk m).modBoot fun b => { b with due := some 3 }

/-- R471: Luami is at work, or should be. -/
def State.luamiOn (s : State) : Bool :=
  match s.mgmt.boot.state with
  | .running => true
  | .waitCool => true
  | .stalled => true
  | _ => false

/-- R471, R561: a reset by the watchdog (cause 4) or a lockstep mismatch (5). -/
def State.luamiFails (s : State) (cause : Nat) : State :=
  if !s.luamiOn then s
  else (s.aosWrite 0x185 (cause - 4) (detWord srcDieM 0 0)).moduleReset cause

/-- WATCHDOG_EXPIRY (R471). -/
def execWatchdogExpiry (s : State) : Out := .next (s.luamiFails 4)

/-- LOCKSTEP_MISMATCH (R471). -/
def execLockstepMismatch (s : State) : Out := .next (s.luamiFails 5)

/-- TRIAL_TIMEOUT (R561): the timer of a trial boot that has not reached step 10. -/
def execTrialTimeout (s : State) : Out :=
  .next (if s.mgmt.boot.trial then s.moduleReset 7 else s)

/-- R489, R574: every rail but the always-on rail is off: what a module reset clears is lost, the module is held off. -/
def State.powerDown (s : State) : State :=
  (s.moduleReset s.mgmt.boot.cause.toNat).modBoot fun b => { b with state := .heldOff }

/-- THERMAL_TRIP (R489). -/
def execThermalTrip (sensor : Fin 324) (s : State) : Out :=
  .next (
    match s.mgmt.boot.state with
    | .lockout => s
    | .heldOff => s
    | _ => ((s.aosWrite 0x14E sensor.val (detWord (srcSensor sensor.val) 0 0)).powerDown).alertCause 0 true)

/-! ### Boot (R546-R549) -/

/-- The image slot A (false) or B (true). -/
def Boot.slotOf (b : Boot) (x : Bool) : LuamiSlot := if x then b.b else b.a

/-- Replace a slot. -/
def Boot.setSlot (b : Boot) (x : Bool) (y : LuamiSlot) : Boot := if x then { b with b := y } else { b with a := y }

/-- R546: a slot that may be tried. -/
def Boot.candidate (b : Boot) (x : Bool) : Bool :=
  (b.slotOf x).img.formed && decide (b.roll.toNat ≤ (b.slotOf x).img.rollIdx.toNat)

/-- R546, R561: the candidates in the order the germ tries them, and whether this is a trial boot. -/
def Boot.order (b : Boot) : List Bool × Bool :=
  let cs := [false, true].filter b.candidate
  match cs.find? fun x => (b.slotOf x).owed with
  | some x => (x :: cs.filter (· != x), true)
  | none =>
    match b.skip with
    | some t => (cs.filter (· != t) ++ cs.filter (· == t), false)
    | none => (if b.a.img.version.toNat < b.b.img.version.toNat then cs.reverse else cs, false)

/-- R546: the germ tries the candidates in order: a signature that fails records 0x502, PENDING of a failed trial is cleared; the
second one to pass is a fallback. Answers the running slot, if any. -/
def Boot.verify (b : Boot) : List Bool → Boot × Option Bool
  | [] => (b, none)
  | x :: t =>
    let y := b.slotOf x
    if y.img.signed then
      let b := b.setSlot x { y with valid := true }
      ({ b with slot := x }, some x)
    else
      let b := b.setSlot x { y with valid := false, owed := false }
      let b := { b with trial := false, notes := b.notes ++ [(0x502, b2n x)] }
      let r := Boot.verify b t
      match r.2 with
      | some z => ({ r.1 with fallback := true, notes := r.1.notes ++ [(0x501, b2n z)] }, some z)
      | none => r

/-- R546: the germ's choice. A boot after a failed trial falls back (R561). -/
def Boot.choose (b : Boot) : Boot × Option Bool :=
  let o := b.order
  let tried := { b with
    trial := o.2, notes := [], fallback := false, a := { b.a with valid := b.a.img.formed }, b := { b.b with valid := b.b.img.formed } }
  let r := tried.verify o.1
  let back := b.skip.isSome && r.2.isSome && !r.1.fallback
  ({ r.1 with skip := none, fallback := r.1.fallback || back,
              notes := if back then r.1.notes ++ [(0x501, b2n (r.2.getD false))] else r.1.notes }, r.2)

/-- R502: Luami makes the recorder's storage object if there is none; its capacity is the model's (log entry 45). -/
def State.recorderObject (s : State) : State :=
  if s.mgmt.grn.objs.any fun e => decide (e.2.kind = 5) then s
  else
    let r := s.fresh
    match findFrom 0xFFFFFFFE (fun i => !s.mgmt.grn.usedIds.contains (i + 1)) (s.mgmt.grn.usedIds.length + 1) r.2.toNat with
    | none => s
    | some i => r.1.modGrn fun g => { g with
        objs := tset GrnObj.none g.objs (i + 1) ({ GrnObj.none with kind := 5, cap := 655360 }), usedIds := g.usedIds ++ [i + 1] }

/-- Step 5: every stack trained, its pending hard repairs applied (R357, R358). -/
def State.trainStacks (s : State) (l : List Nat) : State :=
  l.foldl (fun s x =>
    let r := s.stack x
    s.setStack x { r with ready := true, hppr := satInc r.hppr r.hardRepairs.length, hardRepairs := [] }) s

/-- Step 10: the always-on entries are applied with TIME taken now (R503). -/
def State.applyAos (s : State) : State :=
  s.evr.aos.foldl (fun s e =>
    let o : Occ := ⟨e.code, e.value, 1, e.det, s.timeOf 4, 4⟩
    { s with evr := { s.evr with collectors := tset [] s.evr.collectors 4 (tget [] s.evr.collectors 4 ++ [o]) } }) s

/-- R547 steps 5-10: the boot goes on to its end. -/
def State.finishBoot (s : State) (env : BootEnv) : State :=
  let b := s.mgmt.boot
  let s := s.trainStacks (List.range 16)
  let held := s.mgmt.grn.heldMs
  let s := (s.modGrn fun g => { g with ready := true, holdup := env.holdup, heldMs := 0 }).recorderObject
  let s := { s with mem := [], hbm := [] }
  let r := s.fresh
  let s := r.1.raise 0x505 srcDieM (r.2.toNat % 2 ^ 32) 0 0
  let s := (List.range 32).foldl (fun s p => s.setPod p { s.pod p with vdd := (s.pod p).targetv }) s
  let s := s.applyAos
  let s := b.notes.foldl (fun s n => s.raise n.1 srcDieM n.2 0 0) s
  let s := if held ≠ 0 then s.raise 0x406 srcDieM held 0 0 else s
  let s := match s.mgmt.lc.left with
    | some old => s.raise 0x503 srcDieM s.mgmt.lc.state.toNat 0 old.toNat
    | none => s
  let s := s.raise 0x500 srcDieM env.ms 0 (b2n b.slot)
  let img := (b.slotOf b.slot).img
  let fin (b : Boot) : Boot :=
    let b := if b.trial then
        { b.setSlot b.slot { b.slotOf b.slot with owed := false } with roll := if b.roll.toNat < img.rollIdx.toNat then img.rollIdx else b.roll }
      else b
    { b with
      state := .running, phase := 10, done := true, bootms := BitVec.ofNat 16 (min env.ms 65535), replay := decide (held ≠ 0),
      trial := false, measured := b.runtime, notes := [] }
  let s := s.modMgmt fun g => { g with lc := { g.lc with left := none } }
  let t := s.fresh
  let s := { t.1 with link := { t.1.link with serial := t.2 }, sync := { t.1.sync with spbase := t.2 &&& 0xFFFFFFFFF0000 }, pmc := { s.pmc with avail := true } }
  s.modBoot fin

/-- R489, R547 step 4: a hot sensor holds the boot there with ALERT_N asserted; a boot whose Luami stalls goes no further. -/
def State.bootFrom4 (s : State) (env : BootEnv) : State :=
  if env.hot then (s.modBoot fun b => { b with state := .waitCool, phase := 4 }).alertCause 0 true
  else
    match env.stall with
    | some k => s.modBoot fun b => { b with state := .stalled, phase := BitVec.ofNat 4 k.val }
    | none => s.finishBoot env

/-- R583: the TAP instructions that need PERST_N asserted. -/
def jtagPins (code : BitVec 8) : Bool := code == 0x00 || code == 0x04 || code == 0x05 || code == 0x08 || code == 0x09

/-- R543, R583: both reset pins are deasserted; a TAP instruction that drives pins becomes BYPASS in the same step. -/
def State.pinsHigh (s : State) : State :=
  (s.modBoot fun b => { b with perst := false, modrst := false }).modMgmt fun g => { g with jtag := if jtagPins g.jtag then 0xFF else g.jtag }

/-- R546, R547: the germ starts. When no slot passes it enters recovery (R562). -/
def State.runBoot (s : State) (env : BootEnv) : State :=
  let s := s.pinsHigh.modBoot fun b => { b with bootn := b.bootn + 1, waitVin := false }
  let c := s.mgmt.boot.choose
  let s := s.modBoot fun _ => c.1
  match c.2 with
  | none => s.modBoot fun b => { b with state := .recovery, phase := 0 }
  | some _ => ({ s with moduleId := s.mgmt.lc.modid.getD 0 } : State).bootFrom4 env

/-- BOOT (R547): both reset pins are deasserted. With V_IN below 40 V after a power loss the boot waits (R575). -/
def execBoot (env : BootEnv) (s : State) : Out :=
  .next (
    let s := s.dueReset
    if s.mgmt.boot.state ≠ .held then s
    else if s.mgmt.boot.lowVin then s.pinsHigh.modBoot fun b => { b with waitVin := true }
    else s.runBoot env)

/-- VIN_REACHES_40V (R575): a boot that waited begins. -/
def execVinReaches40v (env : BootEnv) (s : State) : Out :=
  .next (
    if s.mgmt.boot.state = .lockout then s
    else
      let go := s.mgmt.boot.waitVin && decide (s.mgmt.boot.state = .held)
      let s := s.modBoot fun b => { b with lowVin := false }
      if go then s.runBoot env else s)

/-- TRIP_SENSOR_CLEAR (R489): a boot held at step 4 continues. -/
def execTripSensorClear (env : BootEnv) (s : State) : Out :=
  .next (if s.mgmt.boot.state ≠ .waitCool || env.hot then s else (s.alertGone 0).bootFrom4 env)

/-- RECOVERY_IMAGE (R562): the germ verifies a Luami image, writes it to slot A and starts a module reset. R564 lists no cause for that
reset, so the code is free. -/
def execRecoveryImage (img : FwImage) (s : State) : Out :=
  .next (
    if s.mgmt.boot.state ≠ .recovery || !img.formed || !img.signed || img.rollIdx.toNat < s.mgmt.boot.roll.toNat then s
    else
      let r := s.fresh
      (r.1.modBoot fun b => { b with a := ⟨img, false, true⟩ }).moduleReset (r.2.toNat % 8))

/-! ### Die reset and pod reset (R550-R553) -/

/-- R550: a core after a die or pod reset: PERR, ACC_ECC and STR_ECC stay, which only cold power-on and a module reset clear (R222, R259,
R295), and CPY_SPECC, which husking does not change (R324). -/
def Core.powerCycled (k : Core) : Core :=
  let u := k.resetUnits
  { Core.reset with mats := u.mats, acc := u.acc, str := u.str, cpy := { CopyUnit.reset with specc := k.cpy.specc } }

/-- R419, R422: a reset core's remote error record and its posted operations end. -/
def State.dropSync (s : State) (c : Nat) : State :=
  { s with sync := { s.sync with rerr := tdel c s.sync.rerr, remote := tdel c s.sync.remote } }

/-- R552, R553: the cores `l` are reset, their scratchpads husked. -/
def State.resetCores (s : State) (l : List Nat) : State :=
  let s := l.foldl (fun s c =>
    let s := (s.dropCoreWaiters c).cancelCoreUpdates c
    (s.dropSync c).modCore c Core.powerCycled) s
  l.foldl (fun s c => s.huskPages [(scratchBase c, 0x200000)]) s

/-- R552 step 1: domain `x` holds a resource of die `d`. -/
def State.usesDie (s : State) (n : DomNo) (x : Domain) (d : Nat) : Bool :=
  (x.cores.any fun c => decide (dieOfCore c = d)) ||
  ((x.pages ++ x.tables).any fun p => match regionOf p.1 with | .hbm k => decide (k / 4 = d) | .scratch c _ => decide (dieOfCore c = d) | _ => false) ||
  (s.sync.grants.any fun g => decide (g.1 = n) && overlaps g.2.1 g.2.2 (d * 16384) 16384) ||
  (s.upd.units.any fun u => decide (u.1 / 4 = d) && u.2.queues.any fun q => q.2.bound && decide (q.2.dom = n)) ||
  (s.sync.rings.any fun r => r.2.on && decide (r.2.dom = n) && decide (ringDie r.1 = d))

/-- Revoke the live domains that `p` picks, each in a time of its own. -/
def State.revokeAll (s : State) (p : State → DomNo → Domain → Bool) : State :=
  (s.doms.map Prod.fst).foldl (fun s d =>
    if s.live d && p s d (s.dom d) then let r := s.fresh; r.1.revoke d (r.2.toNat % 2 ^ 32) else s) s

/-- R550: the sync objects homed on die `d` are zero in every namespace; waiters on them are released. -/
def State.clearObjects (s : State) (d : Nat) : State :=
  let ws := s.sync.waiters.map fun w =>
    if objDie w.obj = d then
      match w.wait with
      | .released _ _ _ => w
      | _ => { w with wait := .released (s.objWord w.dom w.obj) 0x51 true }
    else w
  { s with sync := { s.sync with
    waiters := ws, words := tkeep (fun k => decide (objDie (k % 65536) ≠ d)) s.sync.words,
    resident := tdel d s.sync.resident, fills := tdel d s.sync.fills, spills := tdel d s.sync.spills } }

/-- R550, R552: die `d` after its reset: ports OFF, the units of the die at their reset values, its memory husked, its pods running; the
route tables stand as Luami rewrites them. -/
def State.dieReset (s : State) (d us : Nat) : State :=
  let s := s.revokeAll fun s n x => s.usesDie n x d
  let s := (List.range 9).foldl (fun s i => let k := 9 * d + i; ((s.portDown k).setPort k Port.reset).lasersOff (k / 4)) s
  let s := s.resetCores ((List.range 64).map (64 * d + ·))
  let mine (pa : Nat) : Bool := match regionOf pa with | .hbm x => decide (x / 4 = d) | _ => false
  let s := { s with
    mem := tkeep (fun a => !mine a) s.mem, hbm := tkeep (fun a => !mine a) s.hbm,
    llc := tkeep (fun k => decide (k / 2048 / 32 ≠ d)) s.llc,
    slices := tkeep (fun k => decide (k / 32 ≠ d)) s.slices,
    banks := tkeep (fun k => decide (k / 4096 / 4 ≠ d)) s.banks,
    hbmWait := tkeep (fun k => decide (k / 4096 / 4 ≠ d)) s.hbmWait,
    sliceIn := tkeep (fun k => decide (k / 32 ≠ d)) s.sliceIn,
    diePools := tdel d s.diePools,
    upd := { s.upd with units := tkeep (fun k => decide (k / 4 ≠ d)) s.upd.units },
    sync := { s.sync with rings := tkeep (fun k => decide (ringDie k ≠ d)) s.sync.rings } }
  let s := (List.range 4).foldl (fun s i => let x := 4 * d + i; s.setStack x ((s.stack x).afterReset)) s
  let s := s.trainStacks ((List.range 4).map (4 * d + ·))
  let s := s.clearObjects d
  let s := s.modMgmt fun g => { g with stopped := tdel d g.stopped }
  let s := s.setSwitch d { s.switch d with bretry := [], busy := false }
  let s := { s with
    link := { s.link with
      trackers := s.link.trackers.filter fun t => decide (t.die ≠ d), atPods := s.link.atPods.filter fun x => decide (x.1 ≠ d) },
    pmc := { s.pmc with
      sets := tdel d s.pmc.sets, bwwin := tdel d s.pmc.bwwin, mons := tkeep (fun k => decide (k / 16 ≠ d)) s.pmc.mons } }
  let s := (List.range 8).foldl (fun s i =>
    let p := 8 * d + i
    let x := s.pod p
    s.setPod p { x with state := 0, latched := false, lreq := false, ready := false, forced := false, vdd := x.targetv }) s
  let s := s.raise 0x505 srcDieM (us / 1000) 0 1
  s.raise 0x506 srcDieM 0 0 d

/-- R553: pod `p` after its reset. -/
def State.podReset (s : State) (p us : Nat) : State :=
  let mine (c : Nat) : Bool := decide (podOfCore c = p)
  let s := s.revokeAll fun _ _ x =>
    x.cores.any mine || x.pages.any fun q => match regionOf q.1 with | .scratch c _ => mine c | _ => false
  let s := s.resetCores (coresOfPod p)
  let x := s.pod p
  let s := s.setPod p { x with
    state := 0, latched := false, lreq := false, ready := false, forced := false, outs := 0, floorup := 0, vdd := x.targetv }
  let s := s.podPortsGo
  let s := s.raise 0x505 srcDieM (us / 1000) 0 2
  s.raise 0x506 srcDieM 1 0 p

/-- R476, R551: a DIE_RESET or POD_RESET is accepted with the time it will take. -/
def State.acceptReset (s : State) (m us : Nat) : State := (s.acceptTick m).holdCmd m [us]

/-- DIE_RESET. -/
def execDieReset (m : Fin 320) (us : BitVec 32) (s : State) : Out :=
  .next (s.serve m.val 0x0701 [(8, 9)] .pf fun s _ =>
    if (s.mbx m.val).at 8 1 > 3 then s.respond m.val .badparam 8 [] else s.acceptReset m.val us.toNat)

/-- POD_RESET. -/
def execPodReset (m : Fin 320) (us : BitVec 32) (s : State) : Out :=
  .next (s.serve m.val 0x0702 [(8, 9)] .pf fun s _ =>
    if (s.mbx m.val).at 8 1 > 31 then s.respond m.val .badparam 8 [] else s.acceptReset m.val us.toNat)

/-- R551, R566: DIE_RESET or POD_RESET at its tick boundary; refused during a life-cycle transition, and a die reset while a route epoch
is BUSY. -/
def State.applyReset (s : State) (m : Nat) (die : Bool) : State :=
  let x := s.mbx m
  let us := x.arg.headD 0
  if s.mgmt.lc.trans || (die && (List.range 4).any fun i => (s.switch i).busy) then s.respond m .state 0 []
  else (if die then s.dieReset (x.at 8 1) us else s.podReset (x.at 8 1) us).respond m .ok 0 [rf 8 4 us]

end Sys2Proof.Machine
end

