-- ==== Sys2Proof/Machine/Boot.lean ====
section
/-! DEFINITION. The general mailbox commands about the module, firmware update and the life cycle (R477, R556-R563). -/

namespace Sys2Proof.Machine

/-! ### IDENTITY, TIME_CORRELATE, BOOT_STATUS -/

/-- R477: "ET4-M1024-G16" in ASCII, zero-padded to 16 bytes. -/
def partName : List Byte :=
  [0x45, 0x54, 0x34, 0x2D, 0x4D, 0x31, 0x30, 0x32, 0x34, 0x2D, 0x47, 0x31, 0x36, 0, 0, 0]

/-- The running Luami image. -/
def Boot.luami (b : Boot) : FwImage := (b.slotOf b.slot).img

/-- IDENTITY. -/
def execIdentity (m : Fin 320) (s : State) : Out :=
  .next (s.serve m.val 0x0001 [] .any fun s _ =>
    s.respond m.val .ok 0 [(8, partName), rf 24 1 0x11, rf 25 1 s.mgmt.lc.state.toNat, rf 26 2 s.moduleId.toNat,
      rf 28 4 s.mgmt.boot.luami.version.toNat, rf 32 4 Config.germVersion.toNat, rf 40 8 s.mgmt.lc.serial.toNat])

/-- TIME_CORRELATE: TIME when the doorbell was accepted, and now. -/
def execTimeCorrelate (m : Fin 320) (s : State) : Out :=
  .next (s.serve m.val 0x0002 [] .any fun s _ =>
    s.respond m.val .ok 0 [rf 8 8 (s.mbx m.val).since.toNat, rf 16 8 (s.timeOf 4).toNat])

/-- BOOT_STATUS. -/
def execBootStatus (m : Fin 320) (s : State) : Out :=
  .next (s.serve m.val 0x0700 [] .any fun s _ =>
    let b := s.mgmt.boot
    s.respond m.val .ok 0 [rf 8 4 b.bootn.toNat, rf 12 1 b.cause.toNat, rf 13 1 (b2n b.slot), rf 14 1 (b2n b.fallback + 2 * b2n b.replay),
      rf 16 4 b.bootms.toNat, rf 20 4 b.a.img.version.toNat, rf 24 4 b.b.img.version.toNat, rf 28 2 b.roll.toNat,
      rf 32 4 b.runtime.version.toNat])

/-! ### Firmware (R560, R563) -/

/-- R563: where the runtime's pages lie: the physical addresses of the first `n` pages from `va`, `.pageIn` for a page that must be paged in
first, or the fault. -/
def State.loadPages (s : State) (d : DomNo) (va : Nat) : Nat → Except Tr (List Nat)
  | 0 => .ok []
  | n + 1 =>
    match s.translate d va .write with
    | .ok pa _ => (s.loadPages d (va + 65536) n).map fun l => pa :: l
    | t => .error t

/-- RUNTIME_LOAD: the runtime's bytes are written into the domain's pages. -/
def execRuntimeLoad (m : Fin 320) (s : State) : Out :=
  .next (s.serve m.val 0x0703 [(8, 10), (16, 32)] (.dom 8) fun s d =>
    let va := (s.mbx m.val).at 16 8
    let img := s.mgmt.boot.runtime
    let len := img.bytes.length
    if va % 65536 ≠ 0 || 2 ^ 57 ≤ va then s.respond m.val .badparam 16 []
    else if (s.mbx m.val).at 24 8 < len then s.respond m.val .nores 0 []
    else
      match s.loadPages d va ((len + 65535) / 65536) with
      | .error .pageIn => s
      | .error _ => s.respond m.val .refused 563 []
      | .ok pas =>
        let s := pas.zipIdx.foldl (fun (s : State) e => s.writeMem e.1 ((img.bytes.drop (65536 * e.2)).take 65536)) s
        s.respond m.val .ok 0 [rf 8 8 len, rf 16 4 img.version.toNat])

/-- R560: the object that holds the staged image of a component goes. -/
def State.dropStaged (s : State) (comp : Nat) : State :=
  match tget none s.mgmt.boot.staged comp with
  | some x => (s.modGrn fun g => { g with objs := tdel x.1 g.objs }).modBoot fun b => { b with staged := tdel comp b.staged }
  | none => s

/-- R560: a verified image of `len` bytes enters a granary object of kind 6; none when there is no room. -/
def State.putStaged (s : State) (comp len : Nat) (img : FwImage) : Option State :=
  let s := s.dropStaged comp
  let cap := max 4096 ((len + 4095) / 4096 * 4096)
  let r := s.fresh
  match findFrom 0xFFFFFFFE (fun i => !s.mgmt.grn.usedIds.contains (i + 1)) (s.mgmt.grn.usedIds.length + 1) r.2.toNat with
  | none => none
  | some i =>
    if s.mgmt.grn.readonly || s.mgmt.grn.free < cap then none
    else
      let data := memPut [] 0 img.bytes
      let o : GrnObj := { GrnObj.none with kind := 6, cap := cap, gen := 1, clen := len, ctime := s.timeOf 4, data := data, opened := data }
      let s := r.1.modGrn fun g => { g with objs := tset GrnObj.none g.objs (i + 1) o, usedIds := g.usedIds ++ [i + 1] }
      some ((s.wear len).modBoot fun b => { b with staged := tset none b.staged comp (some (i + 1, img)) })

/-- R560: a staged image passes verification: its form, signature and rollback index. -/
def State.imageOk (s : State) (i : FwImage) : Bool := i.formed && i.signed && decide (s.mgmt.boot.roll.toNat ≤ i.rollIdx.toNat)

/-- R560: the latest verified staged image of a component, while its object exists. -/
def State.stagedImage (s : State) (comp : Nat) : Option FwImage :=
  match tget none s.mgmt.boot.staged comp with
  | some x => if s.objThere x.1 then some x.2 else none
  | none => none

/-- R560: an image is activated: Luami's goes to the slot that is not running, with a trial owed; a runtime is in use from now on. -/
def State.activate (s : State) (comp : Nat) (i : FwImage) : State :=
  (s.modBoot fun b => if comp = 0 then b.setSlot (!b.slot) ⟨i, true, true⟩ else { b with runtime := i }).raise
    0x504 srcDieM comp 0 i.version.toNat

/-- FW_STAGE (R560): `img` is what the host window holds; none is a PCIe failure, as is a link that does not run (R45). -/
def execFwStage (m : Fin 320) (img : Option FwImage) (s : State) : Out :=
  .next (s.serve m.val 0x0704 [(8, 9), (10, 13), (16, 32)] (.pfDom 10) fun s d =>
    let x := s.mbx m.val
    let comp := x.at 8 1
    let len := x.at 24 8
    let w := tget HostWin.none (s.dom d).wins (x.at 12 1)
    if comp > 1 then s.respond m.val .badparam 8 []
    else if x.at 12 1 > 15 then s.respond m.val .badparam 12 []
    else if len > 64 * 2 ^ 20 then s.respond m.val .badparam 24 []
    else if w.len < x.at 16 8 + len || !w.rd then s.respond m.val .refused 311 []
    else if !s.mgmt.grn.ready then s.respond m.val .state 0 []
    else
      match (if s.pcieStands then none else img) with
      | none => s.respond m.val .incomplete 0 []
      | some i =>
        if i.bytes.length ≠ len || !s.imageOk i then s.respond m.val .refused 560 []
        else
          match s.putStaged comp len i with
          | none => s.respond m.val .nores 0 []
          | some s => s.respond m.val .ok 0 [rf 8 4 i.version.toNat, rf 12 2 i.rollIdx.toNat])

/-- FW_ACTIVATE (R560). -/
def execFwActivate (m : Fin 320) (s : State) : Out :=
  .next (s.serve m.val 0x0705 [(8, 9)] .pf fun s _ =>
    let comp := (s.mbx m.val).at 8 1
    if comp > 1 then s.respond m.val .badparam 8 []
    else
      match s.stagedImage comp with
      | none => s.respond m.val .state 8 []
      | some i => (s.activate comp i).respondOk m.val)

/-! ### Life cycle (R556-R559) -/

/-- Apply `f` to the life cycle. -/
def State.modLc (s : State) (f : LifeCycle → LifeCycle) : State := s.modMgmt fun g => { g with lc := f g.lc }

/-- R554, R556: whether JTAG debug access is open. -/
def LifeCycle.debugOpen (l : LifeCycle) : Bool := l.state == 0 || l.state == 3

/-- LC_CHALLENGE: a fresh nonce of 32 bytes; an earlier one is no longer valid. -/
def execLcChallenge (m : Fin 320) (s : State) : Out :=
  .next (s.serve m.val 0x0706 [] .pf fun s _ =>
    let r := (List.range 4).foldl (fun (p : State × List Byte) _ =>
      let r := p.1.fresh
      (r.1, p.2 ++ leBytes 8 r.2.toNat)) (s, [])
    (r.1.modLc fun l => { l with nonce := some r.2, token := [] }).respond m.val .ok 0 [(8, r.2)])

/-- LC_TOKEN: one half of the signature over the latest nonce. -/
def execLcToken (m : Fin 320) (s : State) : Out :=
  .next (s.serve m.val 0x0707 [(8, 9), (16, 64)] .pf fun s _ =>
    let part := (s.mbx m.val).at 8 1
    if part > 1 then s.respond m.val .badparam 8 []
    else if s.mgmt.lc.nonce.isNone then s.respond m.val .state 0 []
    else (s.modLc fun l => { l with token := tput part (bytesAt (s.mbx m.val).cap 16 48) l.token }).respondOk m.val)

/-- R557: the signature that awaits use. -/
def LifeCycle.loaded (l : LifeCycle) : Option (List Byte) := if l.token.length = 2 then some (tget [] l.token 0 ++ tget [] l.token 1) else none

/-- R557: a loaded token authorises a target state. -/
def LifeCycle.tokenOk (l : LifeCycle) (target : Nat) : Bool :=
  match l.loaded, l.nonce with
  | some sig, some n => Config.lcTokenOk l.serial target n sig
  | _, _ => false

/-- R557: the allowed transitions with their needs. -/
def LifeCycle.allows (l : LifeCycle) (target : Nat) : Bool :=
  match l.state.toNat, target with
  | 0, 1 => l.tokenOk 1
  | 1, 2 => l.modid.isSome
  | 2, 1 => true
  | 2, 3 => l.tokenOk 3
  | 3, 2 => true
  | f, 4 => decide (f ≠ 4)
  | _, _ => false

/-- R558 step 2: every key is destroyed, and with it every object, Luami's own among them. -/
def State.eraseAll (s : State) : State :=
  let s := (s.mgmt.grn.keys.map Prod.fst).foldl (fun s k => s.keyErase k 0) s
  let s := s.eraseObjects fun _ => true
  (s.modGrn fun g => { g with binds := [] }).modBoot fun b => { b with staged := [] }

/-- LC_TRANSITION (R558): the module reset begins at the next tick or idle step. -/
def execLcTransition (m : Fin 320) (s : State) : Out :=
  .next (s.serve m.val 0x0708 [(8, 9)] .pf fun s _ =>
    let target := (s.mbx m.val).at 8 1
    let old := s.mgmt.lc.state
    if target > 4 then s.respond m.val .badparam 8 []
    else if !s.mgmt.lc.allows target then s.respond m.val .refused 557 []
    else
      let s := { s with pmc := { s.pmc with avail := false } }
      let s := (s.revokeAll fun _ _ _ => true).eraseAll
      let s := s.modEvr fun e => { e with seq := 0 }
      let s := if target = 4 then s.modEvr fun e => { e with aos := [], aosNor := [] } else s
      let s := s.modLc fun l => { l with state := BitVec.ofNat 3 target, trans := true, nonce := none, token := [], left := some old }
      (s.respondOk m.val).modBoot fun b => { b with due := some 6 })

/-- LC_PROVISION (R559): only in PROVISIONED; the id takes effect at the next boot. -/
def execLcProvision (m : Fin 320) (s : State) : Out :=
  .next (s.serve m.val 0x0709 [(8, 10)] .pf fun s _ =>
    let id := (s.mbx m.val).at 8 2
    if id > 4095 then s.respond m.val .badparam 8 []
    else if s.mgmt.lc.state ≠ 1 then s.respond m.val .state 0 []
    else (s.modLc fun l => { l with modid := some (BitVec.ofNat 12 id) }).respondOk m.val)

end Sys2Proof.Machine
end

