-- ==== Sys2Proof/Machine/Board.lean ====
section
/-! DEFINITION. The input supply, the JTAG TAP, LEDs, and the side-band endpoints (R494, R554, R555, R567-R583). -/

namespace Sys2Proof.Machine

/-! ### The input supply (R568, R569, R573-R575) -/

/-- COLD_POWER_ON (R541, R573): from lockout; the always-on store holds what the NOR had. -/
def execColdPowerOn (s : State) : Out :=
  .next (
    if s.mgmt.boot.state ≠ .lockout || s.mgmt.opened then s
    else
      let s := s.moduleReset 0
      let s := s.modEvr fun e => { e with aos := e.aosNor }
      let s := s.modBoot fun b => { b with lowVin := false }
      s.modMgmt fun g => { g with side := Sideband.reset, jtag := 0x01 })

/-- POWER_LOSS (R568, R574): V_IN falls below 38 V; `holdMs` is how long the hold-up ran. -/
def execPowerLoss (holdMs : BitVec 8) (s : State) : Out :=
  .next (
    match s.mgmt.boot.state with
    | .lockout => s
    | _ =>
      let s := s.useHoldup holdMs.toNat
      let s := if bit s.mgmt.pwr.causes 4 then s else s.aosWrite 0x14E 79 (detWord (srcSensor 79) 0 1)
      (s.powerDown.modBoot fun b => { b with lowVin := true }).alertCause 4 true)

/-- INPUT_LOCKOUT (R568): every rail is off; the always-on store lives on in its NOR copy. -/
def execInputLockout (s : State) : Out :=
  .next (
    match s.mgmt.boot.state with
    | .lockout => s
    | _ =>
      let s := s.powerDown.modBoot fun b => { b with state := .lockout, lowVin := true }
      let s := s.modEvr fun e => { e with aos := e.aosNor }
      s.modMgmt fun g => { g with side := Sideband.reset, jtag := 0x01 })

/-- INPUT_SWITCH_OPEN (R569): the bus decays; power loss and lockout follow as V_IN passes their levels. -/
def execInputSwitchOpen (s : State) : Out := .next (s.modMgmt fun g => { g with opened := true })

/-- INPUT_SWITCH_CLOSE (R569). -/
def execInputSwitchClose (s : State) : Out := .next (s.modMgmt fun g => { g with opened := false })

/-! ### LEDs (R581) -/

/-- What a LED shows. -/
inductive Led where
  | off | slow | fast | on
  deriving DecidableEq, Repr

/-- R581: LED0_N and LED1_N. -/
def State.leds (s : State) : Led × Led :=
  match s.mgmt.boot.state with
  | .lockout => (.off, .off)
  | .heldOff => (.fast, .on)
  | .recovery => (.slow, .fast)
  | _ => if s.booted then (.on, if s.alert then .on else .off) else (.slow, .off)

/-! ### JTAG (R583) -/

/-- R583: the instruction that a code loads: one whose condition does not hold, or that is not listed, becomes BYPASS. -/
def State.tapAccepts (s : State) (code : BitVec 8) : BitVec 8 :=
  let open_ := s.mgmt.lc.debugOpen && s.mgmt.boot.state != .heldOff
  if jtagPins code then (if s.mgmt.boot.perst then code else 0xFF)
  else if code = 0x01 || code = 0x02 then code
  else if 0x80 ≤ code.toNat && code.toNat ≤ 0xFE then (if open_ then code else 0xFF)
  else 0xFF

/-- Update-IR with a code; the TAP is on the always-on rail. -/
def State.tapLoad (s : State) (code : BitVec 8) : State :=
  if s.mgmt.boot.state = .lockout then s else s.modMgmt fun g => { g with jtag := s.tapAccepts code }

/-- R583: what IDCODE shifts out for stepping B1. -/
def tapIdcode : W32 := 0x10E4025B

/-- EXTEST. -/
def execExtest (s : State) : Out := .next (s.tapLoad 0x00)

/-- IDCODE. -/
def execIdcode (s : State) : Out := .next (s.tapLoad 0x01)

/-- SAMPLE/PRELOAD. -/
def execSamplePreload (s : State) : Out := .next (s.tapLoad 0x02)

/-- HIGHZ. -/
def execHighz (s : State) : Out := .next (s.tapLoad 0x04)

/-- CLAMP. -/
def execClamp (s : State) : Out := .next (s.tapLoad 0x05)

/-- EXTEST_PULSE. -/
def execExtestPulse (s : State) : Out := .next (s.tapLoad 0x08)

/-- EXTEST_TRAIN. -/
def execExtestTrain (s : State) : Out := .next (s.tapLoad 0x09)

/-- Debug access: the instruction becomes current where its condition holds; what the debug unit then does is not in the spec. -/
def execDebugAccess (code : BitVec 8) (s : State) : Out := .next (s.tapLoad code)

/-- BYPASS. -/
def execBypass (s : State) : Out := .next (s.tapLoad 0xFF)

/-- TRST_N_ASSERT (R579): the TAP is held in reset, where IDCODE is current (log entry 42). -/
def execTrstNAssert (s : State) : Out := .next (s.modMgmt fun g => { g with jtag := 0x01 })

/-! ### Side-band endpoints (R494) -/

/-- A path's number. -/
def sideNum (p : SidePath) : Nat :=
  match p with
  | .doe => 0
  | .i3c => 1
  | .vdm => 2

/-- The latest reply on a path; none when the module does not answer. -/
def State.sideReply (s : State) (p : SidePath) (r : Option Reply) : State :=
  s.modMgmt fun g => { g with side := { g.side with replies := tset none g.side.replies (sideNum p) r } }

/-- R494: Luami serves side-band requests once it runs; over I3C the target needs its dynamic address. -/
def State.sideUp (s : State) (p : SidePath) : Bool :=
  s.mgmt.boot.state == .running && ((sideNum p) != 1 || s.mgmt.side.i3c.isSome)

/-- Serve a side-band request. -/
def State.sideServe (s : State) (p : SidePath) (f : State → State × Reply) : State :=
  if s.sideUp p then let r := f s; r.1.sideReply p (some r.2) else s.sideReply p none

/-- The state of SPDM negotiation on a path (log entry 51). -/
def State.spdmAt (s : State) (p : SidePath) : Nat := tget 0 s.mgmt.side.spdm (sideNum p)

/-- Set it. -/
def State.setSpdm (s : State) (p : SidePath) (n : Nat) : State :=
  s.modMgmt fun g => { g with side := { g.side with spdm := tset 0 g.side.spdm (sideNum p) n } }

/-- An SPDM request that is in order from negotiation state `n` on; another is an error (log entry 51). -/
def State.spdmServe (s : State) (p : SidePath) (n : Nat) (f : State → State × Reply) : State :=
  s.sideServe p fun s => if s.spdmAt p < n then (s, .error) else f s

/-- R555: the certificate chain; none in MANUFACTURE (R556). -/
def State.chain (s : State) : Option (List Byte) :=
  if s.mgmt.lc.state = 0 then none else some (Config.certChain s.mgmt.lc.serial s.mgmt.boot.luami.bytes)

/-- R554: what an image's measurement covers. -/
def imageWords (i : FwImage) : List Nat := [i.version.toNat, i.rollIdx.toNat, i.bytes.length]

/-- R554: the digest of measurement `i`; fixed until the next boot. -/
def State.measurement (s : State) (i : Nat) : Option (List Byte) :=
  let l := { s.mgmt.lc with state := s.mgmt.lc.left.getD s.mgmt.lc.state }
  match i with
  | 1 => some (Config.sha384 [1, Config.germVersion.toNat] [])
  | 2 => some (Config.sha384 (2 :: imageWords s.mgmt.boot.luami) s.mgmt.boot.luami.bytes)
  | 3 => some (Config.sha384 (3 :: imageWords s.mgmt.boot.measured) s.mgmt.boot.measured.bytes)
  | 4 => some (Config.sha384 [4, l.state.toNat, s.moduleId.toNat, l.serial.toNat] [])
  | 5 => some (Config.sha384 [5, b2n l.debugOpen] [])
  | _ => none

/-- R555: a signature by the alias key over a transcript with the responder's own nonce. -/
def State.sign (s : State) (transcript : List Byte) : State × List Byte :=
  let r := s.fresh
  (r.1, Config.aliasSign s.mgmt.lc.serial s.mgmt.boot.luami.bytes (transcript ++ leBytes 8 r.2.toNat))

/-- GET_VERSION: SPDM 1.2. -/
def execGetVersion (p : SidePath) (s : State) : Out := .next (s.sideServe p fun s => (s.setSpdm p 1, .version 2))

/-- GET_CAPABILITIES. -/
def execGetCapabilities (p : SidePath) (s : State) : Out := .next (s.spdmServe p 1 fun s => (s.setSpdm p 2, .capabilities))

/-- NEGOTIATE_ALGORITHMS: ECDSA P-384 with SHA-384. -/
def execNegotiateAlgorithms (p : SidePath) (s : State) : Out := .next (s.spdmServe p 2 fun s => (s.setSpdm p 3, .algorithms))

/-- GET_DIGESTS. -/
def execGetDigests (p : SidePath) (s : State) : Out :=
  .next (s.spdmServe p 3 fun s => (s, match s.chain with | some c => .digests (Config.sha384 [] c) | none => .error))

/-- GET_CERTIFICATE: a part of the chain. -/
def execGetCertificate (p : SidePath) (off len : BitVec 16) (s : State) : Out :=
  .next (s.spdmServe p 3 fun s =>
    (s, match s.chain with
        | some c => if c.length ≤ off.toNat then .error else .certificate ((c.drop off.toNat).take len.toNat)
        | none => .error))

/-- CHALLENGE (R555): signed with the alias key. -/
def execChallenge (p : SidePath) (nonce : List Byte) (s : State) : Out :=
  .next (s.spdmServe p 3 fun s =>
    if s.chain.isNone || nonce.length ≠ 32 then (s, .error)
    else let r := s.sign nonce; (r.1, .challenge r.2))

/-- R554: the measurements that an index asks for: all with 0xFF. -/
def State.measured (s : State) (index : Nat) : List (Nat × List Byte) :=
  (if index = 0xFF then [1, 2, 3, 4, 5] else [index]).filterMap fun i => (s.measurement i).map fun d => (i, d)

/-- GET_MEASUREMENTS (R554): index 0 asks only how many there are; signed when the request carries a nonce. -/
def execGetMeasurements (p : SidePath) (index : BitVec 8) (nonce : Option (List Byte)) (s : State) : Out :=
  .next (s.spdmServe p 3 fun s =>
    let b := if index = 0 then [(0, [5])] else s.measured index.toNat
    if b.isEmpty then (s, .error)
    else
      match nonce with
      | none => (s, .measurement b [])
      | some n =>
        if n.length ≠ 32 || s.chain.isNone then (s, .error)
        else let r := s.sign (n ++ b.flatMap fun e => e.2); (r.1, .measurement b r.2))

/-! ### PLDM and MCTP (R494, R560) -/

/-- R494: what a PLDM sensor reads: watts, 0.1 V, degrees, 0.01 L/min, a mask or a state code. -/
def State.pldmRead (s : State) (x : PldmSensor) : Option Int :=
  let w := s.mgmt.pwr
  let deg (l : List Nat) : Option Int := (s.hottest l).map degrees
  match x with
  | .power => some w.pwr.toNat
  | .vin => some w.vin.toNat
  | .podTj d => deg ((List.range 64).map (64 * d.val + ·))
  | .hbm => deg ((List.range 16).map (256 + ·))
  | .inlet => deg [322]
  | .outlet => deg [323]
  | .flow => some w.flow.toNat
  | .causes => some (w.causes ||| w.unacked).toNat
  | .lifeCycle => some s.mgmt.lc.state.toNat

/-- PLDM runs over MCTP only. -/
def overMctp (p : SidePath) : Bool := sideNum p != 0

/-- PLDM_MONITOR_REQUEST. -/
def execPldmMonitorRequest (p : SidePath) (sensor : PldmSensor) (s : State) : Out :=
  .next (if overMctp p then s.sideServe p fun s => (s, .sensor (s.pldmRead sensor)) else s)

/-- R560: PLDM stages and activates through the steps of FW_STAGE and FW_ACTIVATE. -/
def State.pldmStep (s : State) (x : PldmStep) : State × Reply :=
  match x with
  | .stage comp img =>
    if !s.mgmt.grn.ready || img.bytes.length > 64 * 2 ^ 20 || !s.imageOk img then (s, .firmware false)
    else
      match s.putStaged comp.val img.bytes.length img with
      | some s => (s, .firmware true)
      | none => (s, .firmware false)
  | .activate comp =>
    match s.stagedImage comp.val with
    | some i => (s.activate comp.val i, .firmware true)
    | none => (s, .firmware false)

/-- PLDM_FIRMWARE_UPDATE. -/
def execPldmFirmwareUpdate (p : SidePath) (x : PldmStep) (s : State) : Out :=
  .next (if overMctp p then s.sideServe p fun s => s.pldmStep x else s)

/-- ENTDAA: the target takes a dynamic address; the held-off module does not respond (R575). -/
def execEntdaa (addr : BitVec 7) (s : State) : Out :=
  .next (
    match s.mgmt.boot.state with
    | .lockout => s
    | .heldOff => s
    | _ => s.modMgmt fun g => { g with side := { g.side with i3c := some addr } })

/-- MCTP_CONTROL_MESSAGE: Set Endpoint ID with an id, else Get Endpoint ID; the null and broadcast ids are refused (log entry 51). -/
def execMctpControlMessage (p : SidePath) (eid : Option (BitVec 8)) (s : State) : Out :=
  .next (
    if overMctp p then s.sideServe p fun s =>
      match eid with
      | none => (s, .control (tget 0 s.mgmt.side.eids (sideNum p)))
      | some e =>
        if e = 0 || e = 0xFF then (s, .error)
        else (s.modMgmt fun g => { g with side := { g.side with eids := tset 0 g.side.eids (sideNum p) e } }, .control e)
    else s)

end Sys2Proof.Machine
end

