-- ==== Sys2Proof/Machine/Host.lean ====
section
/-! DEFINITION. The PCIe functions: BAR0, BAR2, function-level reset, and the mailbox commands of the host paths (R477,
R480-R483). -/

namespace Sys2Proof.Machine

/-! ### BAR0 (R480, R481) -/

/-- R480: the size of a function's BAR0. -/
def bar0Size (f : Nat) : Nat := if f = 0 then 2 ^ 26 else 2 ^ 16

/-- R480: an offset of BAR0 that holds no register. -/
def bar0Hole (off : Nat) : Bool :=
  !(decide (off < 0x90) || (decide (0x7000 ≤ off) && decide (off < 0x7100)) || (decide (0x8000 ≤ off) && decide (off < 0x10000)))

/-- R472, R481: the bits of the 64-bit word at an offset of BAR0 that are RO or RSVD. -/
def bar0Fixed (off : Nat) : W64 :=
  if off < 0x40 then 0
  else if off < 0x80 then BitVec.allOnes 64
  else if off < 0x88 then 0xFFFFFFFFFFFFFFF2
  else if off < 0x90 then 0xFFFFFFFFFFFFFFFE
  else if off < 0x7100 then BitVec.allOnes 64
  else if off % 16 < 8 then 0
  else 0xFFFFFFFE00000000

/-- R481: a write at a hole, or with a non-zero RO or RSVD bit. -/
def bar0Harmless (off : Nat) (v : W64) : Bool := bar0Hole off || bar0Fixed off &&& v != 0

/-- R481: event 0x182. -/
def State.bar0Event (s : State) (f off : Nat) : State := s.raise 0x182 srcDieM f (s.func f).dom off

/-- A 64-bit write of the MSI-X table: an entry unmasked while its pending bit is set is sent. -/
def State.msixWrite (s : State) (f off : Nat) (v : W64) : State :=
  let x := s.func f
  let i := (off - 0x8000) / 16
  let e := tget msixMasked x.msix i
  let e' : W128 := if off % 16 < 8 then setFld e 63 0 v.toNat else setFld e 127 64 v.toNat
  let s := s.setFunc f { x with msix := tset msixMasked x.msix i e' }
  if !bit e' 96 && x.pba.contains i then
    (s.setFunc f { s.func f with pba := x.pba.filter fun j => decide (j ≠ i) }).msix f i
  else s

/-- R472, R473: an ordinary 64-bit write of a mailbox register at an offset within the mailbox; `rw` are the bits of MBX_CFG that
are RW. -/
def State.mbxWrite (s : State) (m off : Nat) (v rw : W64) : State :=
  let x := s.mbx m
  if off < 0x40 then s.setMbx m { x with cmd := memPut x.cmd (off / 8 * 8) (leBytes 8 v.toNat) }
  else if off / 8 = 0x10 then
    let s := s.setMbx m { x with done := x.done && !bit v 2, ovr := x.ovr && !bit v 3 }
    if bit v 0 then s.doorbell m else s
  else if off / 8 = 0x11 then s.setMbx m { x with cfg := v &&& rw }
  else s

/-- A 64-bit host write of BAR0 (R480, R481). A non-zero RSVD bit is the event and no write of R481, which is particular to the host's
accesses, and not R6's write without an event (log entry 133); before the end of boot it is discarded (R545). -/
def State.hostWrite (s : State) (f off : Nat) (v : W64) : State :=
  if !s.hostUp || decide (bar0Size f ≤ off) then s
  else if bar0Harmless off v then s.bar0Event f off
  else if off < 0x90 then s.mbxWrite f off v 1
  else if 0x8000 ≤ off then s.msixWrite f off v
  else s

/-- BAR0_HOLE_ACCESS (R481): a read or a write of a hole, or a write with a non-zero RO or RSVD bit. -/
def execBar0HoleAccess (f : Fin 64) (off : BitVec 26) (write : Option (BitVec 64)) (s : State) : Out :=
  .next (
    if !s.hostUp || decide (bar0Size f.val ≤ off.toNat) then s
    else
      match write with
      | none => if bar0Hole off.toNat then s.bar0Event f.val off.toNat else s
      | some v => if bar0Harmless off.toNat v then s.bar0Event f.val off.toNat else s)

/-! ### BAR2 (R482) -/

/-- R482: an access that fails reads zero or is discarded, and records 0x183. -/
def State.bar2Fail (s : State) (f off n : Nat) (read : Bool) : State :=
  let s := s.raise 0x183 srcDieM f (s.func f).dom off
  if read then s.setFunc f { s.func f with rdata := List.replicate n 0 } else s

/-- R482, R514: count a host access in the PCIe monitor and counters (log entry 47). -/
def State.pcieCount (s : State) (dir n : Nat) : State :=
  let s := (s.bwAdd 4 0 dir n).countDie 4 0x46 0 1
  if dir = 0 then s.countDie 4 0x47 0 1 else s

/-- R482: a host access through BAR2; one that meets a non-resident page (R142) or a parked pod (R486) waits. -/
def State.bar2 (s : State) (f : Nat) (acc : HostAcc) : State :=
  if !s.hostUp then s
  else
    let x := s.func f
    let off := match acc with | .read o _ => o | .write o _ => o
    let n := match acc with | .read _ n => n | .write _ b => b.length
    let isRead := match acc with | .read _ _ => true | .write _ _ => false
    match x.win with
    | none => s.bar2Fail f off n isRead
    | some base =>
      if x.dom = 0 then s.bar2Fail f off n isRead
      else
        match s.trRange x.dom (base + off) n (if isRead then .read else .write) with
        | .fault _ _ _ => s.bar2Fail f off n isRead
        | .pageIn _ => s
        | .ok ps =>
          if ps.any fun p => !isMemory p.1 then s.bar2Fail f off n isRead
          else if s.piecesWait ps then s
          else
            match acc with
            | .read _ _ =>
              let r := s.piecesRead ps 0 false
              if ps.any fun p => (List.range p.2.1).any fun i => isHbm (p.1 + i) && (r.1.poisoned (p.1 + i) || s.readsDead (lineOf (p.1 + i)))
              then r.1.bar2Fail f off n true
              else
                let s := r.1.pcieCount 0 n
                s.setFunc f { s.func f with rdata := r.2 }
            | .write _ b => (s.piecesWrite ps b 0 false).pcieCount 1 n

/-- BAR2_ACCESS (R482): `e` is what the check codes of memory find. -/
def execBar2Access (f : Fin 64) (acc : HostAcc) (e : ErrMap) (s : State) : Out := .next (s.finding e fun s => s.bar2 f.val acc)

/-! ### Function-level reset (R482, R545) -/

/-- R482: the window, IRQ bindings, MBX_CFG and MSI-X state go; a command in progress completes with its response discarded; the
bound domain stays. -/
def State.flr (s : State) (f : Nat) : State :=
  let x := s.mbx f
  let s := s.setMbx f { x with cfg := 0, drop := x.busy }
  s.setFunc f { Func.reset with dom := (s.func f).dom }

/-- FUNCTION_LEVEL_RESET. -/
def execFunctionLevelReset (f : Fin 64) (s : State) : Out := .next (s.flr f.val)

/-! ### Mailbox commands (R477, R482) -/

/-- FUNC_BIND: a VF's bound domain; 0 unbinds. -/
def execFuncBind (m : Fin 320) (s : State) : Out :=
  .next (s.serve m.val 0x0105 [(8, 9), (10, 12)] .pf fun s _ =>
    let x := s.mbx m.val
    let f := x.at 8 1
    let d := x.at 10 2
    if f = 0 || f > 63 then s.respond m.val .badparam 8 []
    else if d > 4095 then s.respond m.val .badparam 10 []
    else if d ≠ 0 && !s.live d then s.respond m.val .state 10 []
    else (s.setFunc f { s.func f with dom := d }).respondOk m.val)

/-- BAR2_WINDOW: through the PF it also names the PF's bound domain. -/
def execBar2Window (m : Fin 320) (s : State) : Out :=
  .next (s.serve m.val 0x0106 [(8, 10), (16, 24)] (.domHost 8) fun s d =>
    let va := (s.mbx m.val).at 16 8
    if va = 2 ^ 64 - 1 then (s.setFunc m.val { s.func m.val with dom := d, win := none }).respondOk m.val
    else if va % 65536 ≠ 0 || va ≥ 2 ^ 57 then s.respond m.val .badparam 16 []
    else (s.setFunc m.val { s.func m.val with dom := d, win := some va }).respondOk m.val)

/-- HOST_WINDOW (R311): a domain's host window; length 0 removes it. -/
def execHostWindow (m : Fin 320) (s : State) : Out :=
  .next (s.serve m.val 0x0107 [(8, 12), (16, 32)] (.dom 8) fun s d =>
    let x := s.mbx m.val
    let i := x.at 10 1
    let f := x.at 11 1
    let len := x.at 24 8
    if i > 15 then s.respond m.val .badparam 10 []
    else if f > 3 then s.respond m.val .badparam 11 []
    else
      let w : HostWin := if len = 0 then HostWin.none else ⟨x.at 16 8, len, f.testBit 0, f.testBit 1⟩
      (s.modDom d fun y => { y with wins := tset HostWin.none y.wins i w }).respondOk m.val)

/-- IRQ_BIND (R482, R483): it acts on the function whose mailbox it came through. -/
def execIrqBind (m : Fin 320) (s : State) : Out :=
  .next (s.serve m.val 0x010A [(8, 13)] .any fun s _ =>
    let x := s.mbx m.val
    let v := x.at 8 2
    if m.val ≥ 64 || (m.val ≠ 0 && decide ((s.func m.val).dom = 0)) then s.respond m.val .noauth 0 []
    else if v < 16 || v > 2047 then s.respond m.val .badparam 8 []
    else if x.at 12 1 > 1 then s.respond m.val .badparam 12 []
    else if (s.func m.val).dom = 0 then s.respond m.val .state 0 []
    else
      let o := if x.at 12 1 = 1 then none else some (x.at 10 2)
      (s.setFunc m.val { s.func m.val with irqs := tset none (s.func m.val).irqs v o }).respondOk m.val)

end Sys2Proof.Machine
end

