-- ==== Sys2Proof/Machine/Interrupt.lean ====
section
/-! DEFINITION. Fault entry, interrupt entry, FRET, and the core's own interrupt sources (chapter 06). -/

namespace Sys2Proof.Machine

/-- FAULT_ENTRY (R151): the strand's next instruction raises the fault `code` with its address and detail, for every
reason a word of the instruction stream gives (R7, R107, R108): it is an instruction that issues like any other. A code that R147 does
not list, or lists as a status, is no fault and nothing happens. -/
def execFaultEntry (w : Site) (code : BitVec 8) (addr info : BitVec 64) (s : State) : Out :=
  .next (
    match vectorOf code.toNat with
    | none => s
    | some _ => s.issue w [] fun s => .fault s ⟨code.toNat, addr, info⟩)

/-- R154: whether a call frame opened since entry to the running bank is still in use. -/
def Strand.frameOpen (t : Strand) : Bool := t.frames.any fun f => decide (f.opened = t.cur)

/-- R154: the lower bank after FRET: PC from RPC, GPROG, and with COMMIT the registers (h15 and the loop registers are
never taken). -/
def Bank.fret (lower run : Bank) (rpc : VAddr) (commit : Bool) : Bank :=
  if commit then
    { lower with pc := rpc, gprog := run.gprog, g := run.g, v := run.v, h := tset 0 run.h 15 (lower.readH 15) }
  else { lower with pc := rpc, gprog := run.gprog }

/-- R154: leave the running shadow bank. -/
def Strand.fret (t : Strand) (commit : Bool) : Strand :=
  match t.cur with
  | .s0 => t
  | .s1 => { t with b0 := t.b0.fret t.b1 t.r1.rpc commit, b1 := Bank.reset, r1 := FaultRec.reset, live1 := false, cur := .s0 }
  | .s2 =>
    if bit t.r2.cause 18 then
      { t with b1 := t.b1.fret t.b2 t.r2.rpc commit, b2 := Bank.reset, r2 := FaultRec.reset, live2 := false, cur := .s1 }
    else
      { t with b0 := t.b0.fret t.b2 t.r2.rpc commit, b2 := Bank.reset, r2 := FaultRec.reset, live2 := false, cur := .s0 }

/-- FRET (R154): FLT_ILLEGAL in S0 or with a call frame open since entry. A return to S0 with RPC other than a held
transfer's address ends the hold (R157). It waits for the handler's outstanding accesses, whose registers are the running bank's. -/
def execFret (w : Site) (commit : Bool) (s : State) : Out :=
  .next (s.issue w [] fun s =>
    let t := s.strand w
    if decide (t.cur = .s0) || t.frameOpen then .fault s (flt 0x01)
    else if t.owesData then .wait t.dataPark
    else
      let t' := t.fret commit
      let s' := (s.dropBuf w).setStrand w t'
      let gr := s.group w.core.val (groupOf w.strand.val)
      match gr.held with
      | some h =>
        if decide (t'.cur = .s0) && decide (h.holder = w.strand.val) && decide (h.thpc ≠ t'.b0.pc) then .hold (s'.dropHold w)
        else .hold s'
      | none => .hold s')

/-- R158, R185: what an interrupt finds a parked strand doing, and the state it leaves: a wait is abandoned, a tile
transfer is held at its next row; none where the interrupt must wait. -/
def State.abandonWait (s : State) (w : Site) : Option (State × W64) :=
  let c := w.core.val
  match (s.strand w).park with
  | .none => some (s, 0)
  | .sync _ _ _ _ =>
    match s.waiterOf (.strand c w.strand.val) with
    | some x => (match x.wait with | .released _ _ _ => none | _ => some (s.dropWaiter (.strand c w.strand.val), 0))
    | none => none
  | .cpwait _ _ _ => some (s, 0)
  | .swait _ _ => some (s, 0)
  | .fence1 => some (s, 0)
  | .fenceTask _ _ _ => some (s, 0)
  | .pageIn _ _ => some (s, 0)
  | .mwld =>
    some (s.modCore c fun k => { k with vals := k.vals.filter fun v => decide (v.strand ≠ w.strand.val) }, 0)
  | .tile table =>
    let gr := s.group c (groupOf w.strand.val)
    match gr.xfer with
    | some x =>
      if (!table && decide (x.next ≥ cfgRows (s.tcfgWord c (groupOf w.strand.val) x.tile))) ||
          (table && decide (x.next ≥ 1)) then none
      else
        let held : Option Held :=
          if table then gr.held
          else some ⟨x.next, w.strand.val, decide (x.kind = .store), x.tile, s.pcOf w, x.ord⟩
        some ((s.setGroup c (groupOf w.strand.val) { gr with xfer := none, held := held }).releaseTaskFences c,
          if table then 0 else infoWord none (some x.next) 0 false false false)
    | none => none
  | _ => none

/-- INTERRUPT_ENTRY (R158, R161, R162): the strand takes its highest-level deliverable pending vector at its next
instruction boundary; the pending bit clears; entry is to S1 with kind 1. While data of the strand is outstanding it waits (log
entry 7). -/
def execInterruptEntry (w : Site) (s : State) : Out :=
  .next (
    match s.nextVector w with
    | none => s
    | some i =>
      if (s.strand w).owesData then s
      else
        match s.abandonWait w with
        | none => s
        | some (s', info) =>
          let level := fld (s.core w.core.val).int.ilevel (2 * i + 1) (2 * i)
          let s' := s'.modCore w.core.val fun k => { k with int := { k.int with ipend := setBit k.int.ipend i false } }
          let s' := s'.park w .none
          s'.enterS1 w ⟨0, 32 + i, level, 1, 0, info⟩)

/-- TIMER_INTERRUPT (R160): TIME has reached COMPARE: vector 32 becomes pending and COMPARE becomes all ones. -/
def execTimerInterrupt (core : Fin 256) (s : State) : Out :=
  .next (
    let k := s.core core.val
    if k.int.tcmp.toNat ≤ (s.timeOf (core.val / 64)).toNat then
      s.setCore core.val (({ k with int := { k.int with tcmp := BitVec.allOnes 64 } } : Core).pend 32)
    else s)

/-- R160: a write of FLT_ISET sets pending for vectors 48-63. -/
def State.softInt (s : State) (c : Nat) (soft : W16) : State :=
  s.modCore c fun k => { k with int := { k.int with ipend := k.int.ipend ||| ((soft.setWidth 32) <<< 16) } }

/-- SOFT_INTERRUPT_SET (R159, R160). -/
def execSoftInterruptSet (core : Fin 256) (soft : BitVec 16) (s : State) : Out := .next (s.softInt core.val soft)

end Sys2Proof.Machine
end

