-- ==== Sys2Proof/Machine/RegNames.lean ====
section
/-! DEFINITION. The memory-mapped registers by name, and which physical address holds which (R20, R22, R23 and the register tables of
the chapters). Offsets that hold none are holes. -/

namespace Sys2Proof.Machine

/-- A memory-mapped register. The first number names the unit's instance: a core, a die (4 is die M), a global slice, stack, update
unit, port, channel or slot number; the others the register's index. -/
inductive Reg where
  | flt (c i : Nat)
  | tileEcc (c : Nat)
  | matStat (c a : Nat)
  | accMode (c s : Nat) | accSeed (c : Nat) | accNf (c : Nat) | accThr (c : Nat) | accDstat (c : Nat) | accEcc (c : Nat)
  | accTdq (c n : Nat) | accTable (c off : Nat)
  | strStat (c : Nat) | strNf (c : Nat) | strThr (c : Nat) | strIx (c : Nat) | strEcc (c : Nat) | strDone (c n : Nat)
  | cpyChan (c i : Nat) | cpyDe (c : Nat) | cpyErr (c : Nat) | cpyErrPos (c : Nat) | cpyErrAddr (c : Nat) | cpySpecc (c : Nat)
  | l1Ecc (c : Nat) | l1Pstat (c s : Nat)
  | pmcCnt (c n : Nat) | pmcSel (c n : Nat) | pmcReload (c n : Nat) | pmcSnap (c n : Nat) | pmcStat (c : Nat)
  | llcCfg (s : Nat) | llcStat (s : Nat) | llcEcc (s : Nat) | mcStat (x : Nat) | mcEcc (x : Nat)
  | puuStat (u : Nat) | puuNf (u : Nat) | puuStage (u w : Nat) | puuCommit (u : Nat) | puuRule (u i : Nat)
  | puuQsub (u q : Nat) | puuQstat (u q : Nat) | puuQdone (u q n : Nat)
  | plkPctl (k : Nat) | plkPstat (k : Nat) | plkLane (k : Nat) | plkErr (k : Nat) | plkFecc (k : Nat) | plkLber (k n : Nat)
  | plkRt (d t id : Nat) | plkModid (d : Nat) | plkEpoch (d : Nat) | plkBstat (d b : Nat)
  | synStat (d : Nat) | synRerr (c : Nat) | synRsub (c : Nat) | synRstat (c : Nat) | synRdone (c : Nat)
  | cpyEstat (d e : Nat)
  | pmcDcnt (d n : Nat) | pmcDsel (d n : Nat) | pmcDsnap (d n : Nat) | pmcDstat (d : Nat) | pmcBwwin (d : Nat) | pmcBw (m i : Nat)
  | pmcGstat | pmcTrig
  | mbx (i off : Nat)
  | pwrCap | pwrMod | pwrEpoch | pwrTime | pwrPod (p : Nat) | pwrDmon (i : Nat) | pwrDmonClr | pwrTsens (i : Nat) | pwrVmon (r : Nat)
  | evrStat | evrClr | evrRec (c i : Nat)
  | grn (i : Nat)
  | bootStat | bootImg (s : Nat) | bootRoll | lcState
  | sch (s i : Nat) | lmon (s i : Nat) | lmonClink (n : Nat)
  | spBase | spStat
  | hulDom (d : Nat) | hulSweep | hulVbase (d : Nat) | hulDfpc (d : Nat)
  deriving DecidableEq, Repr

/-- A register when a condition holds. -/
def regIf (p : Bool) (r : Reg) : Option Reg := if p then some r else none

/-- R249: the ACC_ window of core `c`. -/
def accRegAt (c o : Nat) : Option Reg :=
  if o < 0x100 then some (.accMode c (o / 8))
  else if o < 0x200 then
    match o with
    | 0x100 => some (.accSeed c)
    | 0x108 => some (.accNf c)
    | 0x110 => some (.accThr c)
    | 0x120 => some (.accDstat c)
    | 0x128 => some (.accEcc c)
    | _ => none
  else if o < 0x280 then some (.accTdq c ((o - 0x200) / 8))
  else if 0x300 ≤ o && o < 0x320 then some (.accTable c o)
  else regIf (decide (0x400 ≤ o) && decide (o < 0xC00)) (.accTable c o)

/-- R292: the STR_ window. -/
def strRegAt (c o : Nat) : Option Reg :=
  match o with
  | 0x000 => some (.strStat c)
  | 0x008 => some (.strNf c)
  | 0x010 => some (.strThr c)
  | 0x018 => some (.strIx c)
  | 0x020 => some (.strEcc c)
  | _ => regIf (decide (0x100 ≤ o) && decide (o < 0x180)) (.strDone c ((o - 0x100) / 8))

/-- R324: the core's CPY_ window. -/
def cpyRegAt (c o : Nat) : Option Reg :=
  match o with
  | 0x020 => some (.cpyDe c)
  | 0x028 => some (.cpyErr c)
  | 0x030 => some (.cpyErrPos c)
  | 0x038 => some (.cpyErrAddr c)
  | 0x040 => some (.cpySpecc c)
  | _ => regIf (decide (o < 0x20)) (.cpyChan c (o / 8))

/-- R509: the core's PMC_ window. -/
def pmcRegAt (c o : Nat) : Option Reg :=
  let n := o % 0x80 / 8
  match o / 0x80 with
  | 0 => some (.pmcCnt c n)
  | 1 => some (.pmcSel c n)
  | 2 => some (.pmcReload c n)
  | 3 => some (.pmcSnap c n)
  | _ => regIf (decide (o = 0x200)) (.pmcStat c)

/-- R22: the window of core `c`. -/
def coreRegAt (c off : Nat) : Option Reg :=
  let o := off % 0x1000
  match off / 0x1000 with
  | 0 => regIf (decide (o < 0x38)) (.flt c (o / 8))
  | 1 => regIf (decide (o = 0)) (.tileEcc c)
  | 2 => regIf (decide (o < 0x20)) (.matStat c (o / 8))
  | 3 => accRegAt c o
  | 4 => strRegAt c o
  | 5 => cpyRegAt c o
  | 6 => if o = 0 then some (.l1Ecc c) else regIf (decide (0x800 ≤ o) && decide (o < 0x880)) (.l1Pstat c ((o - 0x800) / 8))
  | 7 => pmcRegAt c o
  | _ => none

/-- R364, R365: the LLC_ window of compute die `d`. -/
def llcRegAt (d o : Nat) : Option Reg :=
  if o < 0x20000 then
    let s := 32 * d + o / 0x1000
    match o % 0x1000 with
    | 0x000 => some (.llcCfg s)
    | 0x008 => some (.llcStat s)
    | 0x010 => some (.llcEcc s)
    | _ => none
  else if 0x80000 ≤ o && o < 0xC0000 then
    let x := 4 * d + (o - 0x80000) / 0x10000
    match o % 0x10000 with
    | 0x0000 => some (.mcStat x)
    | 0x0008 => some (.mcEcc x)
    | _ => none
  else none

/-- R399: the PUU_ window of unit `u`. -/
def puuRegAt (u o : Nat) : Option Reg :=
  if o = 0 then some (.puuStat u)
  else if o = 0x8 then some (.puuNf u)
  else if 0x40 ≤ o && o < 0x80 then some (.puuStage u ((o - 0x40) / 8))
  else if o = 0x80 then some (.puuCommit u)
  else if 0x400 ≤ o && o < 0x800 then some (.puuRule u ((o - 0x400) / 8))
  else if 0x8000 ≤ o then
    let q := (o - 0x8000) / 0x800
    let p := o % 0x800
    if p = 0 then some (.puuQsub u q)
    else if p = 8 then some (.puuQstat u q)
    else regIf (decide (0x100 ≤ p) && decide (p < 0x180)) (.puuQdone u q ((p - 0x100) / 8))
  else none

/-- R467, R468: the PLK_ window of die `d`. -/
def plkRegAt (d o : Nat) : Option Reg :=
  let k := 9 * d + o / 0x10000
  let p := o % 0x10000
  if o < 0x90000 then
    match p with
    | 0x0000 => some (.plkPctl k)
    | 0x0008 => some (.plkPstat k)
    | 0x0010 => some (.plkLane k)
    | 0x0018 => some (.plkErr k)
    | 0x0020 => some (.plkFecc k)
    | _ => regIf (decide (0x100 ≤ p) && decide (p < 0x180)) (.plkLber k ((p - 0x100) / 8))
  else if o < 0xA0000 then some (.plkRt d (p / 0x8000) (p % 0x8000 / 8))
  else if o = 0xA0000 then some (.plkModid d)
  else if o = 0xA0008 then some (.plkEpoch d)
  else regIf (decide (0xC0000 ≤ o) && decide (o < 0xF0000) && decide (p = 0)) (.plkBstat d (o / 0x10000 - 12))

/-- R422: the SYN_ window of compute die `d`. -/
def synRegAt (d o : Nat) : Option Reg :=
  if o = 0 then some (.synStat d)
  else if 0x1000 ≤ o && o < 0x1200 then some (.synRerr (64 * d + (o - 0x1000) / 8))
  else if 0x10000 ≤ o && o < 0x50000 then
    let c := 1024 * d + (o - 0x10000) / 0x100
    match o % 0x100 with
    | 0x00 => some (.synRsub c)
    | 0x08 => some (.synRstat c)
    | 0x10 => some (.synRdone c)
    | _ => none
  else none

/-- R510-R515: the PMC_ window of a die. -/
def diePmcAt (d o : Nat) : Option Reg :=
  if o < 0x200 then some (.pmcDcnt d (o / 8))
  else if o < 0x400 then some (.pmcDsel d ((o - 0x200) / 8))
  else if o < 0x600 then some (.pmcDsnap d ((o - 0x400) / 8))
  else if o = 0x600 then some (.pmcDstat d)
  else if o = 0x608 then some (.pmcBwwin d)
  else if o = 0x700 then regIf (d == 4) .pmcGstat
  else if o = 0x708 then regIf (d == 4) .pmcTrig
  else
    let m := (o - 0x1000) / 0x40
    regIf (decide (0x1000 ≤ o) && decide (m < if d = 4 then 1 else 16)) (.pmcBw (16 * d + m) (o % 0x40 / 8))

/-- R22: the window of compute die `d`. -/
def dieRegAt (d off : Nat) : Option Reg :=
  let o := off % 0x100000
  match off / 0x100000 with
  | 0 => llcRegAt d o
  | 1 => if o < 0x40000 then puuRegAt (4 * d + o / 0x10000) (o % 0x10000) else none
  | 2 => plkRegAt d o
  | 3 => synRegAt d o
  | 4 => regIf (decide (o < 0x10000) && decide (o % 0x1000 = 0)) (.cpyEstat d (o / 0x1000))
  | 5 => diePmcAt d o
  | _ => none

/-- R41, R48, R491: the PWR_ window. -/
def pwrRegAt (o : Nat) : Option Reg :=
  if o = 0 then some .pwrCap
  else if o = 0x8 then some .pwrMod
  else if o = 0x10 then some .pwrEpoch
  else if o = 0x100 then some .pwrTime
  else if 0x1000 ≤ o && o < 0x1100 then some (.pwrPod ((o - 0x1000) / 8))
  else if 0x2000 ≤ o && o < 0x2250 then regIf (decide (o % 16 = 0)) (.pwrDmon ((o - 0x2000) / 16))
  else if o = 0x2400 then some .pwrDmonClr
  else if 0x3000 ≤ o && o < 0x3000 + 8 * 324 then some (.pwrTsens ((o - 0x3000) / 8))
  else regIf (decide (0x4000 ≤ o) && decide (o < 0x4000 + 8 * 80)) (.pwrVmon ((o - 0x4000) / 8))

/-- R134, R138, R145: the HUL_ window. -/
def hulRegAt (o : Nat) : Option Reg :=
  if o < 0x8000 then some (.hulDom (o / 8))
  else if o = 0x10000 then some .hulSweep
  else if 0x20000 ≤ o && o < 0x28000 then some (.hulVbase ((o - 0x20000) / 8))
  else regIf (decide (0x28000 ≤ o) && decide (o < 0x30000)) (.hulDfpc ((o - 0x28000) / 8))

/-- R22: the window of die M. -/
def dieMRegAt (off : Nat) : Option Reg :=
  let o := off % 0x100000
  match off / 0x100000 with
  | 0 => regIf (decide (o < 0x10000) && decide (o % 0x100 < 0x90)) (.mbx (o / 0x100) (o % 0x100))
  | 1 => pwrRegAt o
  | 2 => if o = 0 then some .evrStat else if o = 8 then some .evrClr
         else regIf (decide (0x80000 ≤ o)) (.evrRec ((o - 0x80000) / 0x80) (o % 0x80 / 8))
  | 3 => regIf (decide (o < 0x20)) (.grn (o / 8))
  | 4 =>
    match o with
    | 0x00000 => some .bootStat
    | 0x00008 => some (.bootImg 0)
    | 0x00010 => some (.bootImg 1)
    | 0x00018 => some .bootRoll
    | 0x80000 => some .lcState
    | _ => none
  | 5 => regIf (decide (o < 0x4000) && decide (o % 0x100 < 0x40)) (.sch (o / 0x100) (o % 0x100 / 8))
  | 6 => if o < 0x4000 then regIf (decide (o % 0x40 < 0x38)) (.lmon (o / 0x40) (o % 0x40 / 8))
         else regIf (decide (o < 0x4800)) (.lmonClink ((o - 0x4000) / 8))
  | 7 => if o = 0 then some .spBase else regIf (decide (o = 8)) .spStat
  | 8 => diePmcAt 4 o
  | 9 => hulRegAt o
  | _ => none

/-- R20-R23: the register at a physical address; none where there is a hole or no register at all. -/
def regAt (pa : Nat) : Option Reg :=
  if pa % 8 ≠ 0 then none
  else
    match regionOf pa with
    | .coreReg c off => coreRegAt c off
    | .dieReg d off => if d = 4 then dieMRegAt off else dieRegAt d off
    | _ => none

end Sys2Proof.Machine
end

