-- ==== Sys2Proof/Machine/RegMap.lean ====
section
/-! DEFINITION. What a read of a memory-mapped register returns, what a write does, and which hull reaches it (R14, R23, R26, R117, and
the register tables of the chapters). -/

namespace Sys2Proof.Machine

/-! ### Reads -/

/-- R220: MAT_ASTATa. -/
def matWord (m : MatArray) : W64 :=
  let act : List (Nat × Nat × Nat) := match m.active with
    | some w => [(5, 1, 1), (6, 4, w.fmt), flag 10 w.tbl, (11, 2, w.sparse), flag 13 w.scaled, (14, 7, w.nrows)]
    | none => []
  regWord ([(0, 3, m.queue.length), flag 3 (!m.flights.isEmpty), flag 4 m.shadow.isSome, flag 21 m.perr] ++ act)

/-- R250: an instruction that writes or reads the slot is queued or running: a clear, an item of the drain unit, a pass. -/
def Core.slotPending (k : Core) (s : Nat) : Bool :=
  (k.acc.clears.any fun x => decide (x.1 = s)) || (k.acc.queue.any fun d => decide (d.slot = s)) ||
  (List.range 4).any fun a =>
    ((k.mat a).queue.any fun i => match i with | .pass p => decide (p.slot = s) | .reload _ => false) ||
    (k.mat a).flights.any fun f => decide (f.slot = s)

/-- R250: ACC_SMODEs. -/
def accModeWord (k : Core) (s : Nat) : W64 :=
  let m := k.acc.mode s
  regWord [(0, 2, m.mode), (2, 9, if m.mode = 1 then ofInt 9 m.anchor else 0), flag 11 (k.slotPending s)]

/-- R256: a register of an activation table. -/
def accTableWord (a : AccUnit) (off : Nat) : W64 :=
  if off < 0x320 then (if off % 16 = 0 then tget 0 a.trng (off / 16 % 2) else tget 0 a.tinf (off / 16 % 2))
  else tget 0 a.atbl ((off - 0x400) / 8)

/-- R292: STR_STAT. -/
def State.strStatWord (s : State) (c : Nat) : W64 :=
  let u := (s.core c).str
  let head (p : StreamItem → Bool) : Bool := (u.queue.head?.map p).getD false
  regWord [(0, 32, u.sdone.toNat), (32, 5, u.queue.length), flag 37 (head StreamItem.ran), flag 38 (head (s.headWaits c))]

/-- R324: CPY_CHSTAT and CPY_DESTAT. -/
def State.cpyStatWord (s : State) (done : W32) (l : List CopyItem) (ferr : Bool) : W64 :=
  regWord [(0, 32, done.toNat), (32, 5, l.length), flag 37 (l.any fun it => it.started && !it.done && !s.copyWaits it),
    flag 38 (l.any s.copyWaits), flag 39 ferr]

/-- R323: L1_PSTATs. -/
def State.pstatWord (s : State) (c n : Nat) : W64 :=
  let p := tget PStream.reset (s.core c).pst n
  regWord [(0, 2, p.state), (2, 8, if p.state = 3 then p.status else 0), flag 10 (s.streamWaits c n p), (11, 32, min p.next (2 ^ 32 - 1))]

/-- R338, R364: LLC_STAT: a pinned line counts as the slot it would hold without compression. -/
def State.llcStatWord (s : State) (n : Nat) : W64 :=
  let sets := s.llc.filter fun e => decide (e.1 / 2048 = n)
  let cnt (p : Slot → Bool) : Nat := (sets.map fun e => (e.2.slots.filter fun w => p w.2).length).sum
  regWord [(0, 16, (sets.map fun e => e.2.pinned).sum), (16, 16, (s.slice n).demoted.toNat), (32, 6, cnt fun w => w.locked),
    (38, 8, (sets.map fun e => e.2.waiting.length).sum)]

/-- R364: LLC_ECC. -/
def llcEccWord (r : SliceRegs) : W64 :=
  regWord [(0, 16, r.ce.toNat), flag 17 r.ue, flag 18 r.ueDirty, (19, 11, r.ueSet.toNat), (30, 4, r.ueWay.toNat)]

/-- R365: LLC_MCSTAT. -/
def mcStatWord (r : StackRegs) : W64 :=
  regWord [flag 0 r.ready, flag 1 r.refx2, flag 2 r.hold, (3, 8, r.sppr.toNat), (11, 8, r.hppr.toNat), (19, 16, r.scrubs.toNat),
    (35, 16, r.qfull.toNat)]

/-- R365: LLC_MCECC. -/
def mcEccWord (r : StackRegs) : W64 :=
  regWord [(0, 16, r.ce.toNat), (16, 16, r.odecc.toNat), flag 33 r.ue, (34, 6, r.uePc.toNat), (40, 6, r.ueBank.toNat), (46, 14, r.ueRow.toNat)]

/-- R399: PUU_STAT. -/
def puuStatWord (u : UpdUnit) : W64 :=
  regWord ([(0, 4, u.runq), flag 4 u.running] ++ (List.range 16).map fun q => flag (5 + q) (u.queue q).bound)

/-- R399: PUU_QSTATq. -/
def puuQstatWord (y : UpdQueue) : W64 :=
  let waits := match y.items.head? with
    | some it => if it.stage = 5 then 1 else if it.stage = 7 then 2 else if it.stage = 8 then 3 else 0
    | none => 0
  regWord [(0, 32, y.done.toNat), (32, 5, y.items.length), (37, 2, waits), flag 39 y.ovf, flag 40 y.err, (41, 12, y.dom), flag 53 y.bound]

/-- R467: PLK_PSTAT. -/
def plkPstatWord (p : Port) : W64 :=
  regWord [(0, 3, p.state.toNat), (3, 5, popcount 16 p.txmask.toNat), (8, 5, popcount 16 p.rxmask.toNat), (13, 12, p.farmod.toNat),
    (25, 6, p.farport.toNat), flag 31 p.farvalid, flag 32 p.idconf]

/-- R422: SYN_STAT. -/
def State.synStatWord (s : State) (d : Nat) : W64 :=
  let ws := (s.sync.waiters.filter fun w => decide (objDie w.obj = d)).map fun w => objKey w.dom w.obj
  regWord [(0, 15, (tget [] s.sync.resident d).length), (15, 14, ws.eraseDups.length), (29, 16, (tget 0 s.sync.fills d).toNat),
    (45, 16, (tget 0 s.sync.spills d).toNat)]

/-- R422: SYN_RSTATc. -/
def State.ringStatWord (s : State) (c : Nat) : W64 :=
  let x := s.ring c
  let waits (p : WaitParty) (o : Nat) : Bool :=
    match s.waiterOf p with
    | some w => decide (w.obj = o) && (match w.wait with | .released _ _ _ => false | _ => true)
    | none => false
  let it := x.queue.head?
  let on := if waits (.ringRecv c) x.recv then 1 else if waits (.ringCredit c) x.credit then 2
    else if (it.map fun y => decide (y.owed ≠ 0)).getD false then 3 else 0
  let st := (it.map fun y => if y.owed ≠ 0 then y.sent - 1 else min y.sent (y.steps - 1)).getD 0
  regWord [(0, 32, x.done.toNat), (32, 3, x.queue.length), (35, 16, st), (51, 2, on), flag 53 x.err, flag 54 x.ovf]

/-- R325: CPY_ESTATe. -/
def State.estatWord (s : State) (d e : Nat) : W64 :=
  let x := s.diePool d
  let y := tget DieEngine.idle x.engines e
  regWord [(0, 8, y.core.toNat), flag 8 y.item.isSome, (9, 7, x.pool.length)]

/-- R515: register `i` of a bandwidth monitor. -/
def bwWord (x : BwMon) (i : Nat) : W64 :=
  match i with
  | 0 => boolW x.valid
  | 1 => x.last0.setWidth 64
  | 2 => x.last1.setWidth 64
  | 3 => x.min0.setWidth 64
  | 4 => x.max0.setWidth 64
  | 5 => x.min1.setWidth 64
  | 6 => x.max1.setWidth 64
  | _ => x.windows.setWidth 64

/-- R509: PMC_STAT and PMC_DSTAT. -/
def pmcStatWord (x : PmcSet) : W64 := regWord [(0, 16, x.snapgen.toNat), flag 16 x.frozen, flag 17 x.skewed]

/-- R472: the word at an offset of a mailbox. -/
def mbxWord (x : Mbx) (off : Nat) : W64 :=
  if off < 0x40 then BitVec.ofNat 64 (leNat ((List.range 8).map fun i => tget 0 x.cmd (off + i)))
  else if off < 0x80 then BitVec.ofNat 64 (leAt x.rsp (off - 0x40) 8)
  else if off < 0x88 then regWord [flag 1 x.busy, flag 2 x.done, flag 3 x.ovr, (16, 16, x.count.toNat)]
  else x.cfg

/-- R491: PWR_MOD. -/
def State.pwrModWord (s : State) : W64 :=
  let w := s.mgmt.pwr
  regWord [(0, 13, w.pwr.toNat), (13, 13, w.peak.toNat), flag 26 w.overcap, flag 27 w.oph, flag 28 s.alert, (29, 10, w.vin.toNat),
    (39, 10, w.flow.toNat)]

/-- R493: PWR_EPOCH. -/
def epochWord (e : Epoch) : W64 := regWord [(0, 16, e.gen.toNat), flag 17 e.busy, flag 18 e.done, (32, 16, e.todo.length)]

/-- R491: PWR_PODp. -/
def podWord (x : PodReg) : W64 :=
  regWord [(0, 8, x.reqv.toNat), (8, 8, x.thermv.toNat), (16, 8, x.capv.toNat), (24, 8, x.targetv.toNat), (32, 8, x.vdd.toNat),
    (40, 3, x.state.toNat), flag 43 x.latched, flag 44 x.lreq, flag 45 (decide (x.thermv.toNat < x.reqv.toNat)), flag 46 x.hot105,
    (47, 3, x.pace.toNat), (50, 8, x.tj.toNat), (58, 3, x.floorup.toNat)]

/-- R41: PWR_DMON[i]. -/
def State.dmonWord (s : State) (i : Nat) : W64 :=
  let x := s.dmonOf i
  let pod := decide (i < 32)
  regWord [(0, 16, x.rate.toNat), (16, 16, x.rmin.toNat), (32, 16, x.rmax.toNat), (48, 8, x.vdd.toNat), flag 56 x.valid,
    flag 57 (pod && (s.pod i).state == 2), flag 58 x.slewing, flag 59 x.floor, flag 60 (pod && (s.pod i).pace != 0)]

/-- R491: PWR_TSENSs. -/
def tsensWord (x : Sensor) : W64 := regWord [(0, 12, x.temp.toNat), flag 12 x.valid, (32, 12, x.tmax.toNat)]

/-- R491: PWR_VMONr. -/
def vmonWord (x : VMon) : W64 := regWord [(0, 16, x.volt.toNat), flag 16 x.uv, flag 17 x.ov, (32, 16, x.vmin.toNat), (48, 16, x.vmax.toNat)]

/-- R505: EVR_STAT. -/
def evrStatWord (e : Recorder) : W64 :=
  regWord [(0, 16, e.nqlost.toNat), (16, 9, e.notes.length), flag 25 (!e.aos.isEmpty), flag 26 e.clearing.isSome]

/-- R564: BOOT_STAT. -/
def bootStatWord (b : Boot) : W64 :=
  regWord [(0, 32, b.bootn.toNat), (32, 3, b.cause.toNat), flag 35 b.slot, flag 36 b.fallback, (37, 4, b.phase.toNat), flag 41 b.done,
    (42, 16, b.bootms.toNat)]

/-- R564: BOOT_IMGs. -/
def bootImgWord (b : Boot) (i : Nat) : W64 :=
  let x := b.slotOf (i == 1)
  regWord [(0, 32, x.img.version.toNat), (32, 16, x.img.rollIdx.toNat), flag 48 x.valid, flag 49 x.owed,
    flag 50 (decide (b.slot = (i == 1)) && b.phase != 0)]

/-- R19, R565: LC_STATE; MODID is the module id that the last boot loaded. -/
def State.lcWord (s : State) : W64 :=
  let l := s.mgmt.lc
  regWord [(0, 3, l.state.toNat), flag 3 l.debugOpen, flag 4 l.trans, flag 5 l.loaded.isSome, (16, 12, s.moduleId.toNat)]

/-- R400: register `i` of a schedule slot. -/
def schWord (x : SchedSlot) (i : Nat) : W64 :=
  match i with
  | 0 => x.rate
  | 1 => x.shape
  | 2 => x.decay
  | 3 => x.restart
  | 4 => x.count.setWidth 64
  | 5 => x.shard
  | 6 => regWord [(0, 32, x.eta.toNat), flag 32 x.cfgerr]
  | _ => 0

/-- R401: register `i` of a loss-monitor slot. -/
def lmonWord (x : LossSlot) (i : Nat) : W64 :=
  match i with
  | 0 => x.cfg0
  | 1 => x.cfg1
  | 4 => regWord [(0, 32, x.mean.toNat), (32, 32, x.var.toNat)]
  | 5 => regWord [(0, 32, x.step.toNat), (32, 2, x.state.toNat), (34, 2, x.reason.toNat), flag 36 x.spike, (37, 24, x.nfacc.toNat)]
  | 6 => regWord [(0, 32, x.nsamp.toNat), (32, 16, x.closed.toNat), flag 48 x.cfgErr]
  | _ => 0

/-- R134: HUL_DOM[d]; entry 0 reads FREE. -/
def State.hulWord (s : State) (d : Nat) : W64 :=
  let x := s.dom d
  if d = 0 then 0 else regWord [(0, 2, x.state.toNat), flag 4 x.husking, flag 5 x.sweeping, (14, 38, x.ptroot.toNat)]

/-- R160: register `i` of the FLT_ window. -/
def fltWord (x : IntRegs) (i : Nat) : W64 :=
  match i with
  | 0 => x.ipend.setWidth 64
  | 1 => x.iroute0
  | 2 => x.iroute1
  | 3 => x.ilevel
  | 4 => x.flevel
  | 6 => x.tcmp
  | _ => 0

/-- What a read of a register returns; a WO field reads zero (R14). -/
def State.readReg (s : State) (r : Reg) : W64 :=
  match r with
  | .flt c i => fltWord (s.core c).int i
  | .tileEcc c => (s.core c).tileEcc
  | .matStat c a => matWord ((s.core c).mat a)
  | .accMode c i => accModeWord (s.core c) i
  | .accSeed c => (s.core c).acc.seed
  | .accNf c => regWord [(0, 24, (s.core c).acc.nan), (24, 24, (s.core c).acc.infc)]
  | .accThr c => regWord [(0, 24, (s.core c).acc.thresh)]
  | .accDstat c => dstatWord (s.core c).acc
  | .accEcc c => (s.core c).acc.ecc
  | .accTdq c n => tget 0 (s.core c).acc.tdq n
  | .accTable c off => accTableWord (s.core c).settleTables.acc off
  | .strStat c => s.strStatWord c
  | .strNf c => regWord [(0, 24, (s.core c).str.nan), (24, 24, (s.core c).str.infc)]
  | .strThr c => regWord [(0, 24, (s.core c).str.thresh)]
  | .strIx c => regWord [(0, 24, (s.core c).str.oob), (24, 24, (s.core c).str.drop)]
  | .strEcc c => (s.core c).str.ecc
  | .strDone c n => tget 0 (s.core c).str.records n
  | .cpyChan c i => let x := tget CopyChan.reset (s.core c).cpy.chans i; s.cpyStatWord x.done x.queue x.ferr
  | .cpyDe c =>
    s.cpyStatWord (s.core c).cpy.deDone ((s.diePool (dieOfCore c)).entries.filter fun it => decide (it.core = c)) (s.core c).cpy.deFerr
  | .cpyErr c => (s.core c).cpy.err
  | .cpyErrPos c => (s.core c).cpy.errPos
  | .cpyErrAddr c => (s.core c).cpy.errAddr
  | .cpySpecc c => (s.core c).cpy.specc
  | .l1Ecc c => regWord [(0, 16, (s.core c).l1dCount.toNat), (16, 16, (s.core c).l1iCount.toNat)]
  | .l1Pstat c i => s.pstatWord c i
  | .pmcCnt c n => (tget PmcCnt.reset (s.core c).pmc.cnts n).count.setWidth 64
  | .pmcSel c n => (tget PmcCnt.reset (s.core c).pmc.cnts n).sel
  | .pmcReload c n => (tget PmcCnt.reset (s.core c).pmc.cnts n).reload.setWidth 64
  | .pmcSnap c n => (tget PmcCnt.reset (s.core c).pmc.cnts n).snap.setWidth 64
  | .pmcStat c => pmcStatWord (s.core c).pmc
  | .llcCfg n => regWord [(0, 4, (s.slice n).pinWays.toNat), flag 4 (s.slice n).cmpEn]
  | .llcStat n => s.llcStatWord n
  | .llcEcc n => llcEccWord (s.slice n)
  | .mcStat x => mcStatWord (s.stack x)
  | .mcEcc x => mcEccWord (s.stack x)
  | .puuStat u => puuStatWord (s.updUnit u)
  | .puuNf u => regWord [(0, 24, (s.updUnit u).nan), (24, 24, (s.updUnit u).infc)]
  | .puuStage u w => tget 0 (s.updUnit u).stage w
  | .puuCommit _ => 0
  | .puuRule u i => tget 0 (s.updUnit u).rules i
  | .puuQsub _ _ => 0
  | .puuQstat u q => puuQstatWord ((s.updUnit u).queue q)
  | .puuQdone u q n => tget 0 ((s.updUnit u).queue q).recs n
  | .plkPctl k => regWord [flag 0 (s.port k).req, flag 1 (s.port k).latched, flag 2 (s.port k).lreq]
  | .plkPstat k => plkPstatWord (s.port k)
  | .plkLane k =>
    let p := s.port k
    regWord [(0, 16, p.txmask.toNat), (16, 16, p.rxmask.toNat), (32, 16, p.berhi.toNat), (48, 16, p.spare.toNat)]
  | .plkErr k =>
    let p := s.port k
    regWord [(0, 16, p.crcerr.toNat), (16, 16, p.uncorr.toNat), (32, 16, p.retry.toNat), (48, 8, p.retrain.toNat)]
  | .plkFecc k => (s.port k).csym.setWidth 64
  | .plkLber k n => (tget 0 (s.port k).lber n).setWidth 64
  | .plkRt d t id => if t = 0 then tget 0 (s.switch d).rt0 id else tget 0 (s.switch d).rt1 id
  | .plkModid _ => s.moduleId.setWidth 64
  | .plkEpoch d =>
    let x := s.switch d
    regWord [flag 0 x.active, flag 2 x.busy, flag 3 x.done, (4, 32, s.oldPkt d)]
  | .plkBstat d b => regWord [flag 0 s.booted, (1, 16, (tget 0 (s.switch d).bretry b).toNat)]
  | .synStat d => s.synStatWord d
  | .synRerr c => tget 0 s.sync.rerr c
  | .synRsub _ => 0
  | .synRstat c => s.ringStatWord c
  | .synRdone c => (s.ring c).rdone
  | .cpyEstat d e => s.estatWord d e
  | .pmcDcnt d n => (tget PmcCnt.reset (tget PmcSet.reset s.pmc.sets d).cnts n).count.setWidth 64
  | .pmcDsel d n => (tget PmcCnt.reset (tget PmcSet.reset s.pmc.sets d).cnts n).sel
  | .pmcDsnap d n => (tget PmcCnt.reset (tget PmcSet.reset s.pmc.sets d).cnts n).snap.setWidth 64
  | .pmcDstat d => pmcStatWord (tget PmcSet.reset s.pmc.sets d)
  | .pmcBwwin d => tget 1000 s.pmc.bwwin d
  | .pmcBw m i => bwWord (s.mon m) i
  | .pmcGstat => regWord [flag 0 s.available, flag 1 s.pmc.frozen, (2, 16, s.pmc.snapgen.toNat), (18, 16, s.pmc.missed.toNat)]
  | .pmcTrig => s.pmc.trig
  | .mbx i off => mbxWord (s.mbx (64 + i)) off
  | .pwrCap => s.mgmt.pwr.cap.setWidth 64
  | .pwrMod => s.pwrModWord
  | .pwrEpoch => epochWord s.mgmt.epoch
  | .pwrTime => s.timeOf 4
  | .pwrPod p => podWord (s.pod p)
  | .pwrDmon i => s.dmonWord i
  | .pwrDmonClr => 0
  | .pwrTsens i => tsensWord (s.sensor i)
  | .pwrVmon i => vmonWord (s.vmonOf i)
  | .evrStat => evrStatWord s.evr
  | .evrClr => 0
  | .evrRec c i => s.evrWord c i
  | .grn i => BitVec.ofNat 64 (match i with | 0 => s.grnStat | 1 => s.grnWear | 2 => s.grnBlk | _ => s.grnErr)
  | .bootStat => bootStatWord s.mgmt.boot
  | .bootImg i => bootImgWord s.mgmt.boot i
  | .bootRoll => s.mgmt.boot.roll.setWidth 64
  | .lcState => s.lcWord
  | .sch i k => schWord (s.schedSlot i) k
  | .lmon i k => lmonWord (s.lossSlot i) k
  | .lmonClink n => tget 0 s.upd.clink n
  | .spBase => s.sync.spbase
  | .spStat => regWord [(0, 32, (s.sync.grants.map fun g => g.2.2).sum)]
  | .hulDom d => s.hulWord d
  | .hulSweep => regWord [(0, 12, s.sweep.domain.toNat), flag 13 s.sweep.busy, flag 14 s.sweep.done, (32, 32, s.sweep.nulled.toNat)]
  | .hulVbase d => (s.dom d).vbase
  | .hulDfpc d => (s.dom d).dfpc

/-! ### Writes -/

/-- Who accesses a register: Luami, or a strand of a core with its current domain. -/
inductive RegUser where
  | luami
  | strand (core : Nat) (dom : DomNo)
  deriving DecidableEq, Repr

/-- R504: the domain a clear of records is made for: the strand's, or the host's 0. -/
def RegUser.dom (u : RegUser) : DomNo :=
  match u with
  | .luami => 0
  | .strand _ d => d

/-- R160: a write to register `i` of the FLT_ window. -/
def IntRegs.write (x : IntRegs) (i : Nat) (v : W64) : IntRegs :=
  match i with
  | 0 => { x with ipend := x.ipend &&& ~~~(v.setWidth 32) }
  | 1 => { x with iroute0 := v }
  | 2 => { x with iroute1 := v }
  | 3 => { x with ilevel := v }
  | 4 => { x with flevel := v }
  | 5 => { x with ipend := x.ipend ||| ((v.setWidth 16).setWidth 32 <<< 16) }
  | _ => { x with tcmp := v }

/-- An error status word with CE_COUNT in [15:0], CE_CLR at 16 and UE at 17. -/
def eccWrite (x v : W64) : W64 :=
  let y := mergeWrite x v 0 (fieldMask 17 17)
  if bit v 16 then setFld y 15 0 0 else y

/-- Apply `f` to core `c`'s stream engine. -/
def State.modStr (s : State) (c : Nat) (f : StreamUnit → StreamUnit) : State := s.modCore c fun k => { k with str := f k.str }

/-- Apply `f` to core `c`'s copy unit. -/
def State.modCpy (s : State) (c : Nat) (f : CopyUnit → CopyUnit) : State := s.modCore c fun k => { k with cpy := f k.cpy }

/-- Apply `f` to counter `n` of core `c`. -/
def State.modCnt (s : State) (c n : Nat) (f : PmcCnt → PmcCnt) : State :=
  s.modCore c fun k => { k with pmc := { k.pmc with cnts := tset PmcCnt.reset k.pmc.cnts n (f (tget PmcCnt.reset k.pmc.cnts n)) } }

/-- Apply `f` to counter `n` of die `d`. -/
def State.modDcnt (s : State) (d n : Nat) (f : PmcCnt → PmcCnt) : State :=
  let x := tget PmcSet.reset s.pmc.sets d
  let y := { x with cnts := tset PmcCnt.reset x.cnts n (f (tget PmcCnt.reset x.cnts n)) }
  { s with pmc := { s.pmc with sets := tset PmcSet.reset s.pmc.sets d y } }

/-- R493: Luami writes a staged value into the shadow copies, in turn. -/
def State.stage (s : State) (x : Staged) : State := s.modEpoch fun e => { e with waiting := e.waiting ++ [(none, x)] }

/-- R468: a write to a route-table entry: ignored in the table that ACTIVE names. -/
def State.routeReg (s : State) (d t id : Nat) (v : W64) : State :=
  if decide (t = 1) = (s.switch d).active then s else s.writeRoute d id v

/-- R491: a write to PWR_PODp. -/
def PodReg.write (x : PodReg) (v : W64) : PodReg :=
  { x with
    reqv := BitVec.ofNat 8 (fld v 7 0), thermv := BitVec.ofNat 8 (fld v 15 8), capv := BitVec.ofNat 8 (fld v 23 16),
    targetv := BitVec.ofNat 8 (fld v 31 24), pace := BitVec.ofNat 3 (fld v 49 47), floorup := BitVec.ofNat 3 (fld v 60 58) }

/-- R134: a write to HUL_DOM[d]: the state moves only from FREE to LIVE and from LIVE to REVOKED, which is step 1 of R135, whose other
steps follow; at step 9 it becomes FREE, and a write of FREE before that does nothing. Entry 0 stays FREE. -/
def State.hulWrite (s : State) (d : Nat) (v : W64) : State :=
  let x := s.dom d
  let toSt := fld v 1 0
  let ok := (x.state == 0 && decide (toSt = 1)) || (x.state == 1 && decide (2 ≤ toSt))
  if d = 0 then s
  else
    let s := if x.state == 1 && decide (2 ≤ toSt) then s.wantRevoke d else s
    s.setDom d { x with state := if ok then BitVec.ofNat 2 (min toSt 2) else x.state, ptroot := BitVec.ofNat 38 (fld v 51 14) }

/-- R138: a write to HUL_SWEEP; a START while BUSY is ignored. -/
def State.sweepWrite (s : State) (v : W64) : State :=
  let s := { s with sweep := { s.sweep with domain := BitVec.ofNat 12 (fld v 11 0), done := w1c s.sweep.done v 14 } }
  if bit v 12 && !s.sweep.busy then s.sweepHulls (fld v 11 0) else s

/-- R389, R400: a write to register `i` of a schedule slot; COUNT acts under R392. -/
def State.schWrite (s : State) (n i : Nat) (v : W64) : State :=
  let x := s.schedSlot n
  match i with
  | 0 => s.setSchedSlot n { x with rate := v }
  | 1 => s.setSchedSlot n { x with shape := v &&& fieldMask 34 0 }
  | 2 => s.setSchedSlot n { x with decay := v }
  | 3 => s.setSchedSlot n { x with restart := v }
  | 4 => s.countWrite n (v.setWidth 32)
  | 5 => s.setSchedSlot n { x with shard := v &&& fieldMask 47 0 }
  | 7 => if bit v 0 then s.schedEta n else s
  | _ => s

/-- R401: a write to register `i` of a loss-monitor slot. -/
def State.lmonWrite (s : State) (n i : Nat) (v : W64) : State :=
  let x := s.lossSlot n
  match i with
  | 0 => s.setLossSlot n { x with cfg0 := v }
  | 1 =>
    let s := s.setLossSlot n { x with cfg1 := v &&& fieldMask 48 0 }
    if bit v 49 then s.lossReset n else s
  | 2 => s.lossStore n (v.setWidth 32) (BitVec.ofNat 32 (fld v 63 32))
  | 3 => s.decideStore n (v.setWidth 32)
  | _ => s

/-- R427: a store to SYN_RSUBc. -/
def State.ringSubmit (s : State) (c core : Nat) (v : W64) : State :=
  match execRingSubmit (Fin.ofNat 4096 c) (Fin.ofNat 256 core) v s with
  | .next s => s
  | _ => s

/-- R370: a store to PUU_QSUBq; an unbound queue discards it. -/
def State.qsubWrite (s : State) (u q core : Nat) (v : W64) : State :=
  if ((s.updUnit u).queue q).bound then s.qsub u q core v else s

/-- R239: a store of Luami to a register of an activation table takes effect; while a drain uses the table it is held (log entry 102). -/
def State.tableWrite (s : State) (c off : Nat) (v : W64) : State :=
  match tableOf off with
  | some _ => s.modCore c fun k => Core.settleTables { k with acc := { k.acc with held := k.acc.held ++ [(off, v)] } }
  | none => s

/-- What a write of `v` to a core's register does. -/
def State.writeCoreReg (s : State) (r : Reg) (v : W64) : State :=
  match r with
  | .flt c i => s.modCore c fun k => { k with int := k.int.write i v }
  | .tileEcc c => s.modCore c fun k => { k with tileEcc := eccWrite k.tileEcc v }
  | .matStat c a => s.modMat c a fun m => { m with perr := w1c m.perr v 21 }
  | .accSeed c => s.modAcc c fun a => { a with seed := v }
  | .accThr c =>
    let s := s.modAcc c fun a => { a with thresh := fld v 23 0 }
    if bit v 24 then s.modAcc c fun a => { a with nan := 0, infc := 0 } else s
  | .accEcc c => s.modAcc c fun a => { a with ecc := eccWrite a.ecc v }
  | .accTable c off => s.tableWrite c off v
  | .strThr c =>
    let s := s.modStr c fun u => { u with thresh := fld v 23 0 }
    if bit v 24 then s.modStr c fun u => { u with nan := 0, infc := 0 } else s
  | .strIx c => if bit v 48 then s.modStr c fun u => { u with oob := 0, drop := 0 } else s
  | .strEcc c => s.modStr c fun u => { u with ecc := eccWrite u.ecc v }
  | .cpyChan c i => s.modCpy c fun u =>
      let x := tget CopyChan.reset u.chans i
      { u with chans := tset CopyChan.reset u.chans i { x with ferr := w1c x.ferr v 39 } }
  | .cpyDe c => s.modCpy c fun u => { u with deFerr := w1c u.deFerr v 39 }
  | .cpyErr c => s.modCpy c fun u => { u with err := mergeWrite u.err v 0 (fieldMask 43 43) }
  | .cpySpecc c => s.modCpy c fun u => { u with specc := eccWrite u.specc v }
  | .l1Ecc c => if bit v 32 then s.modCore c fun k => { k with l1dCount := 0, l1iCount := 0 } else s
  | .pmcCnt c n => s.modCnt c n fun x => { x with count := v.setWidth 48 }
  | .pmcSel c n => s.modCnt c n fun x => { x with sel := mergeWrite x.sel v (fieldMask 21 0) (fieldMask 22 22) }
  | .pmcReload c n => s.modCnt c n fun x => { x with reload := v.setWidth 48 }
  | _ => s

/-- What a write of `v` to a register of a compute die does. -/
def State.writeDieReg (s : State) (u : RegUser) (r : Reg) (v : W64) : State :=
  match r with
  | .llcCfg n => s.stage (.slice n (BitVec.ofNat 4 (min (fld v 3 0) 12)) (bit v 4))
  | .llcStat n => if bit v 46 then s.setSlice n { s.slice n with demoted := 0 } else s
  | .llcEcc n =>
    let x := s.slice n
    s.setSlice n { x with ce := if bit v 16 then 0 else x.ce, ue := w1c x.ue v 17 }
  | .mcStat x => if bit v 51 then s.setStack x { s.stack x with qfull := 0 } else s
  | .mcEcc x =>
    let y := s.stack x
    s.setStack x { y with ce := if bit v 32 then 0 else y.ce, odecc := if bit v 32 then 0 else y.odecc, ue := w1c y.ue v 33 }
  | .puuNf x => if bit v 48 then s.setUpdUnit x { s.updUnit x with nan := 0, infc := 0 } else s
  | .puuStage x w => s.setUpdUnit x { s.updUnit x with stage := tset 0 (s.updUnit x).stage w v }
  | .puuCommit x => if bit v 4 then s.ruleCommit x (fld v 3 0) else s
  | .puuQsub x q => match u with | .strand c _ => s.qsubWrite x q c v | .luami => s
  | .puuQstat x q =>
    let y := (s.updUnit x).queue q
    s.setUpdQueue x q { y with ovf := w1c y.ovf v 39, err := w1c y.err v 40 }
  | .plkPctl k => s.pctlRequest k (bit v 0)
  | .plkPstat k => s.modPort k fun p => { p with idconf := w1c p.idconf v 32 }
  | .plkLane k => s.modPort k fun p => { p with berhi := p.berhi &&& ~~~(BitVec.ofNat 16 (fld v 47 32)) }
  | .plkErr k => if bit v 56 then s.modPort k fun p => { p with crcerr := 0, uncorr := 0, retry := 0, retrain := 0 } else s
  | .plkFecc k => if bit v 48 then s.modPort k fun p => { p with csym := 0 } else s
  | .plkRt d t id => s.routeReg d t id v
  | .plkModid _ => { s with moduleId := v.setWidth 12 }
  | .plkEpoch d =>
    let s := s.setSwitch d { s.switch d with done := w1c (s.switch d).done v 3 }
    if bit v 1 then s.routeCommit d else s
  | .plkBstat d b => if bit v 17 then s.setSwitch d { s.switch d with bretry := tset 0 (s.switch d).bretry b 0 } else s
  | .synStat d => if bit v 61 then
      { s with sync := { s.sync with fills := tset 0 s.sync.fills d 0, spills := tset 0 s.sync.spills d 0 } } else s
  | .synRerr c => { s with sync := { s.sync with rerr := tset 0 s.sync.rerr c (mergeWrite (tget 0 s.sync.rerr c) v 0 (fieldMask 36 36)) } }
  | .synRsub c => match u with | .strand k _ => s.ringSubmit c k v | .luami => s
  | .synRstat c => s.setRing c { s.ring c with err := w1c (s.ring c).err v 53, ovf := w1c (s.ring c).ovf v 54 }
  | .pmcDcnt d n => s.modDcnt d n fun x => { x with count := v.setWidth 48 }
  | .pmcDsel d n => s.modDcnt d n fun x => { x with sel := mergeWrite x.sel v (fieldMask 18 0 ||| fieldMask 28 20) (fieldMask 19 19) }
  | .pmcBwwin _ => s.stage (.bwWindow (v.setWidth 17))
  | .pmcBw m i => if i = 0 && bit v 1 then s.bwClear m else s
  | _ => s

/-- What a write of `v` to a register of die M does. -/
def State.writeDieMReg (s : State) (u : RegUser) (r : Reg) (v : W64) : State :=
  match r with
  | .pmcTrig => { s with pmc := { s.pmc with trig := v &&& fieldMask 30 0 } }
  | .mbx i off => s.mbxWrite (64 + i) off v (fieldMask 25 0)
  | .pwrCap => s.modPwr fun w => { w with cap := v.setWidth 13 }
  | .pwrEpoch =>
    let s := s.modEpoch fun e => { e with done := w1c e.done v 18 }
    if bit v 16 then s.epochCommit else s
  | .pwrPod p => s.repace p ((s.pod p).write v)
  | .pwrDmon i => s.setDmon i { s.dmonOf i with floor := w1c (s.dmonOf i).floor v 59 }
  | .pwrDmonClr => s.dmonClear (v.setWidth 37)
  | .pwrVmon i =>
    let x := s.vmonOf i
    s.modPwr fun w => { w with vmon := tset VMon.reset w.vmon i { x with uv := w1c x.uv v 16, ov := w1c x.ov v 17 } }
  | .evrClr => if bit v 24 then s.evrClrGo u.dom (fld v 11 0) (fld v 23 12) else s
  | .evrRec c 7 => s.modEvr fun e => { e with w7 := tput c (some (v &&& fieldMask 55 0)) e.w7 }
  | .grn 3 => if bit v 48 then s.modGrn fun g => { g with corrhi := 0, uncorr := 0, refresh := 0 } else s
  | .sch n i => s.schWrite n i v
  | .lmon n i => s.lmonWrite n i v
  | .lmonClink n => s.stage (.clink n (v &&& fieldMask 8 0))
  | .spBase => { s with sync := { s.sync with spbase := v &&& fieldMask 51 16 } }
  | .hulDom d => s.hulWrite d v
  | .hulSweep => s.sweepWrite v
  | .hulVbase d => s.modDom d fun x => { x with vbase := v &&& (fieldMask 0 0 ||| fieldMask 56 9) }
  | .hulDfpc d => s.modDom d fun x => { x with dfpc := v &&& (fieldMask 0 0 ||| fieldMask 56 2) }
  | _ => s

/-- R20: a register of a core's window, of a compute die's, or of die M's. -/
def State.regWrite (s : State) (u : RegUser) (pa : Nat) (v : W64) : State :=
  match regAt pa with
  | none => s
  | some r =>
    match regionOf pa with
    | .coreReg _ _ => s.writeCoreReg r v
    | .dieReg 4 _ => match r with
      | .pmcDcnt _ _ => s.writeDieReg u r v
      | .pmcDsel _ _ => s.writeDieReg u r v
      | .pmcBwwin _ => s.writeDieReg u r v
      | .pmcBw _ _ => s.writeDieReg u r v
      | _ => s.writeDieMReg u r v
    | _ => s.writeDieReg u r v

/-- A read at a physical address; a hole word reads zero. -/
def State.regRead (s : State) (pa : Nat) : W64 :=
  match regAt pa with
  | some r => s.readReg r
  | none => 0

/-! ### Access (R23, R117, and the access lines of the register tables) -/

/-- Whether a unit access hull reaches a register: the chapter of every other one names Luami alone or a device right. -/
def Reg.byUnit (r : Reg) : Bool :=
  match r with
  | .llcCfg _ | .llcStat _ | .llcEcc _ | .mcStat _ | .mcEcc _ => false
  | .puuStage _ _ | .puuCommit _ | .puuRule _ _ => false
  | .plkPctl _ | .plkPstat _ | .plkLane _ | .plkErr _ | .plkFecc _ | .plkLber _ _ | .plkRt _ _ _ | .plkModid _ | .plkEpoch _ | .plkBstat _ _ => false
  | .pmcDcnt _ _ | .pmcDsel _ _ | .pmcDsnap _ _ | .pmcDstat _ | .pmcBwwin _ | .pmcBw _ _ | .pmcGstat | .pmcTrig => false
  | .pwrCap | .pwrMod | .pwrEpoch | .pwrTime | .pwrPod _ | .pwrDmon _ | .pwrDmonClr | .pwrTsens _ | .pwrVmon _ => false
  | .evrStat | .evrClr | .evrRec _ _ | .grn _ | .bootStat | .bootImg _ | .bootRoll | .lcState => false
  | .sch _ _ | .lmon _ _ | .lmonClink _ | .spBase | .spStat | .hulDom _ | .hulSweep | .hulVbase _ | .hulDfpc _ => false
  | _ => true

/-- A right no device right hull carries: the access is Luami's alone. -/
def noRight : Nat := 4

/-- R117: the device rights that reach a register: KIND, instance, the right needed to read or to write. -/
def Reg.devices (r : Reg) (write : Bool) : List (Nat × Nat × Nat) :=
  let rw (kind i use mod : Nat) : List (Nat × Nat × Nat) := [(kind, i, if write then mod else use)]
  let any : List (Nat × Nat × Nat) := if write then [] else (List.range 261).map fun i => (2, i, 1)
  match r with
  | .pmcCnt c _ | .pmcSel c _ | .pmcReload c _ | .pmcSnap c _ | .pmcStat c => rw 2 c 1 2
  | .pmcDcnt d _ | .pmcDsel d _ => rw 2 (256 + d) 1 2
  | .pmcDsnap d _ | .pmcDstat d => rw 2 (256 + d) 1 noRight
  | .pmcBw m _ => rw 2 (256 + m / 16) 1 noRight
  | .pwrDmon _ => any
  | .pwrTime => any
  | .evrRec _ _ => rw 3 0 1 noRight
  | .evrStat => rw 3 0 1 noRight
  | .evrClr => rw 3 0 1 2
  | .puuStage u _ | .puuCommit u => rw 4 u 2 2
  | .puuRule u _ => rw 4 u 1 noRight
  | .sch i _ => rw 5 i 1 2
  | .lmon i k => rw 6 i 1 (match k with | 0 => 2 | 1 => 2 | 2 => 1 | 3 => 1 | _ => noRight)
  | _ => []

/-- R117, R120, R23: the check of a register access under a unit access or device right hull; an access that meets a hole faults. -/
def regHullFault (s : State) (h : W128) (addr : Nat) (write : Bool) : Option Nat :=
  if hType h = 5 then
    match hullCheck4 s h 5 0 with
    | some c => some c
    | none =>
      let l := match regAt addr with
        | some r => (r.devices write).filter fun (e : Nat × Nat × Nat) => decide (e.1 = hKind h)
        | none => []
      let inside (e : Nat × Nat × Nat) : Bool := decide (hInst h ≤ e.2.1) && decide (e.2.1 < hInst h + hLen h)
      if (regAt addr).isNone then some 0x13
      else if l.isEmpty then some 0x0D
      else if !l.any fun (e : Nat × Nat × Nat) => hHas h e.2.2 then some 0x0C
      else if !l.any fun (e : Nat × Nat × Nat) => inside e && hHas h e.2.2 then some 0x0D
      else none
  else
    match hullCheck4 s h 4 0 with
    | some c => some c
    | none =>
      match regAt addr with
      | some r => if !r.byUnit then some 0x0B else hullCheck s h 4 (if write then rWRITE else rREAD) addr 8
      | none => match hullCheck s h 4 (if write then rWRITE else rREAD) addr 8 with | some c => some c | none => some 0x13

/-! ### The commands -/

/-- R15, R120: a running strand's 64-bit write of a register under hull register `h`; without the granting hull the register keeps its
value and the strand takes the fault of the first check that fails. -/
def State.strandWrite (s : State) (w : Site) (h addr : Nat) (v : W64) : State :=
  let t := s.strand w
  if !t.running || decide (t.park ≠ .none) || !s.podRuns w.core.val || s.padWaits addr then s
  else if addr % 8 ≠ 0 then s.takeFault w (fltA 0x02 addr h 0 true false)
  else
    match regHullFault s (s.h w h) addr true with
    | some c => s.takeFault w (fltA c (if c = 0x0D then hullFailAt (s.h w h) addr else addr) h 0 true false)
    | none => s.regWrite (.strand w.core.val t.dom) addr v

/-- REG_WRITE (R14, R15, R23): a write by Luami, by a function through its BAR0, or by a strand under a hull. -/
def execRegWrite (p : RegPath) (value : BitVec 64) (s : State) : Out :=
  .next (
    match p with
    | .luami addr => s.regWrite .luami addr value
    | .host f off => s.hostWrite f.val off.toNat value
    | .strand w h addr => s.strandWrite w h.toNat addr value)

/-- REG_READ (R477): up to six words of the register region. -/
def execRegRead (m : Fin 320) (s : State) : Out :=
  .next (s.serve m.val 0x0004 [(8, 17)] .pf fun s _ =>
    let a := (s.mbx m.val).at 8 8
    let n := (s.mbx m.val).at 16 1
    if a % 8 ≠ 0 || !isRegister a then s.respond m.val .badparam 8 []
    else if n < 1 || n > 6 || !isRegister (a + 8 * (n - 1)) then s.respond m.val .badparam 16 []
    else if (List.range n).any fun i => s.padWaits (a + 8 * i) then s
    else s.respond m.val .ok 0 [(8, (List.range n).flatMap fun i => leBytes 8 (s.regRead (a + 8 * i)).toNat)])

end Sys2Proof.Machine
end

