-- ==== Sys2Proof/Machine/LoadStore.lean ====
section
/-! DEFINITION. Loads, stores, atomics, gathers, and the events of the memory pipeline of a core: miss delivery, L1I
fill, table walk, a buffered store performed, a scratchpad load's return (R91-R98, R105, R106, R143, R300, R330-R334). -/

namespace Sys2Proof.Machine

/-- Where a checked access goes. -/
inductive Acc where
  | mem (pa : Nat) (leaf : W64)
  | reg (pa : Nat)
  deriving DecidableEq, Repr

/-- R96: alignment, hull, translation, in order; `wide` marks LDD and STD, the only accesses a register window takes. -/
def State.resolve (s : State) (w : Site) (h : RegField) (addr size : Nat) (write wide : Bool) (k : Acc → State → Res) : Res :=
  let hv := s.h w h.toNat
  let unit := (decide (hType hv = 4) || decide (hType hv = 5)) && !hMalformed hv
  if h.toNat ≥ 16 then .fault s (flt 0x01)
  else if (unit && isRegister addr && !(wide && decide (addr % 8 = 0))) || decide (addr % size ≠ 0) then
    .fault s (fltA 0x02 addr h.toNat 0 write false)
  else if unit then
    match regHullFault s hv addr write with
    | some c => .fault s (fltA c (if c = 0x0D then hullFailAt hv addr else addr) h.toNat 0 write false)
    | none => k (.reg addr) s
  else
    match hullCheck s hv 1 (if write then rWRITE else rREAD) addr size with
    | some c => .fault s (fltA c (if c = 0x0D then hullFailAt hv addr else addr) h.toNat 0 write false)
    | none => s.onPage w (hSeal hv) addr (if write then .write else .read) h.toNat fun pa leaf s => k (.mem pa leaf) s

/-- R107: the address of an M-format access: g_a + off10 x size, modulo 2^64. -/
def memAddr (s : State) (w : Site) (a : RegField) (off : BitVec 10) (size : Nat) : Nat :=
  (s.g w a + (off.signExtend 64) * BitVec.ofNat 64 size).toNat

/-- R97, R300, R331: a checked load: a register window is a miss; the own scratchpad answers directly; another core's
scratchpad has four outstanding loads; HBM goes through L1D. -/
def State.loadFrom (s : State) (w : Site) (acc : Acc) (va size : Nat) (dest : MissDest) (dom : DomNo) (e : MemErr) : Res :=
  match acc with
  | .reg pa => s.startMiss w pa size dest false false
  | .mem pa _ =>
    let c := w.core.val
    match regionOf pa with
    | .scratch o _ =>
      if o = c then
        let b := scratchBytes e (overlay (s.core c).wbuf pa (s.homeBytes pa size))
        .done ((s.scratchErr pa e).deliver w dest b)
      else if (s.strand w).spLoads.length ≥ 4 then .wait .none
      else
        let k := s.core c
        let m : Miss := ⟨pa, size, dest, forwarded k.wbuf pa size, k.serial, false, decide (e = .uncorrectable)⟩
        .done ((s.scratchErr pa e).modStrand w fun t => { t with spLoads := t.spLoads ++ [m] })
    | _ =>
      let s := (s.modCore c fun k => k.touchStreams dom va).count c 0x10 w.strand.val 1
      match l1Find (s.core c).l1d 8 pa with
      | some i =>
        if e = .parity then (s.l1Parity c pa i).startMiss w pa size dest true false
        else
          let b := overlay (s.core c).wbuf pa (l1Bytes (s.core c).l1d i pa size)
          .done ((s.modCore c fun k => { k with l1d := l1Hit k.l1d i }).deliver w dest b)
      | none => s.startMiss w pa size dest true false

/-- The shared load (R96, R97). -/
def loadOp (w : Site) (t a h : RegField) (off : BitVec 10) (e : MemErr) (size : Nat) (signed : Bool) (s : State) : Out :=
  .next (s.issue w [.g t.toNat, .g a.toNat, .h h.toNat] fun s =>
    let addr := memAddr s w a off size
    let dom := hSeal (s.h w h.toNat)
    s.resolve w h addr size false (decide (size = 8)) fun acc s =>
      s.loadFrom w acc addr size (.greg t.toNat size signed) dom e)

/-- LDB. -/
def execLdb (w : Site) (t a h : RegField) (off : BitVec 10) (e : MemErr) (s : State) : Out := loadOp w t a h off e 1 true s
/-- LDBU. -/
def execLdbu (w : Site) (t a h : RegField) (off : BitVec 10) (e : MemErr) (s : State) : Out := loadOp w t a h off e 1 false s
/-- LDH. -/
def execLdh (w : Site) (t a h : RegField) (off : BitVec 10) (e : MemErr) (s : State) : Out := loadOp w t a h off e 2 true s
/-- LDHU. -/
def execLdhu (w : Site) (t a h : RegField) (off : BitVec 10) (e : MemErr) (s : State) : Out := loadOp w t a h off e 2 false s
/-- LDW. -/
def execLdw (w : Site) (t a h : RegField) (off : BitVec 10) (e : MemErr) (s : State) : Out := loadOp w t a h off e 4 true s
/-- LDWU. -/
def execLdwu (w : Site) (t a h : RegField) (off : BitVec 10) (e : MemErr) (s : State) : Out := loadOp w t a h off e 4 false s
/-- LDD. -/
def execLdd (w : Site) (t a h : RegField) (off : BitVec 10) (e : MemErr) (s : State) : Out := loadOp w t a h off e 8 false s

/-- LDV: 16 aligned bytes into v_t (R96, R108). -/
def execLdv (w : Site) (t a h : RegField) (off : BitVec 10) (e : MemErr) (s : State) : Out :=
  .next (s.issue w [.v t.toNat, .g a.toNat, .h h.toNat] fun s =>
    let addr := memAddr s w a off 16
    let dom := hSeal (s.h w h.toNat)
    s.resolve w h addr 16 false false fun acc s => s.loadFrom w acc addr 16 (.vreg t.toNat) dom e)

/-- R98, R239: a store to a register window enters the buffer like any other, but one to an activation table's register is held while a
drain uses the table, and then takes effect as it issues. -/
def State.storeReg (s : State) (w : Site) (pa : Nat) (b : List Byte) : Res :=
  match regAt pa with
  | some (.accTable c off) =>
    match tableOf off with
    | some t =>
      if (s.core c).tableBusy t then .wait .none
      else .done ((s.modCore c Core.settleTables).modAcc c fun a => a.setTable off (BitVec.ofNat 64 (leNat b)))
    | none => s.pushStore w pa b false
  | _ => s.pushStore w pa b false

/-- The shared store (R96, R98). -/
def storeOp (w : Site) (t : RegRef) (a h : RegField) (off : BitVec 10) (size : Nat) (val : State → Nat) (s : State) : Out :=
  .next (s.issue w [t, .g a.toNat, .h h.toNat] fun s =>
    let addr := memAddr s w a off size
    let b := leBytes size (val s)
    s.resolve w h addr size true (decide (size = 8)) fun acc s =>
      match acc with
      | .reg pa => s.storeReg w pa b
      | .mem pa _ => s.pushStore w pa b false)

/-- STB. -/
def execStb (w : Site) (t a h : RegField) (off : BitVec 10) (s : State) : Out :=
  storeOp w (.g t.toNat) a h off 1 (fun s => (s.g w t).toNat) s
/-- STH. -/
def execSth (w : Site) (t a h : RegField) (off : BitVec 10) (s : State) : Out :=
  storeOp w (.g t.toNat) a h off 2 (fun s => (s.g w t).toNat) s
/-- STW. -/
def execStw (w : Site) (t a h : RegField) (off : BitVec 10) (s : State) : Out :=
  storeOp w (.g t.toNat) a h off 4 (fun s => (s.g w t).toNat) s
/-- STD. -/
def execStd (w : Site) (t a h : RegField) (off : BitVec 10) (s : State) : Out :=
  storeOp w (.g t.toNat) a h off 8 (fun s => (s.g w t).toNat) s
/-- STV: 16 aligned bytes of v_t. -/
def execStv (w : Site) (t a h : RegField) (off : BitVec 10) (s : State) : Out :=
  storeOp w (.v t.toNat) a h off 16 (fun s => (s.v w t).toNat) s

/-! ### Atomics (R98) -/

/-- R98: the new value of an AMO on `bytes`-wide values. -/
def amoNew (op bytes : Nat) (old b cmp : Nat) : Nat :=
  let w := 8 * bytes
  let b := b % 2 ^ w
  let sg := toSigned w
  match op with
  | 0 => (old + b) % 2 ^ w
  | 1 => b
  | 2 => old &&& b
  | 3 => old ||| b
  | 4 => old ^^^ b
  | 5 => if sg old < sg b then b else old
  | 6 => if sg b < sg old then b else old
  | 7 => if old < b then b else old
  | 8 => if b < old then b else old
  | _ => if old = cmp % 2 ^ w then b else old

/-- The shared AMO: size 0b10 is a word, 0b11 a double word, others reserved; it needs WRITE, never reaches a register
window, and counts as a miss (R96-R98, R116). -/
def amoOp (op : Nat) (w : Site) (d a b : RegField) (h : BitVec 4) (size : BitVec 2) (s : State) : Out :=
  .next (s.issue w [.g d.toNat, .g a.toNat, .g b.toNat, .h h.toNat] fun s =>
    if size.toNat < 2 then .fault s (flt 0x01)
    else
      let n := 2 ^ size.toNat
      let addr := (s.g w a).toNat
      let hf : RegField := h.setWidth 5
      s.resolve w hf addr n true false fun acc s =>
        match acc with
        | .reg _ => .fault s (fltA 0x02 addr h.toNat 0 true false)
        | .mem pa _ => s.startMiss w pa n (.amo d.toNat n op (s.g w b) (s.g w d)) false false)

/-- AMO ADD. -/
def execAmoAdd (w : Site) (d a b : RegField) (h : BitVec 4) (size : BitVec 2) (s : State) : Out := amoOp 0 w d a b h size s
/-- AMO SWAP. -/
def execAmoSwap (w : Site) (d a b : RegField) (h : BitVec 4) (size : BitVec 2) (s : State) : Out := amoOp 1 w d a b h size s
/-- AMO AND. -/
def execAmoAnd (w : Site) (d a b : RegField) (h : BitVec 4) (size : BitVec 2) (s : State) : Out := amoOp 2 w d a b h size s
/-- AMO OR. -/
def execAmoOr (w : Site) (d a b : RegField) (h : BitVec 4) (size : BitVec 2) (s : State) : Out := amoOp 3 w d a b h size s
/-- AMO XOR. -/
def execAmoXor (w : Site) (d a b : RegField) (h : BitVec 4) (size : BitVec 2) (s : State) : Out := amoOp 4 w d a b h size s
/-- AMO MAX, signed. -/
def execAmoMax (w : Site) (d a b : RegField) (h : BitVec 4) (size : BitVec 2) (s : State) : Out := amoOp 5 w d a b h size s
/-- AMO MIN, signed. -/
def execAmoMin (w : Site) (d a b : RegField) (h : BitVec 4) (size : BitVec 2) (s : State) : Out := amoOp 6 w d a b h size s
/-- AMO MAXU. -/
def execAmoMaxu (w : Site) (d a b : RegField) (h : BitVec 4) (size : BitVec 2) (s : State) : Out := amoOp 7 w d a b h size s
/-- AMO MINU. -/
def execAmoMinu (w : Site) (d a b : RegField) (h : BitVec 4) (size : BitVec 2) (s : State) : Out := amoOp 8 w d a b h size s
/-- AMO CAS: g_d compares, g_b is the new value. -/
def execAmoCas (w : Site) (d a b : RegField) (h : BitVec 4) (size : BitVec 2) (s : State) : Out := amoOp 9 w d a b h size s

/-! ### Gathers (R105, R106) -/

/-- R106: GPROG naming element `e` of the gather at `pc`. -/
def gprogWord (e : Nat) (pc : VAddr) : W64 := BitVec.ofNat 64 (e % 32 + 32 + fld pc 56 2 * 256)

/-- R105: the signed index of element `i`. -/
def gatherIndex (s : State) (w : Site) (vb : RegField) (size i : Nat) : Int :=
  if size < 2 then toSigned 16 (fld (s.v w (vb + BitVec.ofNat 5 (i / 8))) (16 * (i % 8) + 15) (16 * (i % 8)))
  else toSigned 32 (fld (s.v w vb) (32 * i + 31) (32 * i))

/-- R106: elements `i` to `n - 1` in ascending order. Progress before a stop is in vd and GPROG; a strand that stops to wait keeps the
gather port, one that completes or faults frees it. -/
def gatherLoop (w : Site) (vd ga vb : RegField) (h : BitVec 4) (size n : Nat) (m : ErrMap) : Nat → Nat → State → Res
  | 0, _, _ => .wait .none
  | fuel + 1, i, s =>
    let es := 2 ^ size
    if i ≥ n then
      let s := s.modBank w fun b =>
        { (b.writeV vd.toNat (BitVec.ofNat 128 ((b.readV vd.toNat).toNat % 2 ^ (8 * es * n)))) with gprog := setBit b.gprog 5 false }
      .done (s.modStrand w fun t => { t with gather := false })
    else
      let c := w.core.val
      let e := errAt m i
      let addr := ((s.g w ga) + BitVec.ofInt 64 (gatherIndex s w vb size i * es)).toNat
      let hv := s.h w h.toNat
      let stop := fun (s : State) => s.modBank w fun b => { b with gprog := gprogWord i b.pc }
      let r := s.resolve w (h.setWidth 5) addr es false false fun acc s' =>
        match acc with
        | .reg _ => .fault s' (fltA 0x02 addr h.toNat 0 false false)
        | .mem pa _ =>
          let lane := fun (s : State) (b : List Byte) =>
            s.modBank w fun k => k.writeV vd.toNat (setFld (k.readV vd.toNat) (8 * es * i + 8 * es - 1) (8 * es * i) (leNat b))
          match regionOf pa with
          | .scratch _ _ =>
            if s'.padWaits pa then .wait .none
            else .done ((lane (s'.scratchErr pa e) (scratchBytes e (overlay (s'.core c).wbuf pa (s'.homeBytes pa es)))).count c 0x17 w.strand.val 1)
          | _ =>
            let s' := s'.modCore c fun k => k.touchStreams (hSeal hv) addr
            let s' := match e, l1Find (s'.core c).l1d 8 pa with
              | .parity, some j => s'.l1Parity c pa j
              | _, _ => s'
            match l1Find (s'.core c).l1d 8 pa with
            | some j =>
              let b := overlay (s'.core c).wbuf pa (l1Bytes (s'.core c).l1d j pa es)
              .done ((lane (s'.modCore c fun k => { k with l1d := l1Hit k.l1d j }) b).count c 0x17 w.strand.val 1)
            | none =>
              if (s'.strand w).miss.isSome then .hold (s'.park w .secondMiss)
              else .hold ((s'.modStrand w fun t => { t with miss := some ⟨pa, es, .gather, [], 0, true, false⟩ }).park w .fill)
      match r with
      | .done s' => gatherLoop w vd ga vb h size n m fuel (i + 1) s'
      | .fault s' f => .fault (stop s') { f with info := f.info ||| infoWord (some h.toNat) (some i) 0 false false false }
      | .hold s' => .hold (stop s')
      | .wait p => .hold ((stop s).parkFor w p)
      | r => r

/-- R105: the registers a gather uses: vb + 1 only where two index registers are needed. -/
def gatherUses (vd ga vb : RegField) (h : BitVec 4) (size : BitVec 2) : List RegRef :=
  [.v vd.toNat, .g ga.toNat, .v vb.toNat] ++ (if size = 0 then [.v (vb.toNat + 1)] else []) ++ [.h h.toNat]

/-- R106: another strand of the core holds its gather port. -/
def Core.gatherBusy (k : Core) (st : Nat) : Bool := (List.range 8).any fun i => decide (i ≠ st) && (k.strand i).gather

/-- VGATHER (R105, R106). While another strand holds the core's gather port it is not ready (R91). -/
def execVgather (w : Site) (vd ga vb : RegField) (h : BitVec 4) (size : BitVec 2) (count : BitVec 4) (e : ErrMap)
    (s : State) : Out :=
  .next (s.issue w (gatherUses vd ga vb h size) fun s =>
    let n := count.toNat + 1
    let two := decide (size = 0)
    if (s.core w.core.val).gatherBusy w.strand.val then .wait .none
    else if n > 16 / 2 ^ size.toNat || decide (vd = vb) || (two && decide (vd = vb + 1)) || (two && decide (vb.toNat % 2 = 1)) then
      .fault s (flt 0x01)
    else if (s.g w ga).toNat % 2 ^ size.toNat ≠ 0 then .fault s (fltA 0x02 (s.g w ga).toNat h.toNat 0 false false)
    else
      let b := s.bank w
      let start := if bit b.gprog 5 && decide (fld b.gprog 62 8 = fld b.pc 56 2) then fld b.gprog 4 0 else 0
      gatherLoop w vd ga vb h size.toNat n e 17 start (s.modStrand w fun t => { t with gather := true }))

/-! ### Events of the memory pipeline -/

/-- R330: an access may not pass an older buffered store of its core to the same line. -/
def Core.olderStore (k : Core) (m : Miss) : Bool :=
  k.wbuf.any fun e => decide (lineOf e.pa = lineOf m.pa) && decide (e.serial < m.snap)

/-- R98: what an atomic operation reads at its home, which it then writes in the same access. -/
def State.atomicRead (s : State) (pa n : Nat) : State × List Byte :=
  if isHbm pa then
    let s := s.llcArrive (lineOf pa) false
    (s, if s.readsDead (lineOf pa) then List.replicate n 0 else s.homeBytes pa n)
  else s.scratchRead pa n

/-- The state after an outstanding miss's data is taken at home (R97, R98, R331). -/
def State.missPerform (s : State) (w : Site) (m : Miss) : State :=
  let c := w.core.val
  match m.dest with
  | .amo r n op b cmp =>
    let x := s.atomicRead m.pa n
    let old := leNat x.2
    let s := x.1.writeMem m.pa (leBytes n (amoNew op n old b.toNat cmp.toNat))
    let s := s.modCore c fun k => { k with l1d := l1Drop k.l1d 8 m.pa }
    s.modBank w fun k => k.writeG r (extend n true old)
  | .hcall _ => s
  | _ =>
    if isRegister m.pa then s.deliver w m.dest (leBytes 8 (s.regRead m.pa).toNat)
    else
      let line := m.pa / 128 * 128
      if m.fill && isHbm m.pa then
        let r := s.readMem line 128
        let s := if (l1Find (r.1.core c).l1d 8 m.pa).isNone then
            r.1.modCore c fun k => { k with l1d := l1Install k.l1d 8 m.pa 1 (overlay k.wbuf line r.2) }
          else r.1
        s.deliver w m.dest (applyFwd m.fwd (bytesAt r.2 (m.pa % 128) m.size))
      else
        let r := s.readMem m.pa m.size
        r.1.deliver w m.dest (applyFwd m.fwd r.2)

/-- MISS_DATA_DELIVER (R97): the outstanding miss delivers, unless it waits for a parked pod (R486); strands parked on it are released, and an accepted second miss
becomes the outstanding one. A miss that merged with a stream fill is that fill's arrival (R321). The entry block of an HCALL continues in
R128. -/
def execMissDataDeliver (w : Site) (e : ErrMap) (s : State) : Out :=
  .next (s.finding e fun s =>
    match (s.strand w).miss with
    | none => s
    | some m =>
      if s.padWaits m.pa then s
      else if (s.core w.core.val).olderStore m && (match m.dest with | .amo _ _ _ _ _ => true | .hcall _ => true | _ => false) then s
      else
        match m.dest with
        | .hcall d =>
          let r := s.readMem m.pa 64
          r.1.hcallArrive w d r.2
        | _ =>
          match if m.fill then (s.core w.core.val).pfills.findIdx? fun f => !f.l2 && decide (lineOf f.pa = lineOf m.pa) else none with
          | some i => s.fillArrives w.core.val i
          | none => (s.missPerform w m).missEnds w)

/-- R93: the physical address of the next instruction that strand `w` is certain to need and L1I does not hold: the one that follows
what its buffer holds. -/
def State.fetchWants (s : State) (w : Site) : Option Nat :=
  let k := s.core w.core.val
  let q := k.ibuf w.strand.val
  let b := (s.bank w).past q
  let h := b.readH 15
  if !(s.strand w).running || fetchStopped q || q.length ≥ 4 || (hullCheck s h 1 rEXEC b.pc.toNat 4).isSome then none
  else
    match s.strandTr w.core.val (hSeal h) b.pc.toNat .fetch with
    | .ok pa _ => if (l1Find k.l1i 4 pa).isNone then some pa else none
    | _ => none

/-- R333: the line holding `pa` is read at its home and installed in L1I at age 1. -/
def State.l1iInstall (s : State) (c pa : Nat) : State :=
  let r := s.readMem (pa / 128 * 128) 128
  r.1.modCore c fun k => if (l1Find k.l1i 4 pa).isNone then { k with l1i := l1Install k.l1i 4 pa 1 r.2 } else k

/-- R334: the fetch of the strand's next instruction finds a parity error in its L1I line: the line is invalidated, counted and
recorded with its way, and the fetch is a miss. -/
def State.l1iParity (s : State) (w : Site) : State :=
  let c := w.core.val
  match s.strandTr c (hSeal ((s.bank w).readH 15)) (s.pcOf w).toNat .fetch with
  | .ok pa _ =>
    match l1Find (s.core c).l1i 4 pa with
    | some i =>
      if s.buffered w || !(s.strand w).running || decide ((s.strand w).park ≠ .none) then s
      else
        let s := s.modCore c fun k => { k with l1i := l1Drop k.l1i 4 pa, l1iCount := satInc k.l1iCount 1 }
        (s.raise 0x23F (srcCore c) (i % 4) 0 0).parkFor w (.l1i pa)
    | none => s
  | _ => s

/-- L1I_FILL (R333, R334): the line of the strand's next instruction arrives and the strand becomes ready, or the line of a later
instruction that the strand is certain to need (R93, R94); `parity`: a line found bad is fetched again. -/
def execL1iFill (w : Site) (parity : Bool) (e : ErrMap) (s : State) : Out :=
  .next (s.finding e fun s =>
    let s := if parity then s.l1iParity w else s
    match (s.strand w).park with
    | .l1i pa => ((s.l1iInstall w.core.val pa).park w .none).refill w
    | _ =>
      match s.fetchWants w with
      | some pa => (s.l1iInstall w.core.val pa).refill w
      | none => s)

/-- R143, R329: the reads of a walk of `va` from the table `t` at a level on, each through the LLC of its table's home die. -/
def State.walkReads (s : State) (va : Nat) : Nat → Nat → Nat → State
  | 0, _, _ => s
  | fuel + 1, level, t =>
    let r := s.readMem (t + 8 * pteIndex level va) 8
    let e : W64 := BitVec.ofNat 64 (leNat r.2)
    if bit e 0 && !bit e 1 && decide (level < 4) then r.1.walkReads va fuel (level + 1) (pteAddr e) else r.1

/-- TABLE_WALK_DONE (R91, R141, R143): the walk ends: the translation is cached and the strand is ready again, or the
access faults, or waits for a page-in. `e` is what the check codes of memory find. -/
def execTableWalkDone (w : Site) (e : ErrMap) (s : State) : Out :=
  .next (s.finding e fun s =>
    match (s.strand w).park with
    | .walk d va kind hreg =>
      let s := if (s.dom d).state = 0 then s else s.walkReads va 4 1 (s.dom d).root
      match s.walk d va with
      | .invalid l => (s.park w .none).takeFault w (fltA 0x10 va hreg l kind.isWrite (decide (kind = .fetch)))
      | .leaf l e =>
        match s.lostOr d l va (leafCheck l e va kind) with
        | .fault c l => (s.park w .none).takeFault w (fltA c va hreg l kind.isWrite (decide (kind = .fetch)))
        | .pageIn => s.park w (.pageIn d va)
        | .ok _ _ =>
          let t : TlbEntry := ⟨d, va / leafSize l * leafSize l, l, e⟩
          ((s.modCore w.core.val fun k => { k with tlb := t :: k.tlb }).park w .none).countDie (dieOfCore w.core.val) 0x15 0 1
    | _ => s)

/-- R305: a strand parked until its own stores are performed goes on when none is left. -/
def Core.releaseFences (k : Core) : Core :=
  (List.range 8).foldl (fun k i =>
    if decide ((k.strand i).park = .fence1) && !k.wbuf.any fun e => decide (e.strand = i) then
      k.setStrand i { k.strand i with park := .none }
    else k) k

/-- R330: an older outstanding access of the core to the entry's line that the store may not pass. -/
def Core.olderMiss (k : Core) (e : StoreEntry) : Bool :=
  (List.range 8).any fun i =>
    ((k.strand i).miss.toList ++ (k.strand i).miss2.toList ++ (k.strand i).spLoads).any fun m =>
      decide (lineOf m.pa = lineOf e.pa) && decide (m.snap ≤ e.serial)

/-- STORE_PERFORMED (R98): buffer entry `n` of a core is performed at its home and freed, unless an older access of the core
to its line is still to come (R330) or it waits for a parked pod (R486). -/
def execStorePerformed (core : Fin 256) (n : Fin 16) (e : ErrMap) (s : State) : Out :=
  .next (s.finding e fun s =>
    let k := s.core core.val
    match k.wbuf[n.val]? with
    | none => s
    | some e =>
      if (k.wbuf.take n.val).any (fun o => decide (lineOf o.pa = lineOf e.pa)) || k.olderMiss e || s.padWaits e.pa then s
      else
        let s := s.setCore core.val { k with wbuf := k.wbuf.eraseIdx n.val }
        let s := if isRegister e.pa then
            s.regWrite (.strand core.val e.user) e.pa (BitVec.ofNat 64 (leNat e.bytes))
          else
            let s := s.writeMem e.pa e.bytes
            s.modCore core.val fun k => { k with l1d := if isHbm e.pa && !e.hull then l1Store k.l1d e.pa e.bytes else k.l1d }
        (s.modCore core.val Core.releaseFences).releaseTaskFences core.val)

/-- SCRATCHPAD_LOAD_RETURN (R300): outstanding load `k` of another core's scratchpad returns its data. -/
def execScratchpadLoadReturn (w : Site) (k : Fin 4) (s : State) : Out :=
  .next (
    match (s.strand w).spLoads[k.val]? with
    | none => s
    | some m =>
      if s.padWaits m.pa then s else
      let b := if m.parityErr then List.replicate m.size 0 else applyFwd m.fwd (s.homeBytes m.pa m.size)
      (s.deliver w m.dest b).modStrand w fun t => { t with spLoads := t.spLoads.eraseIdx k.val })

end Sys2Proof.Machine
end

