-- ==== Sys2Proof/Machine/Scalar.lean ====
section
/-! DEFINITION. The integer register instructions: major opcodes 0x01-0x0C (R108, R109). One definition per
instruction over the shared operand forms. -/

namespace Sys2Proof.Machine

/-- ADD: g_d takes g_a + g_b (R108). -/
def execAdd (w : Site) (d a b : RegField) (s : State) : Out := opR w d a b (fun x y => x + y) s
/-- SUB: g_d takes g_a - g_b (R108). -/
def execSub (w : Site) (d a b : RegField) (s : State) : Out := opR w d a b (fun x y => x - y) s
/-- AND (R108). -/
def execAnd (w : Site) (d a b : RegField) (s : State) : Out := opR w d a b (fun x y => x &&& y) s
/-- OR (R108). -/
def execOr (w : Site) (d a b : RegField) (s : State) : Out := opR w d a b (fun x y => x ||| y) s
/-- XOR (R108). -/
def execXor (w : Site) (d a b : RegField) (s : State) : Out := opR w d a b (fun x y => x ^^^ y) s
/-- ANDN: g_a AND NOT g_b (R108). -/
def execAndn (w : Site) (d a b : RegField) (s : State) : Out := opR w d a b (fun x y => x &&& ~~~y) s
/-- SLL by g_b[5:0] (R108). -/
def execSll (w : Site) (d a b : RegField) (s : State) : Out := opR w d a b (fun x y => x <<< shamt y) s
/-- SRL by g_b[5:0] (R108). -/
def execSrl (w : Site) (d a b : RegField) (s : State) : Out := opR w d a b (fun x y => x >>> shamt y) s
/-- SRA by g_b[5:0] (R108). -/
def execSra (w : Site) (d a b : RegField) (s : State) : Out := opR w d a b (fun x y => x.sshiftRight (shamt y)) s
/-- ROTR by g_b[5:0] (R108). -/
def execRotr (w : Site) (d a b : RegField) (s : State) : Out := opR w d a b (fun x y => x.rotateRight (shamt y)) s
/-- SLT: 1 if g_a < g_b signed (R108). -/
def execSlt (w : Site) (d a b : RegField) (s : State) : Out := opR w d a b (fun x y => boolW (x.slt y)) s
/-- SLTU: 1 if g_a < g_b unsigned (R108). -/
def execSltu (w : Site) (d a b : RegField) (s : State) : Out := opR w d a b (fun x y => boolW (x.ult y)) s
/-- MIN, signed (R108). -/
def execMin (w : Site) (d a b : RegField) (s : State) : Out := opR w d a b (fun x y => if x.slt y then x else y) s
/-- MINU (R108). -/
def execMinu (w : Site) (d a b : RegField) (s : State) : Out := opR w d a b (fun x y => if x.ult y then x else y) s
/-- MAX, signed (R108). -/
def execMax (w : Site) (d a b : RegField) (s : State) : Out := opR w d a b (fun x y => if x.slt y then y else x) s
/-- MAXU (R108). -/
def execMaxu (w : Site) (d a b : RegField) (s : State) : Out := opR w d a b (fun x y => if x.ult y then y else x) s
/-- MUL: the low 64 bits of the product (R92, R108). -/
def execMul (w : Site) (d a b : RegField) (s : State) : Out := opR w d a b (fun x y => x * y) s
/-- MULH: the high 64 bits of the signed product. -/
def execMulh (w : Site) (d a b : RegField) (s : State) : Out :=
  opR w d a b (fun x y => highHalf (x.toInt * y.toInt)) s
/-- MULHU: the high 64 bits of the unsigned product. -/
def execMulhu (w : Site) (d a b : RegField) (s : State) : Out :=
  opR w d a b (fun x y => highHalf ((x.toNat : Int) * (y.toNat : Int))) s
/-- MULHSU: the high 64 bits of signed g_a by unsigned g_b (DEDUCED, log entry 6). -/
def execMulhsu (w : Site) (d a b : RegField) (s : State) : Out :=
  opR w d a b (fun x y => highHalf (x.toInt * (y.toNat : Int))) s
/-- DIV: signed, toward zero (R109). -/
def execDiv (w : Site) (d a b : RegField) (s : State) : Out := opR w d a b divS s
/-- DIVU (R109). -/
def execDivu (w : Site) (d a b : RegField) (s : State) : Out := opR w d a b divU s
/-- REM: the remainder with the sign of the dividend (R109). -/
def execRem (w : Site) (d a b : RegField) (s : State) : Out := opR w d a b remS s
/-- REMU (R109). -/
def execRemu (w : Site) (d a b : RegField) (s : State) : Out := opR w d a b remU s
/-- CMOV: g_d takes g_a if g_b is not 0 (R108). -/
def execCmov (w : Site) (d a b : RegField) (s : State) : Out :=
  .next (s.issue w [.g d.toNat, .g a.toNat, .g b.toNat] fun s =>
    .done (if s.g w b ≠ 0 then s.setG w d (s.g w a) else s))
/-- CLZ: 64 for zero (R108). -/
def execClz (w : Site) (d a : RegField) (s : State) : Out := opU w d a (fun x => BitVec.ofNat 64 (clz 64 x.toNat)) s
/-- CTZ: 64 for zero (R108). -/
def execCtz (w : Site) (d a : RegField) (s : State) : Out := opU w d a (fun x => BitVec.ofNat 64 (ctz 64 x.toNat)) s
/-- POPC (R108). -/
def execPopc (w : Site) (d a : RegField) (s : State) : Out := opU w d a (fun x => BitVec.ofNat 64 (popcount 64 x.toNat)) s
/-- SEXTB (R108). -/
def execSextb (w : Site) (d a : RegField) (s : State) : Out := opU w d a (fun x => (x.setWidth 8).signExtend 64) s
/-- SEXTH (R108). -/
def execSexth (w : Site) (d a : RegField) (s : State) : Out := opU w d a (fun x => (x.setWidth 16).signExtend 64) s
/-- SEXTW (R108). -/
def execSextw (w : Site) (d a : RegField) (s : State) : Out := opU w d a (fun x => (x.setWidth 32).signExtend 64) s
/-- ZEXTW (R108). -/
def execZextw (w : Site) (d a : RegField) (s : State) : Out := opU w d a (fun x => (x.setWidth 32).setWidth 64) s
/-- ADDI (R108). -/
def execAddi (w : Site) (d a : RegField) (imm : BitVec 15) (s : State) : Out := opI w d a imm (fun x y => x + y) s
/-- ANDI (R108). -/
def execAndi (w : Site) (d a : RegField) (imm : BitVec 15) (s : State) : Out := opI w d a imm (fun x y => x &&& y) s
/-- ORI (R108). -/
def execOri (w : Site) (d a : RegField) (imm : BitVec 15) (s : State) : Out := opI w d a imm (fun x y => x ||| y) s
/-- XORI (R108). -/
def execXori (w : Site) (d a : RegField) (imm : BitVec 15) (s : State) : Out := opI w d a imm (fun x y => x ^^^ y) s
/-- SLTI: signed compare (R108). -/
def execSlti (w : Site) (d a : RegField) (imm : BitVec 15) (s : State) : Out := opI w d a imm (fun x y => boolW (x.slt y)) s
/-- SLTIU: unsigned compare with the sign-extended immediate (R107, R108). -/
def execSltiu (w : Site) (d a : RegField) (imm : BitVec 15) (s : State) : Out := opI w d a imm (fun x y => boolW (x.ult y)) s
/-- SLLI: imm[14:6] must be 0 (R108). -/
def execSlli (w : Site) (d a : RegField) (imm : BitVec 15) (s : State) : Out := opShift w d a imm (fun x n => x <<< n) s
/-- SRLI (R108). -/
def execSrli (w : Site) (d a : RegField) (imm : BitVec 15) (s : State) : Out := opShift w d a imm (fun x n => x >>> n) s
/-- SRAI (R108). -/
def execSrai (w : Site) (d a : RegField) (imm : BitVec 15) (s : State) : Out := opShift w d a imm (fun x n => x.sshiftRight n) s
/-- LUI: sign-extend(imm20 << 12) (R108). -/
def execLui (w : Site) (d : RegField) (imm : BitVec 20) (s : State) : Out :=
  .next (s.issue w [.g d.toNat] fun s => .done (s.setG w d (upperImm imm)))
/-- AUIPC: PC + sign-extend(imm20 << 12) (R108). -/
def execAuipc (w : Site) (d : RegField) (imm : BitVec 20) (s : State) : Out :=
  .next (s.issue w [.g d.toNat] fun s => .done (s.setG w d (pc64 (s.pcOf w) + upperImm imm)))

end Sys2Proof.Machine
end

