-- ==== Sys2Proof/Machine/Tick.lean ====
section
/-! DEFINITION. The management tick (R484), and what a step does when no command waits. -/

namespace Sys2Proof.Machine

/-- R476, R484 step 1: the tick-bound command of mailbox `m` is applied. -/
def State.applyTickCmd (s : State) (m : Nat) : State :=
  let x := s.mbx m
  if !x.busy then s
  else
    match x.opcode with
    | 0x0006 => s.applyModuleReset m
    | 0x0100 => s.applyDomainCreate m
    | 0x0109 => s.applyQuotaSet m
    | 0x0300 => s.applyPodVoltage m
    | 0x0301 => s.applyPowerCap m
    | 0x0302 => s.applyPodPark m
    | 0x0701 => s.applyReset m true
    | 0x0702 => s.applyReset m false
    | _ => s

/-- R484 step 1: the commands accepted since the last boundary, in acceptance order (R476). -/
def State.applyTickCmds (s : State) : State :=
  let l := s.mgmt.pwr.tcmds
  l.foldl State.applyTickCmd (s.modPwr fun w => { w with tcmds := [] })

/-- R484 steps 1-8. TIME has reached the boundary. -/
def State.tick (s : State) (env : TickEnv) : State :=
  let s := s.modPwr fun w => { w with tick := w.tick + 1 }
  let now : W64 := BitVec.ofNat 64 (s.mgmt.pwr.tick * 500000)
  let s := { s with time := if s.time.toNat < now.toNat then now else s.time }
  let s := s.applyTickCmds
  let s := ((s.sampleTemps env).sampleRails env).sampleModule env
  let s := (s.thermalTick.capTick env.power).floorTick
  let s := (List.range 32).foldl State.targetTick s
  let s := ((List.range 32).foldl State.parkTick s).answerParks
  s.epochTick.noteTick env.works

/-- MGMT_TICK (R484): a tick boundary. A module reset that is due begins in its place (R544); without Luami, or while die M's
TIME stands (R45), there is no tick. -/
def execMgmtTick (env : TickEnv) (s : State) : Out :=
  .next (
    if s.mgmt.boot.due.isSome then s.dueReset
    else if s.mgmt.boot.state = .running && (tget none s.mgmt.stopped 4).isNone then s.tick env
    else s)

/-- What a step does when no command waits: a module reset that is due begins; else TIME counts, while the reference is good and the time
base runs (R45, R46), and the MSI-X messages under way reach the host, if the PCIe
island runs (log entry 2). -/
def State.idleTick (s : State) : State :=
  if s.mgmt.boot.due.isSome then s.dueReset
  else
    let s := s.modMgmt fun g => { g with msgs := if s.pcieStands then g.msgs else [] }
    match s.mgmt.boot.state with
    | .running => { s with time := s.time + 1 }
    | .waitCool => { s with time := s.time + 1 }
    | .stalled => { s with time := s.time + 1 }
    | _ => s

end Sys2Proof.Machine
end

