-- ==== Sys2Proof/Machine/Vector.lean ====
section
/-! DEFINITION. The short-vector unit: integer lanes, floating-point lanes, widening multiplies, dot products, lane
moves and conversions (R101-R104, R108). -/

namespace Sys2Proof.Machine

/-- The lane width in bits of minor [9:8]. -/
def laneW (lw : BitVec 2) : Nat := 8 * 2 ^ lw.toNat

/-- The lane format code (R51) of a VFP minor [9:8]; 3 is reserved. -/
def laneF (lf : BitVec 2) : Option Nat :=
  match lf.toNat with
  | 0 => some 2
  | 1 => some 3
  | 2 => some 1
  | _ => none

/-- Lane-wise f(va, vb, vd) at width `wd`. -/
def laneMap (wd : Nat) (f : Nat → Nat → Nat → Nat) (a b d : W128) : W128 :=
  ofLanes wd ((List.range (128 / wd)).map fun i => f (elemAt a.toNat wd i) (elemAt b.toNat wd i) (elemAt d.toNat wd i))

/-- V form over integer lanes: vd takes lane-wise f (width, va lane, vb lane, vd lane). -/
def opVint (w : Site) (lw : BitVec 2) (vd va vb : RegField) (f : Nat → Nat → Nat → Nat → Nat) (s : State) : Out :=
  .next (s.issue w [.v vd.toNat, .v va.toNat, .v vb.toNat] fun s =>
    .done (s.setV w vd (laneMap (laneW lw) (f (laneW lw)) (s.v w va) (s.v w vb) (s.v w vd))))

/-- A lane-wise compare: all ones or all zeros. -/
def laneMask (wd : Nat) (b : Bool) : Nat := if b then 2 ^ wd - 1 else 0

/-- Saturate an integer to a signed lane. -/
def satS (wd : Nat) (x : Int) : Nat := ofInt wd (max (-(2 ^ (wd - 1) : Nat)) (min ((2 ^ (wd - 1) - 1 : Nat) : Int) x))

/-- Saturate an integer to an unsigned lane. -/
def satU (wd : Nat) (x : Int) : Nat := ofInt wd (max 0 (min ((2 ^ wd - 1 : Nat) : Int) x))

/-- VINT ADD, modulo the lane width (R101). -/
def execVintAdd (w : Site) (lw : BitVec 2) (vd va vb : RegField) (s : State) : Out :=
  opVint w lw vd va vb (fun wd a b _ => (a + b) % 2 ^ wd) s

/-- VINT SUB, modulo the lane width (R101). -/
def execVintSub (w : Site) (lw : BitVec 2) (vd va vb : RegField) (s : State) : Out :=
  opVint w lw vd va vb (fun wd a b _ => (a + 2 ^ wd - b) % 2 ^ wd) s

/-- VINT ADDS: signed saturating (R101). -/
def execVintAdds (w : Site) (lw : BitVec 2) (vd va vb : RegField) (s : State) : Out :=
  opVint w lw vd va vb (fun wd a b _ => satS wd (toSigned wd a + toSigned wd b)) s

/-- VINT ADDUS: unsigned saturating (R101). -/
def execVintAddus (w : Site) (lw : BitVec 2) (vd va vb : RegField) (s : State) : Out :=
  opVint w lw vd va vb (fun wd a b _ => satU wd ((a : Int) + b)) s

/-- VINT SUBS: signed saturating (R101). -/
def execVintSubs (w : Site) (lw : BitVec 2) (vd va vb : RegField) (s : State) : Out :=
  opVint w lw vd va vb (fun wd a b _ => satS wd (toSigned wd a - toSigned wd b)) s

/-- VINT SUBUS: unsigned saturating (R101). -/
def execVintSubus (w : Site) (lw : BitVec 2) (vd va vb : RegField) (s : State) : Out :=
  opVint w lw vd va vb (fun wd a b _ => satU wd ((a : Int) - b)) s

/-- VINT MUL: the low half (R108). -/
def execVintMul (w : Site) (lw : BitVec 2) (vd va vb : RegField) (s : State) : Out :=
  opVint w lw vd va vb (fun wd a b _ => a * b % 2 ^ wd) s

/-- VINT MULH: the signed high half (R108). -/
def execVintMulh (w : Site) (lw : BitVec 2) (vd va vb : RegField) (s : State) : Out :=
  opVint w lw vd va vb (fun wd a b _ => ofInt wd (toSigned wd a * toSigned wd b / (2 ^ wd : Nat))) s

/-- VINT MULHU: the unsigned high half (R108). -/
def execVintMulhu (w : Site) (lw : BitVec 2) (vd va vb : RegField) (s : State) : Out :=
  opVint w lw vd va vb (fun wd a b _ => a * b / 2 ^ wd) s

/-- VINT MIN, signed (R108). -/
def execVintMin (w : Site) (lw : BitVec 2) (vd va vb : RegField) (s : State) : Out :=
  opVint w lw vd va vb (fun wd a b _ => if toSigned wd b < toSigned wd a then b else a) s

/-- VINT MINU (R108). -/
def execVintMinu (w : Site) (lw : BitVec 2) (vd va vb : RegField) (s : State) : Out :=
  opVint w lw vd va vb (fun _ a b _ => min a b) s

/-- VINT MAX, signed (R108). -/
def execVintMax (w : Site) (lw : BitVec 2) (vd va vb : RegField) (s : State) : Out :=
  opVint w lw vd va vb (fun wd a b _ => if toSigned wd a < toSigned wd b then b else a) s

/-- VINT MAXU (R108). -/
def execVintMaxu (w : Site) (lw : BitVec 2) (vd va vb : RegField) (s : State) : Out :=
  opVint w lw vd va vb (fun _ a b _ => max a b) s

/-- VINT SLL: counts from vb modulo the lane width (R108). -/
def execVintSll (w : Site) (lw : BitVec 2) (vd va vb : RegField) (s : State) : Out :=
  opVint w lw vd va vb (fun wd a b _ => a * 2 ^ (b % wd) % 2 ^ wd) s

/-- VINT SRL (R108). -/
def execVintSrl (w : Site) (lw : BitVec 2) (vd va vb : RegField) (s : State) : Out :=
  opVint w lw vd va vb (fun wd a b _ => a / 2 ^ (b % wd)) s

/-- VINT SRA (R108). -/
def execVintSra (w : Site) (lw : BitVec 2) (vd va vb : RegField) (s : State) : Out :=
  opVint w lw vd va vb (fun wd a b _ => ofInt wd (toSigned wd a / (2 ^ (b % wd) : Nat))) s

/-- VINT CMPEQ: all ones where equal (R108). -/
def execCmpeq (w : Site) (lw : BitVec 2) (vd va vb : RegField) (s : State) : Out :=
  opVint w lw vd va vb (fun wd a b _ => laneMask wd (decide (a = b))) s

/-- VINT CMPLT, signed (R108). -/
def execCmplt (w : Site) (lw : BitVec 2) (vd va vb : RegField) (s : State) : Out :=
  opVint w lw vd va vb (fun wd a b _ => laneMask wd (decide (toSigned wd a < toSigned wd b))) s

/-- VINT CMPLTU (R108). -/
def execCmpltu (w : Site) (lw : BitVec 2) (vd va vb : RegField) (s : State) : Out :=
  opVint w lw vd va vb (fun wd a b _ => laneMask wd (decide (a < b))) s

/-- VINT ABS; the most negative lane wraps (R101). -/
def execVintAbs (w : Site) (lw : BitVec 2) (vd va vb : RegField) (s : State) : Out :=
  opVint w lw vd va vb (fun wd a _ _ => ofInt wd (toSigned wd a).natAbs) s

/-- VINT NEG; the most negative lane wraps (R101). -/
def execVintNeg (w : Site) (lw : BitVec 2) (vd va vb : RegField) (s : State) : Out :=
  opVint w lw vd va vb (fun wd a _ _ => (2 ^ wd - a) % 2 ^ wd) s

/-- A bitwise operation on whole registers, which ignores the lane width (R108). -/
def opVbit (w : Site) (vd va vb : RegField) (f : W128 → W128 → W128 → W128) (s : State) : Out :=
  .next (s.issue w [.v vd.toNat, .v va.toNat, .v vb.toNat] fun s =>
    .done (s.setV w vd (f (s.v w va) (s.v w vb) (s.v w vd))))

/-- VINT AND (R108). -/
def execVintAnd (w : Site) (_lw : BitVec 2) (vd va vb : RegField) (s : State) : Out :=
  opVbit w vd va vb (fun a b _ => a &&& b) s

/-- VINT OR (R108). -/
def execVintOr (w : Site) (_lw : BitVec 2) (vd va vb : RegField) (s : State) : Out :=
  opVbit w vd va vb (fun a b _ => a ||| b) s

/-- VINT XOR (R108). -/
def execVintXor (w : Site) (_lw : BitVec 2) (vd va vb : RegField) (s : State) : Out :=
  opVbit w vd va vb (fun a b _ => a ^^^ b) s

/-- VINT ANDN: va AND NOT vb (R108). -/
def execVintAndn (w : Site) (_lw : BitVec 2) (vd va vb : RegField) (s : State) : Out :=
  opVbit w vd va vb (fun a b _ => a &&& ~~~b) s

/-- BSEL: (vd AND va) OR (NOT vd AND vb) (R108). -/
def execBsel (w : Site) (_lw : BitVec 2) (vd va vb : RegField) (s : State) : Out :=
  opVbit w vd va vb (fun a b d => (d &&& a) ||| (~~~d &&& b)) s

/-- V form over floating-point lanes: a reserved lane format faults with FLT_ILLEGAL (R108); vd takes lane-wise
f (format code, va lane, vb lane, vd lane). -/
def opVfp (w : Site) (lf : BitVec 2) (vd va vb : RegField) (f : Nat → Nat → Nat → Nat → Nat) (s : State) : Out :=
  .next (s.issue w [.v vd.toNat, .v va.toNat, .v vb.toNat] fun s =>
    match laneF lf with
    | none => .fault s (flt 0x01)
    | some c => .done (s.setV w vd (laneMap (fmtWidth c) (f c) (s.v w va) (s.v w vb) (s.v w vd))))

/-- A result rounded by RNE to a lane format (R101). -/
def vres (c : Nat) (x : Fv) : Nat := fvEnc c false .rne x

/-- Clear the sign bit of a lane. A NaN becomes the canonical NaN (R101). -/
def vabs (c a : Nat) : Nat := if fvOf c a = .nan then vres c .nan else a % 2 ^ (fmtWidth c - 1)

/-- Invert the sign bit of a lane. A NaN becomes the canonical NaN (R101). -/
def vneg (c a : Nat) : Nat := if fvOf c a = .nan then vres c .nan else (a + 2 ^ (fmtWidth c - 1)) % 2 ^ fmtWidth c

/-- FADD (R101). -/
def execFadd (w : Site) (lf : BitVec 2) (vd va vb : RegField) (s : State) : Out :=
  opVfp w lf vd va vb (fun c a b _ => vres c ((fvOf c a).add (fvOf c b))) s

/-- FSUB (R101). -/
def execFsub (w : Site) (lf : BitVec 2) (vd va vb : RegField) (s : State) : Out :=
  opVfp w lf vd va vb (fun c a b _ => vres c ((fvOf c a).add (fvOf c b).neg)) s

/-- FMUL (R101). -/
def execFmul (w : Site) (lf : BitVec 2) (vd va vb : RegField) (s : State) : Out :=
  opVfp w lf vd va vb (fun c a b _ => vres c ((fvOf c a).mul (fvOf c b))) s

/-- FMA: va x vb + vd, rounded once (R101). -/
def execFma (w : Site) (lf : BitVec 2) (vd va vb : RegField) (s : State) : Out :=
  opVfp w lf vd va vb (fun c a b d => vres c (((fvOf c a).mul (fvOf c b)).add (fvOf c d))) s

/-- FMIN (R101). -/
def execFmin (w : Site) (lf : BitVec 2) (vd va vb : RegField) (s : State) : Out :=
  opVfp w lf vd va vb (fun c a b _ => vres c ((fvOf c a).min (fvOf c b))) s

/-- FMAX (R101). -/
def execFmax (w : Site) (lf : BitVec 2) (vd va vb : RegField) (s : State) : Out :=
  opVfp w lf vd va vb (fun c a b _ => vres c ((fvOf c a).max (fvOf c b))) s

/-- FABS (R101; NaN handling in log entry 17). -/
def execFabs (w : Site) (lf : BitVec 2) (vd va vb : RegField) (s : State) : Out :=
  opVfp w lf vd va vb (fun c a _ _ => vabs c a) s

/-- FNEG (R101; NaN handling in log entry 17). -/
def execFneg (w : Site) (lf : BitVec 2) (vd va vb : RegField) (s : State) : Out :=
  opVfp w lf vd va vb (fun c a _ _ => vneg c a) s

/-- FCMPEQ: a compare with NaN is false (R108). -/
def execFcmpeq (w : Site) (lf : BitVec 2) (vd va vb : RegField) (s : State) : Out :=
  opVfp w lf vd va vb (fun c a b _ => laneMask (fmtWidth c) ((fvOf c a).eq (fvOf c b))) s

/-- FCMPLT (R108). -/
def execFcmplt (w : Site) (lf : BitVec 2) (vd va vb : RegField) (s : State) : Out :=
  opVfp w lf vd va vb (fun c a b _ => laneMask (fmtWidth c) ((fvOf c a).lt (fvOf c b))) s

/-- FCMPLE (R108). -/
def execFcmple (w : Site) (lf : BitVec 2) (vd va vb : RegField) (s : State) : Out :=
  opVfp w lf vd va vb (fun c a b _ => laneMask (fmtWidth c) ((fvOf c a).lt (fvOf c b) || (fvOf c a).eq (fvOf c b))) s

/-- FDIV and FSQRT: FP32 lanes only; FP16 and BF16 fault with FLT_FORMAT (R101). -/
def opVfp32 (w : Site) (lf : BitVec 2) (vd va vb : RegField) (f : Nat → Nat → Nat) (s : State) : Out :=
  .next (s.issue w [.v vd.toNat, .v va.toNat, .v vb.toNat] fun s =>
    match laneF lf with
    | none => .fault s (flt 0x01)
    | some c =>
      if c ≠ 1 then .fault s (flt 0x20)
      else .done (s.setV w vd (laneMap 32 (fun a b _ => f a b) (s.v w va) (s.v w vb) (s.v w vd))))

/-- FDIV (R101). -/
def execFdiv (w : Site) (lf : BitVec 2) (vd va vb : RegField) (s : State) : Out :=
  opVfp32 w lf vd va vb (fun a b => toF32 ((f32 a).div (f32 b))) s

/-- FSQRT (R101). -/
def execFsqrt (w : Site) (lf : BitVec 2) (vd va vb : RegField) (s : State) : Out :=
  opVfp32 w lf vd va vb (fun a _ => toF32 (f32 a).sqrt) s

/-- R102: the signedness forms SS, UU, SU: read the va and vb elements as integers. -/
def signedPair (sg wd a b : Nat) : Int × Int :=
  match sg with
  | 0 => (toSigned wd a, toSigned wd b)
  | 1 => ((a : Int), (b : Int))
  | _ => (toSigned wd a, (b : Int))

/-- VMULW (R102): exact products of width 2w from the low or the high half; reserved codes fault (R108). -/
def execVmulw (w : Site) (lw : BitVec 2) (high : Bool) (sg : BitVec 2) (vd va vb : RegField) (s : State) : Out :=
  .next (s.issue w [.v vd.toNat, .v va.toNat, .v vb.toNat] fun s =>
    if lw = 3 || sg = 3 then .fault s (flt 0x01)
    else
      let wd := laneW lw
      let n := 128 / (2 * wd)
      let o := if high then n else 0
      let prod (i : Nat) : Nat :=
        let p := signedPair sg.toNat wd (elemAt (s.v w va).toNat wd (o + i)) (elemAt (s.v w vb).toNat wd (o + i))
        ofInt (2 * wd) (p.1 * p.2)
      .done (s.setV w vd (ofLanes (2 * wd) ((List.range n).map prod))))

/-- VDOT (R103): four byte products per lane modulo 2^32, or two half products and the lane, rounded once to FP32. -/
def execVdot (w : Site) (form : BitVec 3) (vd va vb : RegField) (s : State) : Out :=
  .next (s.issue w [.v vd.toNat, .v va.toNat, .v vb.toNat] fun s =>
    if form.toNat ≥ 5 then .fault s (flt 0x01)
    else
      let a := (s.v w va).toNat
      let b := (s.v w vb).toNat
      let d := (s.v w vd).toNat
      let lane (i : Nat) : Nat :=
        if form.toNat ≤ 2 then
          ofInt 32 ((List.range 4).foldl (fun acc j =>
            let p := signedPair form.toNat 8 (elemAt a 8 (4 * i + j)) (elemAt b 8 (4 * i + j))
            acc + p.1 * p.2) ((elemAt d 32 i : Nat) : Int))
        else
          let c := if form.toNat = 3 then 3 else 2
          let p (j : Nat) : Fv := (fvOf c (elemAt a 16 (2 * i + j))).mul (fvOf c (elemAt b 16 (2 * i + j)))
          toF32 (((p 0).add (p 1)).add (f32 (elemAt d 32 i)))
      .done (s.setV w vd (ofLanes 32 ((List.range 4).map lane))))

/-- VSPLAT (R108): bits [3:0] are reserved and must be zero. -/
def execVsplat (w : Site) (lw : BitVec 2) (idx : BitVec 4) (vd ga : RegField) (s : State) : Out :=
  .next (s.issue w [.v vd.toNat, .g ga.toNat] fun s =>
    if idx ≠ 0 then .fault s (flt 0x01)
    else .done (s.setV w vd (ofLanes (laneW lw) ((List.range (128 / laneW lw)).map fun _ => (s.g w ga).toNat))))

/-- VINS (R108): an index beyond the last lane faults with FLT_ILLEGAL. -/
def execVins (w : Site) (lw : BitVec 2) (idx : BitVec 4) (vd ga : RegField) (s : State) : Out :=
  .next (s.issue w [.v vd.toNat, .g ga.toNat] fun s =>
    let wd := laneW lw
    if idx.toNat ≥ 128 / wd then .fault s (flt 0x01)
    else .done (s.setV w vd (setFld (s.v w vd) (wd * idx.toNat + wd - 1) (wd * idx.toNat) (s.g w ga).toNat)))

/-- VEXT (R108): the lane zero-extended into g_d. -/
def execVext (w : Site) (lw : BitVec 2) (idx : BitVec 4) (gd va : RegField) (s : State) : Out :=
  .next (s.issue w [.g gd.toNat, .v va.toNat] fun s =>
    let wd := laneW lw
    if idx.toNat ≥ 128 / wd then .fault s (flt 0x01)
    else .done (s.setG w gd (BitVec.ofNat 64 (elemAt (s.v w va).toNat wd idx.toNat))))

/-- VPERM (R108): byte i of vd takes byte (vb.byte i mod 16) of va. -/
def execVperm (w : Site) (idx : BitVec 4) (vd va vb : RegField) (s : State) : Out :=
  .next (s.issue w [.v vd.toNat, .v va.toNat, .v vb.toNat] fun s =>
    if idx ≠ 0 then .fault s (flt 0x01)
    else
      let a := (s.v w va).toNat
      .done (s.setV w vd (laneMap 8 (fun _ b _ => elemAt a 8 (b % 16)) (s.v w va) (s.v w vb) (s.v w vd))))

/-- R104: the formats VCVT takes. -/
def vcvtFormat (c : Nat) : Bool := [1, 2, 3, 4, 5, 10, 11, 13].contains c

/-- VCVT (R104): convert the low elements by RNE; `nonsat` is the S bit, whose 0 selects saturation (R108). -/
def execVcvt (w : Site) (src dst : BitVec 4) (nonsat : Bool) (vd va : RegField) (s : State) : Out :=
  .next (s.issue w [.v vd.toNat, .v va.toNat] fun s =>
    let a := src.toNat
    let d := dst.toNat
    if !vcvtFormat a || !vcvtFormat d then .fault s (flt 0x20)
    else
      let n := 128 / max (fmtWidth a) (fmtWidth d)
      .done (s.setV w vd (ofLanes (fmtWidth d) ((List.range n).map fun i =>
        fvEnc d (!nonsat) .rne (fvOf a (elemAt (s.v w va).toNat (fmtWidth a) i))))))

end Sys2Proof.Machine
end

