-- ==== Sys2Proof/Machine/Waiters.lean ====
section
/-! DEFINITION. The release of a satisfied waiter (R415, R416). -/

namespace Sys2Proof.Machine

/-- R415: a strand's satisfied wait completes: YWAIT writes the status, YDEC the word, and the strand goes on. -/
def State.strandReleased (s : State) (c i : Nat) (word : W64) (status : Nat) : State :=
  let w := site c i
  match (s.strand w).park with
  | .sync _ _ gd (.ywait _) => ((s.modBank w fun b => b.writeG gd (BitVec.ofNat 64 status)).park w .none).retire w
  | .sync _ _ gd (.ydec _) => ((s.modBank w fun b => b.writeG gd word).park w .none).retire w
  | _ => s

/-- WAITER_RELEASE (R415, R416): a satisfied waiter leaves its entry: a strand goes on; a unit's head, or a ring channel, finds its wait
over. `e` is what the check codes of what it then reads find. -/
def execWaiterRelease (p : WaitParty) (e : ErrMap) (s : State) : Out :=
  .next (s.finding e fun s =>
    match s.waiterOf p with
    | none => s
    | some x =>
      match x.wait with
      | .released word status _ =>
        match p with
        | .strand c i => (s.dropWaiter p).strandReleased c i word status
        | .stream c => s.streamStart c
        | .update q => s.updStart (q / 16)
        | .ringRecv c => s.ringStep c
        | .ringCredit c => if decide (x.obj = (s.ring c).used) then s.ringCreditSend c else s.ringStep c
      | _ => s)

end Sys2Proof.Machine
end

