-- ==== Sys2Proof/Machine/Dispatch.lean ====
section
/-! DEFINITION. The dispatch: one arm for each command, each a direct call of its meaning. -/

namespace Sys2Proof.Machine

/-- The effect of command `i` on everything but the queue. -/
def exec (i : Instr) (s : State) : Host.Outcome State Fault Refusal :=
  match i with
  | .add w d a b => Sys2Proof.Machine.execAdd w d a b s
  | .sub w d a b => Sys2Proof.Machine.execSub w d a b s
  | .and w d a b => Sys2Proof.Machine.execAnd w d a b s
  | .or w d a b => Sys2Proof.Machine.execOr w d a b s
  | .xor w d a b => Sys2Proof.Machine.execXor w d a b s
  | .andn w d a b => Sys2Proof.Machine.execAndn w d a b s
  | .sll w d a b => Sys2Proof.Machine.execSll w d a b s
  | .srl w d a b => Sys2Proof.Machine.execSrl w d a b s
  | .sra w d a b => Sys2Proof.Machine.execSra w d a b s
  | .rotr w d a b => Sys2Proof.Machine.execRotr w d a b s
  | .slt w d a b => Sys2Proof.Machine.execSlt w d a b s
  | .sltu w d a b => Sys2Proof.Machine.execSltu w d a b s
  | .min w d a b => Sys2Proof.Machine.execMin w d a b s
  | .minu w d a b => Sys2Proof.Machine.execMinu w d a b s
  | .max w d a b => Sys2Proof.Machine.execMax w d a b s
  | .maxu w d a b => Sys2Proof.Machine.execMaxu w d a b s
  | .mul w d a b => Sys2Proof.Machine.execMul w d a b s
  | .mulh w d a b => Sys2Proof.Machine.execMulh w d a b s
  | .mulhu w d a b => Sys2Proof.Machine.execMulhu w d a b s
  | .mulhsu w d a b => Sys2Proof.Machine.execMulhsu w d a b s
  | .div w d a b => Sys2Proof.Machine.execDiv w d a b s
  | .divu w d a b => Sys2Proof.Machine.execDivu w d a b s
  | .rem w d a b => Sys2Proof.Machine.execRem w d a b s
  | .remu w d a b => Sys2Proof.Machine.execRemu w d a b s
  | .clz w d a => Sys2Proof.Machine.execClz w d a s
  | .ctz w d a => Sys2Proof.Machine.execCtz w d a s
  | .popc w d a => Sys2Proof.Machine.execPopc w d a s
  | .sextb w d a => Sys2Proof.Machine.execSextb w d a s
  | .sexth w d a => Sys2Proof.Machine.execSexth w d a s
  | .sextw w d a => Sys2Proof.Machine.execSextw w d a s
  | .zextw w d a => Sys2Proof.Machine.execZextw w d a s
  | .cmov w d a b => Sys2Proof.Machine.execCmov w d a b s
  | .addi w d a imm => Sys2Proof.Machine.execAddi w d a imm s
  | .andi w d a imm => Sys2Proof.Machine.execAndi w d a imm s
  | .ori w d a imm => Sys2Proof.Machine.execOri w d a imm s
  | .xori w d a imm => Sys2Proof.Machine.execXori w d a imm s
  | .slti w d a imm => Sys2Proof.Machine.execSlti w d a imm s
  | .sltiu w d a imm => Sys2Proof.Machine.execSltiu w d a imm s
  | .slli w d a imm => Sys2Proof.Machine.execSlli w d a imm s
  | .srli w d a imm => Sys2Proof.Machine.execSrli w d a imm s
  | .srai w d a imm => Sys2Proof.Machine.execSrai w d a imm s
  | .lui w d imm => Sys2Proof.Machine.execLui w d imm s
  | .auipc w d imm => Sys2Proof.Machine.execAuipc w d imm s
  | .ldb w t a h off e => Sys2Proof.Machine.execLdb w t a h off e s
  | .ldbu w t a h off e => Sys2Proof.Machine.execLdbu w t a h off e s
  | .ldh w t a h off e => Sys2Proof.Machine.execLdh w t a h off e s
  | .ldhu w t a h off e => Sys2Proof.Machine.execLdhu w t a h off e s
  | .ldw w t a h off e => Sys2Proof.Machine.execLdw w t a h off e s
  | .ldwu w t a h off e => Sys2Proof.Machine.execLdwu w t a h off e s
  | .ldd w t a h off e => Sys2Proof.Machine.execLdd w t a h off e s
  | .stb w t a h off => Sys2Proof.Machine.execStb w t a h off s
  | .sth w t a h off => Sys2Proof.Machine.execSth w t a h off s
  | .stw w t a h off => Sys2Proof.Machine.execStw w t a h off s
  | .std w t a h off => Sys2Proof.Machine.execStd w t a h off s
  | .ldv w t a h off e => Sys2Proof.Machine.execLdv w t a h off e s
  | .stv w t a h off => Sys2Proof.Machine.execStv w t a h off s
  | .amoAdd w d a b h size => Sys2Proof.Machine.execAmoAdd w d a b h size s
  | .amoSwap w d a b h size => Sys2Proof.Machine.execAmoSwap w d a b h size s
  | .amoAnd w d a b h size => Sys2Proof.Machine.execAmoAnd w d a b h size s
  | .amoOr w d a b h size => Sys2Proof.Machine.execAmoOr w d a b h size s
  | .amoXor w d a b h size => Sys2Proof.Machine.execAmoXor w d a b h size s
  | .amoMax w d a b h size => Sys2Proof.Machine.execAmoMax w d a b h size s
  | .amoMin w d a b h size => Sys2Proof.Machine.execAmoMin w d a b h size s
  | .amoMaxu w d a b h size => Sys2Proof.Machine.execAmoMaxu w d a b h size s
  | .amoMinu w d a b h size => Sys2Proof.Machine.execAmoMinu w d a b h size s
  | .amoCas w d a b h size => Sys2Proof.Machine.execAmoCas w d a b h size s
  | .beq w a b off => Sys2Proof.Machine.execBeq w a b off s
  | .bne w a b off => Sys2Proof.Machine.execBne w a b off s
  | .blt w a b off => Sys2Proof.Machine.execBlt w a b off s
  | .bge w a b off => Sys2Proof.Machine.execBge w a b off s
  | .bltu w a b off => Sys2Proof.Machine.execBltu w a b off s
  | .bgeu w a b off => Sys2Proof.Machine.execBgeu w a b off s
  | .jal w d off => Sys2Proof.Machine.execJal w d off s
  | .jalr w d a imm => Sys2Proof.Machine.execJalr w d a imm s
  | .loop w a len => Sys2Proof.Machine.execLoop w a len s
  | .lbrk w d off => Sys2Proof.Machine.execLbrk w d off s
  | .rdsr w d a imm => Sys2Proof.Machine.execRdsr w d a imm s
  | .wrsr w d a imm => Sys2Proof.Machine.execWrsr w d a imm s
  | .nop w => Sys2Proof.Machine.execNop w s
  | .halt w d a b => Sys2Proof.Machine.execHalt w d a b s
  | .strst w a b => Sys2Proof.Machine.execStrst w a b s
  | .rdtime w d => Sys2Proof.Machine.execRdtime w d s
  | .vintAdd w lw vd va vb => Sys2Proof.Machine.execVintAdd w lw vd va vb s
  | .vintSub w lw vd va vb => Sys2Proof.Machine.execVintSub w lw vd va vb s
  | .vintAdds w lw vd va vb => Sys2Proof.Machine.execVintAdds w lw vd va vb s
  | .vintAddus w lw vd va vb => Sys2Proof.Machine.execVintAddus w lw vd va vb s
  | .vintSubs w lw vd va vb => Sys2Proof.Machine.execVintSubs w lw vd va vb s
  | .vintSubus w lw vd va vb => Sys2Proof.Machine.execVintSubus w lw vd va vb s
  | .vintMul w lw vd va vb => Sys2Proof.Machine.execVintMul w lw vd va vb s
  | .vintMulh w lw vd va vb => Sys2Proof.Machine.execVintMulh w lw vd va vb s
  | .vintMulhu w lw vd va vb => Sys2Proof.Machine.execVintMulhu w lw vd va vb s
  | .vintMin w lw vd va vb => Sys2Proof.Machine.execVintMin w lw vd va vb s
  | .vintMinu w lw vd va vb => Sys2Proof.Machine.execVintMinu w lw vd va vb s
  | .vintMax w lw vd va vb => Sys2Proof.Machine.execVintMax w lw vd va vb s
  | .vintMaxu w lw vd va vb => Sys2Proof.Machine.execVintMaxu w lw vd va vb s
  | .vintAnd w lw vd va vb => Sys2Proof.Machine.execVintAnd w lw vd va vb s
  | .vintOr w lw vd va vb => Sys2Proof.Machine.execVintOr w lw vd va vb s
  | .vintXor w lw vd va vb => Sys2Proof.Machine.execVintXor w lw vd va vb s
  | .vintAndn w lw vd va vb => Sys2Proof.Machine.execVintAndn w lw vd va vb s
  | .bsel w lw vd va vb => Sys2Proof.Machine.execBsel w lw vd va vb s
  | .vintSll w lw vd va vb => Sys2Proof.Machine.execVintSll w lw vd va vb s
  | .vintSrl w lw vd va vb => Sys2Proof.Machine.execVintSrl w lw vd va vb s
  | .vintSra w lw vd va vb => Sys2Proof.Machine.execVintSra w lw vd va vb s
  | .cmpeq w lw vd va vb => Sys2Proof.Machine.execCmpeq w lw vd va vb s
  | .cmplt w lw vd va vb => Sys2Proof.Machine.execCmplt w lw vd va vb s
  | .cmpltu w lw vd va vb => Sys2Proof.Machine.execCmpltu w lw vd va vb s
  | .vintAbs w lw vd va vb => Sys2Proof.Machine.execVintAbs w lw vd va vb s
  | .vintNeg w lw vd va vb => Sys2Proof.Machine.execVintNeg w lw vd va vb s
  | .fadd w lf vd va vb => Sys2Proof.Machine.execFadd w lf vd va vb s
  | .fsub w lf vd va vb => Sys2Proof.Machine.execFsub w lf vd va vb s
  | .fmul w lf vd va vb => Sys2Proof.Machine.execFmul w lf vd va vb s
  | .fma w lf vd va vb => Sys2Proof.Machine.execFma w lf vd va vb s
  | .fmin w lf vd va vb => Sys2Proof.Machine.execFmin w lf vd va vb s
  | .fmax w lf vd va vb => Sys2Proof.Machine.execFmax w lf vd va vb s
  | .fabs w lf vd va vb => Sys2Proof.Machine.execFabs w lf vd va vb s
  | .fneg w lf vd va vb => Sys2Proof.Machine.execFneg w lf vd va vb s
  | .fcmpeq w lf vd va vb => Sys2Proof.Machine.execFcmpeq w lf vd va vb s
  | .fcmplt w lf vd va vb => Sys2Proof.Machine.execFcmplt w lf vd va vb s
  | .fcmple w lf vd va vb => Sys2Proof.Machine.execFcmple w lf vd va vb s
  | .fdiv w lf vd va vb => Sys2Proof.Machine.execFdiv w lf vd va vb s
  | .fsqrt w lf vd va vb => Sys2Proof.Machine.execFsqrt w lf vd va vb s
  | .vmulw w lw high sg vd va vb => Sys2Proof.Machine.execVmulw w lw high sg vd va vb s
  | .vdot w form vd va vb => Sys2Proof.Machine.execVdot w form vd va vb s
  | .vgather w vd ga vb h size count e => Sys2Proof.Machine.execVgather w vd ga vb h size count e s
  | .vsplat w lw idx vd ga => Sys2Proof.Machine.execVsplat w lw idx vd ga s
  | .vins w lw idx vd ga => Sys2Proof.Machine.execVins w lw idx vd ga s
  | .vext w lw idx gd va => Sys2Proof.Machine.execVext w lw idx gd va s
  | .vperm w idx vd va vb => Sys2Proof.Machine.execVperm w idx vd va vb s
  | .vcvt w src dst nonsat vd va => Sys2Proof.Machine.execVcvt w src dst nonsat vd va s
  | .missDataDeliver w e => Sys2Proof.Machine.execMissDataDeliver w e s
  | .l1iFill w parity e => Sys2Proof.Machine.execL1iFill w parity e s
  | .tableWalkDone w e => Sys2Proof.Machine.execTableWalkDone w e s
  | .storePerformed core n e => Sys2Proof.Machine.execStorePerformed core n e s
  | .faultEntry w code addr info => Sys2Proof.Machine.execFaultEntry w code addr info s
  | .interruptEntry w => Sys2Proof.Machine.execInterruptEntry w s
  | .fret w commit => Sys2Proof.Machine.execFret w commit s
  | .timerInterrupt core => Sys2Proof.Machine.execTimerInterrupt core s
  | .softInterruptSet core soft => Sys2Proof.Machine.execSoftInterruptSet core soft s
  | .hderive w hd ha gb gc gr => Sys2Proof.Machine.execHderive w hd ha gb gc gr s
  | .hseal w hd ha => Sys2Proof.Machine.execHseal w hd ha s
  | .hcall w ha => Sys2Proof.Machine.execHcall w ha s
  | .hret w => Sys2Proof.Machine.execHret w s
  | .hld w hd ga hb off => Sys2Proof.Machine.execHld w hd ga hb off s
  | .hst w hd ga hb off => Sys2Proof.Machine.execHst w hd ga hb off s
  | .hchk w gd ha gb query => Sys2Proof.Machine.execHchk w gd ha gb query s
  | .hmov w hd ha => Sys2Proof.Machine.execHmov w hd ha s
  | .hclr w hd => Sys2Proof.Machine.execHclr w hd s
  | .tcfg w d ga b h z e => Sys2Proof.Machine.execTcfg w d ga b h z e s
  | .tcfgApply core group => Sys2Proof.Machine.execTcfgApply core group s
  | .tld w tile ga gb h hint tbl noalloc z e => Sys2Proof.Machine.execTld w tile ga gb h hint tbl noalloc z e s
  | .tst w tile ga gb h hint tbl noalloc z e => Sys2Proof.Machine.execTst w tile ga gb h hint tbl noalloc z e s
  | .tileTransferDone core group e => Sys2Proof.Machine.execTileTransferDone core group e s
  | .tzero w td a b t sg z => Sys2Proof.Machine.execTzero w td a b t sg z s
  | .tmov w td ts b t sg z e => Sys2Proof.Machine.execTmov w td ts b t sg z e s
  | .mwld w d a b tw xmask same z => Sys2Proof.Machine.execMwld w d a b tw xmask same z s
  | .mwldValidate w e => Sys2Proof.Machine.execMwldValidate w e s
  | .weightShift core array e => Sys2Proof.Machine.execWeightShift core array e s
  | .weightActivate core array => Sys2Proof.Machine.execWeightActivate core array s
  | .mma w ga gb b ta q nomask zero z => Sys2Proof.Machine.execMma w ga gb b ta q nomask zero z s
  | .mmaq w ga vb h ta q nomask zero z => Sys2Proof.Machine.execMmaq w ga vb h ta q nomask zero z s
  | .passStart core array e => Sys2Proof.Machine.execPassStart core array e s
  | .accResultAdd core array row col perr e => Sys2Proof.Machine.execAccResultAdd core array row col perr e s
  | .manch w d ga gb z => Sys2Proof.Machine.execManch w d ga gb z s
  | .mord w d ga b p z => Sys2Proof.Machine.execMord w d ga b p z s
  | .slotClear core slot => Sys2Proof.Machine.execSlotClear core slot s
  | .mdrain w gd ga gb slot dst z => Sys2Proof.Machine.execMdrain w gd ga gb slot dst z s
  | .drainStart core e => Sys2Proof.Machine.execDrainStart core e s
  | .drainRow core e => Sys2Proof.Machine.execDrainRow core e s
  | .drainComplete core => Sys2Proof.Machine.execDrainComplete core s
  | .msave w gd ga h slot z => Sys2Proof.Machine.execMsave w gd ga h slot z s
  | .mrestore w gd ga h slot z => Sys2Proof.Machine.execMrestore w gd ga h slot z s
  | .saveRestoreRun core e m => Sys2Proof.Machine.execSaveRestoreRun core e m s
  | .actTableStore core off value => Sys2Proof.Machine.execActTableStore core off value s
  | .drainSeedWrite core value => Sys2Proof.Machine.execDrainSeedWrite core value s
  | .ssub w gd ga z hd ht hs z2 e => Sys2Proof.Machine.execSsub w gd ga z hd ht hs z2 e s
  | .swait w gd ga z => Sys2Proof.Machine.execSwait w gd ga z s
  | .streamDescStart core e => Sys2Proof.Machine.execStreamDescStart core e s
  | .streamDescComplete core => Sys2Proof.Machine.execStreamDescComplete core s
  | .yinc w gd ga gb h => Sys2Proof.Machine.execYinc w gd ga gb h s
  | .ydec w gd ga gb h => Sys2Proof.Machine.execYdec w gd ga gb h s
  | .yset w gd ga gb h => Sys2Proof.Machine.execYset w gd ga gb h s
  | .ysetCfg w gd ga gb h => Sys2Proof.Machine.execYsetCfg w gd ga gb h s
  | .yarrive w gd ga gb h => Sys2Proof.Machine.execYarrive w gd ga gb h s
  | .ywait w gd ga gb h => Sys2Proof.Machine.execYwait w gd ga gb h s
  | .ywaitPoll w gd ga gb h => Sys2Proof.Machine.execYwaitPoll w gd ga gb h s
  | .waiterRelease p e => Sys2Proof.Machine.execWaiterRelease p e s
  | .remoteSyncAck core k status => Sys2Proof.Machine.execRemoteSyncAck core k status s
  | .spillFetch dom obj => Sys2Proof.Machine.execSpillFetch dom obj s
  | .cpy w gd ga hd eng e => Sys2Proof.Machine.execCpy w gd ga hd eng e s
  | .cpwait w gd ga eng => Sys2Proof.Machine.execCpwait w gd ga eng s
  | .copyStart e => Sys2Proof.Machine.execCopyStart e s
  | .copyRow e env m => Sys2Proof.Machine.execCopyRow e env m s
  | .copyComplete e => Sys2Proof.Machine.execCopyComplete e s
  | .pstream w ga hd sn e => Sys2Proof.Machine.execPstream w ga hd sn e s
  | .pstreamFill core sn arrives e => Sys2Proof.Machine.execPstreamFill core sn arrives e s
  | .fenceL1 w => Sys2Proof.Machine.execFenceL1 w s
  | .fenceTask w => Sys2Proof.Machine.execFenceTask w s
  | .llcAccess r => Sys2Proof.Machine.execLlcAccess r s
  | .reductionRequest addr op data more e => Sys2Proof.Machine.execReductionRequest addr op data more e s
  | .lockedFillResume slice set => Sys2Proof.Machine.execLockedFillResume slice set s
  | .hbmIssue q => Sys2Proof.Machine.execHbmIssue q s
  | .hbmRefresh q => Sys2Proof.Machine.execHbmRefresh q s
  | .refreshDouble stack temp => Sys2Proof.Machine.execRefreshDouble stack temp s
  | .patrolScrub stack unit e => Sys2Proof.Machine.execPatrolScrub stack unit e s
  | .softRepair q row => Sys2Proof.Machine.execSoftRepair q row s
  | .pageIn dom va supplied err => Sys2Proof.Machine.execPageIn dom va supplied err s
  | .pageOut dom va e => Sys2Proof.Machine.execPageOut dom va e s
  | .qsubSubmit unit queue core value => Sys2Proof.Machine.execQsubSubmit unit queue core value s
  | .updHeadStart unit e => Sys2Proof.Machine.execUpdHeadStart unit e s
  | .updStatsPass unit rows e => Sys2Proof.Machine.execUpdStatsPass unit rows e s
  | .updApplyPass unit rows e => Sys2Proof.Machine.execUpdApplyPass unit rows e s
  | .updDescComplete unit => Sys2Proof.Machine.execUpdDescComplete unit s
  | .ruleCommit unit rule => Sys2Proof.Machine.execRuleCommit unit rule s
  | .schedCommit slot => Sys2Proof.Machine.execSchedCommit slot s
  | .countWrite slot value => Sys2Proof.Machine.execCountWrite slot value s
  | .recalc slot => Sys2Proof.Machine.execRecalc slot s
  | .lossStore slot loss step => Sys2Proof.Machine.execLossStore slot loss step s
  | .decideStore slot step => Sys2Proof.Machine.execDecideStore slot step s
  | .lmonReset slot => Sys2Proof.Machine.execLmonReset slot s
  | .ringSubmit chan core value => Sys2Proof.Machine.execRingSubmit chan core value s
  | .ringStep chan e => Sys2Proof.Machine.execRingStep chan e s
  | .ringCreditSend chan => Sys2Proof.Machine.execRingCreditSend chan s
  | .flitSend port => Sys2Proof.Machine.execFlitSend port s
  | .flitReceive port block => Sys2Proof.Machine.execFlitReceive port block s
  | .replay port => Sys2Proof.Machine.execReplay port s
  | .retrain port fails locked => Sys2Proof.Machine.execRetrain port fails locked s
  | .laneBerWindow port => Sys2Proof.Machine.execLaneBerWindow port s
  | .laneMaskChange port tx => Sys2Proof.Machine.execLaneMaskChange port tx s
  | .laserFail group wl => Sys2Proof.Machine.execLaserFail group wl s
  | .laserTakeover group => Sys2Proof.Machine.execLaserTakeover group s
  | .laneAdd port tx wl => Sys2Proof.Machine.execLaneAdd port tx wl s
  | .pctlRequest port turnOn => Sys2Proof.Machine.execPctlRequest port turnOn s
  | .portPowerUp port env => Sys2Proof.Machine.execPortPowerUp port env s
  | .portPowerDown port => Sys2Proof.Machine.execPortPowerDown port s
  | .portQuietTimeout port => Sys2Proof.Machine.execPortQuietTimeout port s
  | .packetForward port vc cls => Sys2Proof.Machine.execPacketForward port vc cls s
  | .rdreq port vc cls e => Sys2Proof.Machine.execRdreq port vc cls e s
  | .rddata port vc cls => Sys2Proof.Machine.execRddata port vc cls s
  | .write port vc cls e => Sys2Proof.Machine.execWrite port vc cls e s
  | .reduce port vc cls e => Sys2Proof.Machine.execReduce port vc cls e s
  | .close port vc cls => Sys2Proof.Machine.execClose port vc cls s
  | .sync port vc cls => Sys2Proof.Machine.execSync port vc cls s
  | .ring port vc cls e => Sys2Proof.Machine.execRing port vc cls e s
  | .ack port vc cls => Sys2Proof.Machine.execAck port vc cls s
  | .mgmt port vc cls => Sys2Proof.Machine.execMgmt port vc cls s
  | .idClaimReceive id serial hops => Sys2Proof.Machine.execIdClaimReceive id serial hops s
  | .replyTimeout tag => Sys2Proof.Machine.execReplyTimeout tag s
  | .routeEpochCommit die => Sys2Proof.Machine.execRouteEpochCommit die s
  | .routeEpochRetire die => Sys2Proof.Machine.execRouteEpochRetire die s
  | .mbxDoorbell m => Sys2Proof.Machine.execMbxDoorbell m s
  | .mgmtTick env => Sys2Proof.Machine.execMgmtTick env s
  | .dmonWindow mon env => Sys2Proof.Machine.execDmonWindow mon env s
  | .dmonClear mask => Sys2Proof.Machine.execDmonClear mask s
  | .podParkQuiesce pod => Sys2Proof.Machine.execPodParkQuiesce pod s
  | .parkAbandon pod => Sys2Proof.Machine.execParkAbandon pod s
  | .podUnparkSlew pod e => Sys2Proof.Machine.execPodUnparkSlew pod e s
  | .configEpochCommit => Sys2Proof.Machine.execConfigEpochCommit s
  | .epochUnitFlip u => Sys2Proof.Machine.execEpochUnitFlip u s
  | .referenceLoss => Sys2Proof.Machine.execReferenceLoss s
  | .pllLockLoss island => Sys2Proof.Machine.execPllLockLoss island s
  | .thermalTrip sensor => Sys2Proof.Machine.execThermalTrip sensor s
  | .watchdogExpiry => Sys2Proof.Machine.execWatchdogExpiry s
  | .lockstepMismatch => Sys2Proof.Machine.execLockstepMismatch s
  | .domainRevocation dom us => Sys2Proof.Machine.execDomainRevocation dom us s
  | .sweepStart dom => Sys2Proof.Machine.execSweepStart dom s
  | .occurrenceApply => Sys2Proof.Machine.execOccurrenceApply s
  | .aosNorCopy => Sys2Proof.Machine.execAosNorCopy s
  | .evrClrGo dom first last => Sys2Proof.Machine.execEvrClrGo dom first last s
  | .pmcWrap set n weight => Sys2Proof.Machine.execPmcWrap set n weight s
  | .pmcCaptureTc => Sys2Proof.Machine.execPmcCaptureTc s
  | .bwWindowEnd mon => Sys2Proof.Machine.execBwWindowEnd mon s
  | .identity m => Sys2Proof.Machine.execIdentity m s
  | .timeCorrelate m => Sys2Proof.Machine.execTimeCorrelate m s
  | .moduleStatus m => Sys2Proof.Machine.execModuleStatus m s
  | .regRead m => Sys2Proof.Machine.execRegRead m s
  | .alertAck m => Sys2Proof.Machine.execAlertAck m s
  | .moduleReset m => Sys2Proof.Machine.execModuleReset m s
  | .epochStatus m => Sys2Proof.Machine.execEpochStatus m s
  | .sensorRead m => Sys2Proof.Machine.execSensorRead m s
  | .domainCreate m => Sys2Proof.Machine.execDomainCreate m s
  | .domainStart m => Sys2Proof.Machine.execDomainStart m s
  | .domainRevoke m us => Sys2Proof.Machine.execDomainRevoke m us s
  | .pageMap m => Sys2Proof.Machine.execPageMap m s
  | .pageUnmap m => Sys2Proof.Machine.execPageUnmap m s
  | .funcBind m => Sys2Proof.Machine.execFuncBind m s
  | .bar2Window m => Sys2Proof.Machine.execBar2Window m s
  | .hostWindow m => Sys2Proof.Machine.execHostWindow m s
  | .vectorSet m => Sys2Proof.Machine.execVectorSet m s
  | .quotaSet m => Sys2Proof.Machine.execQuotaSet m s
  | .irqBind m => Sys2Proof.Machine.execIrqBind m s
  | .faultPolicy m => Sys2Proof.Machine.execFaultPolicy m s
  | .hullLend m => Sys2Proof.Machine.execHullLend m s
  | .rightGrant m => Sys2Proof.Machine.execRightGrant m s
  | .syncGrant m => Sys2Proof.Machine.execSyncGrant m s
  | .updqBind m => Sys2Proof.Machine.execUpdqBind m s
  | .updqUnbind m => Sys2Proof.Machine.execUpdqUnbind m s
  | .pinLimit m => Sys2Proof.Machine.execPinLimit m s
  | .mbxGrant m => Sys2Proof.Machine.execMbxGrant m s
  | .peerPair m => Sys2Proof.Machine.execPeerPair m s
  | .chanConfig m => Sys2Proof.Machine.execChanConfig m s
  | .chanUnconfig m => Sys2Proof.Machine.execChanUnconfig m s
  | .podVoltage m => Sys2Proof.Machine.execPodVoltage m s
  | .powerCap m => Sys2Proof.Machine.execPowerCap m s
  | .podPark m => Sys2Proof.Machine.execPodPark m s
  | .routeWrite m => Sys2Proof.Machine.execRouteWrite m s
  | .routeCommit m => Sys2Proof.Machine.execRouteCommit m s
  | .portPower m => Sys2Proof.Machine.execPortPower m s
  | .conflictClear m => Sys2Proof.Machine.execConflictClear m s
  | .evrRead m => Sys2Proof.Machine.execEvrRead m s
  | .evrClear m => Sys2Proof.Machine.execEvrClear m s
  | .evrNotes m => Sys2Proof.Machine.execEvrNotes m s
  | .evrConfig m => Sys2Proof.Machine.execEvrConfig m s
  | .pmcCapture m => Sys2Proof.Machine.execPmcCapture m s
  | .pmcTrigset m => Sys2Proof.Machine.execPmcTrigset m s
  | .bwWindow m => Sys2Proof.Machine.execBwWindow m s
  | .evrAos m => Sys2Proof.Machine.execEvrAos m s
  | .grnInfo m => Sys2Proof.Machine.execGrnInfo m s
  | .grnKeyCreate m => Sys2Proof.Machine.execGrnKeyCreate m s
  | .grnKeyBind m => Sys2Proof.Machine.execGrnKeyBind m s
  | .grnKeyErase m => Sys2Proof.Machine.execGrnKeyErase m s
  | .grnCreate m => Sys2Proof.Machine.execGrnCreate m s
  | .grnGrant m => Sys2Proof.Machine.execGrnGrant m s
  | .grnRead m => Sys2Proof.Machine.execGrnRead m s
  | .grnWrite m => Sys2Proof.Machine.execGrnWrite m s
  | .grnTransfer num env e => Sys2Proof.Machine.execGrnTransfer num env e s
  | .grnTransferDone num => Sys2Proof.Machine.execGrnTransferDone num s
  | .grnCommit m => Sys2Proof.Machine.execGrnCommit m s
  | .grnDelete m => Sys2Proof.Machine.execGrnDelete m s
  | .grnObjstat m => Sys2Proof.Machine.execGrnObjstat m s
  | .grnHealth m => Sys2Proof.Machine.execGrnHealth m s
  | .grnList m => Sys2Proof.Machine.execGrnList m s
  | .grnBlockRefresh chan env => Sys2Proof.Machine.execGrnBlockRefresh chan env s
  | .bootStatus m => Sys2Proof.Machine.execBootStatus m s
  | .dieReset m us => Sys2Proof.Machine.execDieReset m us s
  | .podReset m us => Sys2Proof.Machine.execPodReset m us s
  | .runtimeLoad m => Sys2Proof.Machine.execRuntimeLoad m s
  | .fwStage m img => Sys2Proof.Machine.execFwStage m img s
  | .fwActivate m => Sys2Proof.Machine.execFwActivate m s
  | .lcChallenge m => Sys2Proof.Machine.execLcChallenge m s
  | .lcToken m => Sys2Proof.Machine.execLcToken m s
  | .lcTransition m => Sys2Proof.Machine.execLcTransition m s
  | .lcProvision m => Sys2Proof.Machine.execLcProvision m s
  | .bar2Access f acc e => Sys2Proof.Machine.execBar2Access f acc e s
  | .bar0HoleAccess f off write => Sys2Proof.Machine.execBar0HoleAccess f off write s
  | .functionLevelReset f => Sys2Proof.Machine.execFunctionLevelReset f s
  | .perstNAssert => Sys2Proof.Machine.execPerstNAssert s
  | .modRstNAssert => Sys2Proof.Machine.execModRstNAssert s
  | .boot env => Sys2Proof.Machine.execBoot env s
  | .trialTimeout => Sys2Proof.Machine.execTrialTimeout s
  | .recoveryImage img => Sys2Proof.Machine.execRecoveryImage img s
  | .coldPowerOn => Sys2Proof.Machine.execColdPowerOn s
  | .powerLoss holdMs => Sys2Proof.Machine.execPowerLoss holdMs s
  | .inputLockout => Sys2Proof.Machine.execInputLockout s
  | .inputSwitchOpen => Sys2Proof.Machine.execInputSwitchOpen s
  | .inputSwitchClose => Sys2Proof.Machine.execInputSwitchClose s
  | .getVersion p => Sys2Proof.Machine.execGetVersion p s
  | .getCapabilities p => Sys2Proof.Machine.execGetCapabilities p s
  | .negotiateAlgorithms p => Sys2Proof.Machine.execNegotiateAlgorithms p s
  | .getDigests p => Sys2Proof.Machine.execGetDigests p s
  | .getCertificate p off len => Sys2Proof.Machine.execGetCertificate p off len s
  | .challenge p nonce => Sys2Proof.Machine.execChallenge p nonce s
  | .getMeasurements p index nonce => Sys2Proof.Machine.execGetMeasurements p index nonce s
  | .pldmMonitorRequest p sensor => Sys2Proof.Machine.execPldmMonitorRequest p sensor s
  | .pldmFirmwareUpdate p step => Sys2Proof.Machine.execPldmFirmwareUpdate p step s
  | .entdaa addr => Sys2Proof.Machine.execEntdaa addr s
  | .extest => Sys2Proof.Machine.execExtest s
  | .idcode => Sys2Proof.Machine.execIdcode s
  | .samplePreload => Sys2Proof.Machine.execSamplePreload s
  | .highz => Sys2Proof.Machine.execHighz s
  | .clamp => Sys2Proof.Machine.execClamp s
  | .extestPulse => Sys2Proof.Machine.execExtestPulse s
  | .extestTrain => Sys2Proof.Machine.execExtestTrain s
  | .debugAccess code => Sys2Proof.Machine.execDebugAccess code s
  | .bypass => Sys2Proof.Machine.execBypass s
  | .tileCeClr core => Sys2Proof.Machine.execTileCeClr core s
  | .accCeClr core => Sys2Proof.Machine.execAccCeClr core s
  | .accNfClr core => Sys2Proof.Machine.execAccNfClr core s
  | .strCeClr core => Sys2Proof.Machine.execStrCeClr core s
  | .strNfClr core => Sys2Proof.Machine.execStrNfClr core s
  | .ixcntClr core => Sys2Proof.Machine.execIxcntClr core s
  | .speccCeClr core => Sys2Proof.Machine.execSpeccCeClr core s
  | .l1EccClr core => Sys2Proof.Machine.execL1EccClr core s
  | .llcCeClr slice => Sys2Proof.Machine.execLlcCeClr slice s
  | .llcStatClr slice => Sys2Proof.Machine.execLlcStatClr slice s
  | .qfullClr stack => Sys2Proof.Machine.execQfullClr stack s
  | .mcCeClr stack => Sys2Proof.Machine.execMcCeClr stack s
  | .puuNfClr unit => Sys2Proof.Machine.execPuuNfClr unit s
  | .synStatClr die => Sys2Proof.Machine.execSynStatClr die s
  | .plkErrClr port => Sys2Proof.Machine.execPlkErrClr port s
  | .feccClr port => Sys2Proof.Machine.execFeccClr port s
  | .bstatClr die b => Sys2Proof.Machine.execBstatClr die b s
  | .grnErrClr => Sys2Proof.Machine.execGrnErrClr s
  | .bwstatClr mon => Sys2Proof.Machine.execBwstatClr mon s
  | .regWrite p value => Sys2Proof.Machine.execRegWrite p value s
  | .wavelengthLockLoss port wl => Sys2Proof.Machine.execWavelengthLockLoss port wl s
  | .scratchpadLoadReturn w k => Sys2Proof.Machine.execScratchpadLoadReturn w k s
  | .pcieCompletionTimeout e => Sys2Proof.Machine.execPcieCompletionTimeout e s
  | .vinReaches40v env => Sys2Proof.Machine.execVinReaches40v env s
  | .tripSensorClear env => Sys2Proof.Machine.execTripSensorClear env s
  | .refreshRateRestore stack temp => Sys2Proof.Machine.execRefreshRateRestore stack temp s
  | .podHotClamp pod tj => Sys2Proof.Machine.execPodHotClamp pod tj s
  | .trstNAssert => Sys2Proof.Machine.execTrstNAssert s
  | .mctpControlMessage p eid => Sys2Proof.Machine.execMctpControlMessage p eid s

end Sys2Proof.Machine
end

