-- ==== Sys2Proof/Safety.lean ====
section
/-! DEFINITION. The terms the claims are stated in: when a strand issues, what an instruction leaves alone, and, for
the register instructions, the value each one gives its destination, written from R92, R99-R104, R108 and R109. -/

namespace Sys2Proof.Machine

/-! ### When a strand issues, and what an instruction leaves alone -/

/-- R90, R91: strand `w` issues: its pod runs, it is RUNNING and not parked, its next instruction is present, and none of
the registers `uses` awaits an outstanding access. -/
def State.ready (s : State) (w : Site) (uses : List RegRef) : Bool := s.podRuns w.core.val && s.canIssue w uses

/-- R99: the pc and the loop registers after an instruction that does not transfer control. -/
def Advanced (b b' : Bank) : Prop :=
  b'.lstart = b.lstart ∧ b'.lend = b.lend ∧
  (b.lc = 0 ∨ b.pc ≠ b.lend → b'.pc = b.pc + 4 ∧ b'.lc = b.lc) ∧
  (b.lc ≠ 0 → b.pc = b.lend → b'.lc = b.lc - 1 ∧ b'.pc = if b.lc = 1 then b.lend + 4 else b.lstart)

/-- No g register differs. -/
def SameG (b b' : Bank) : Prop := ∀ r, b'.readG r = b.readG r

/-- No v register differs. -/
def SameV (b b' : Bank) : Prop := ∀ r, b'.readV r = b.readV r

/-- No h register differs. -/
def SameH (b b' : Bank) : Prop := ∀ r, b'.readH r = b.readH r

/-- No g, v or h register differs, and gather progress stands. -/
def SameRegs (b b' : Bank) : Prop := SameG b b' ∧ SameV b b' ∧ SameH b b' ∧ b'.gprog = b.gprog

/-- Every other strand, and what it has buffered of its instructions (R94), is unchanged. -/
def Undisturbed (w : Site) (s t : State) : Prop :=
  ∀ v : Site, v ≠ w → t.strand v = s.strand v ∧
    (t.core v.core.val).ibuf v.strand.val = (s.core v.core.val).ibuf v.strand.val

/-- Everything outside strand `w` is unchanged but what every issue touches (R90, R94, R332, R509): which strand of the core issued
last, the strand's buffered instructions, the ages of L1I lines, the core's event counters and the interrupts these make pending. -/
def Elsewhere (w : Site) (s t : State) : Prop :=
  t = { s with cores := t.cores } ∧ (∀ c, c ≠ w.core.val → t.core c = s.core c) ∧
  (∃ k, t.core w.core.val = { s.core w.core.val with
    strands := (t.core w.core.val).strands, last := k, ibufs := (t.core w.core.val).ibufs, l1i := (t.core w.core.val).l1i,
    pmc := (t.core w.core.val).pmc,
    int := { (s.core w.core.val).int with ipend := (t.core w.core.val).int.ipend } }) ∧
  Undisturbed w s t

/-- Only the running bank of strand `w` is changed. -/
def OnlyBank (w : Site) (s t : State) : Prop := Elsewhere w s t ∧ t.strand w = (s.strand w).setBank (t.bank w)

/-- `u` is `s` but for the bookkeeping of an issue by strand `w`. -/
def Noted (w : Site) (s u : State) : Prop := Elsewhere w s u ∧ u.strand w = s.strand w

/-- The effect of an instruction that writes `x` to g_d and nothing else: with d = 0 no register changes (R85). -/
def WritesG (w : Site) (d : RegField) (x : W64) (s t : State) : Prop :=
  OnlyBank w s t ∧ Advanced (s.bank w) (t.bank w) ∧ (t.bank w).gprog = (s.bank w).gprog ∧
  SameV (s.bank w) (t.bank w) ∧ SameH (s.bank w) (t.bank w) ∧
  (t.bank w).readG 0 = 0 ∧ (d ≠ 0 → (t.bank w).readG d.toNat = x) ∧
  ∀ r, r ≠ d.toNat → (t.bank w).readG r = (s.bank w).readG r

/-- The effect of an instruction that writes v_d, lane `i` of width `wd` taking `lane i`, and nothing else. -/
def WritesV (w : Site) (d : RegField) (wd : Nat) (lane : Nat → Nat) (s t : State) : Prop :=
  OnlyBank w s t ∧ Advanced (s.bank w) (t.bank w) ∧ (t.bank w).gprog = (s.bank w).gprog ∧
  SameG (s.bank w) (t.bank w) ∧ SameH (s.bank w) (t.bank w) ∧
  (∀ i, i < 128 / wd → elemAt ((t.bank w).readV d.toNat).toNat wd i = lane i % 2 ^ wd) ∧
  ∀ r, r ≠ d.toNat → (t.bank w).readV r = (s.bank w).readV r

/-- The effect of an instruction that writes `x` to h_d and nothing else. -/
def WritesH (w : Site) (d : RegField) (x : W128) (s t : State) : Prop :=
  OnlyBank w s t ∧ Advanced (s.bank w) (t.bank w) ∧ (t.bank w).gprog = (s.bank w).gprog ∧
  SameG (s.bank w) (t.bank w) ∧ SameV (s.bank w) (t.bank w) ∧
  (t.bank w).readH d.toNat = x ∧ ∀ r, r ≠ d.toNat → (t.bank w).readH r = (s.bank w).readH r

/-! ### The values of the integer instructions (R92, R108, R109) -/

/-- What an instruction that writes one g register does: strand, destination, registers used, value. -/
structure GOp where
  w    : Site
  d    : RegField
  uses : List RegRef
  val  : State → W64

/-- The register-register form. -/
def gRR (w : Site) (d a b : RegField) (f : W64 → W64 → W64) : Option GOp :=
  some ⟨w, d, [.g d.toNat, .g a.toNat, .g b.toNat], fun s => f (s.g w a) (s.g w b)⟩

/-- The one-source form. -/
def gR (w : Site) (d a : RegField) (f : W64 → W64) : Option GOp :=
  some ⟨w, d, [.g d.toNat, .g a.toNat], fun s => f (s.g w a)⟩

/-- A shift by an immediate: imm[14:6] zero. -/
def gSh (w : Site) (d a : RegField) (imm : BitVec 15) (f : W64 → Nat → W64) : Option GOp :=
  if imm.toNat < 64 then gR w d a (fun x => f x imm.toNat) else none

/-- The value each integer instruction gives its destination: R108's table, R92 for the high products, R109 for
divisions. NOP is given destination g0; none where the instruction is not one of these or its form is reserved. -/
def gOp : Instr → Option GOp
  | .add w d a b => gRR w d a b fun x y => BitVec.ofNat 64 (x.toNat + y.toNat)
  | .sub w d a b => gRR w d a b fun x y => BitVec.ofInt 64 (x.toInt - y.toInt)
  | .and w d a b => gRR w d a b fun x y => x &&& y
  | .or w d a b => gRR w d a b fun x y => x ||| y
  | .xor w d a b => gRR w d a b fun x y => x ^^^ y
  | .andn w d a b => gRR w d a b fun x y => x &&& ~~~y
  | .sll w d a b => gRR w d a b fun x y => x <<< (y.toNat % 64)
  | .srl w d a b => gRR w d a b fun x y => x >>> (y.toNat % 64)
  | .sra w d a b => gRR w d a b fun x y => BitVec.ofInt 64 (x.toInt / 2 ^ (y.toNat % 64))
  | .rotr w d a b => gRR w d a b fun x y => x.rotateRight (y.toNat % 64)
  | .slt w d a b => gRR w d a b fun x y => if x.toInt < y.toInt then 1 else 0
  | .sltu w d a b => gRR w d a b fun x y => if x.toNat < y.toNat then 1 else 0
  | .min w d a b => gRR w d a b fun x y => BitVec.ofInt 64 (min x.toInt y.toInt)
  | .minu w d a b => gRR w d a b fun x y => BitVec.ofNat 64 (min x.toNat y.toNat)
  | .max w d a b => gRR w d a b fun x y => BitVec.ofInt 64 (max x.toInt y.toInt)
  | .maxu w d a b => gRR w d a b fun x y => BitVec.ofNat 64 (max x.toNat y.toNat)
  | .mul w d a b => gRR w d a b fun x y => BitVec.ofNat 64 (x.toNat * y.toNat)
  | .mulh w d a b => gRR w d a b fun x y => BitVec.ofInt 64 (x.toInt * y.toInt / 2 ^ 64)
  | .mulhu w d a b => gRR w d a b fun x y => BitVec.ofNat 64 (x.toNat * y.toNat / 2 ^ 64)
  | .mulhsu w d a b => gRR w d a b fun x y => BitVec.ofInt 64 (x.toInt * y.toNat / 2 ^ 64)
  | .div w d a b => gRR w d a b fun x y => if y = 0 then BitVec.ofInt 64 (-1) else BitVec.ofInt 64 (x.toInt.tdiv y.toInt)
  | .divu w d a b => gRR w d a b fun x y => if y = 0 then BitVec.allOnes 64 else BitVec.ofNat 64 (x.toNat / y.toNat)
  | .rem w d a b => gRR w d a b fun x y => if y = 0 then x else BitVec.ofInt 64 (x.toInt.tmod y.toInt)
  | .remu w d a b => gRR w d a b fun x y => if y = 0 then x else BitVec.ofNat 64 (x.toNat % y.toNat)
  | .clz w d a => gR w d a fun x => BitVec.ofNat 64 (((List.range 64).filter fun i => decide (x.toNat < 2 ^ i)).length)
  | .ctz w d a => gR w d a fun x => BitVec.ofNat 64 (((List.range 64).filter fun i => decide (x.toNat % 2 ^ (i + 1) = 0)).length)
  | .popc w d a => gR w d a fun x => BitVec.ofNat 64 (((List.range 64).filter fun i => x.getLsbD i).length)
  | .sextb w d a => gR w d a fun x => (x.setWidth 8).signExtend 64
  | .sexth w d a => gR w d a fun x => (x.setWidth 16).signExtend 64
  | .sextw w d a => gR w d a fun x => (x.setWidth 32).signExtend 64
  | .zextw w d a => gR w d a fun x => (x.setWidth 32).setWidth 64
  | .cmov w d a b => some ⟨w, d, [.g d.toNat, .g a.toNat, .g b.toNat], fun s => if s.g w b = 0 then s.g w d else s.g w a⟩
  | .addi w d a imm => gR w d a fun x => x + imm.signExtend 64
  | .andi w d a imm => gR w d a fun x => x &&& imm.signExtend 64
  | .ori w d a imm => gR w d a fun x => x ||| imm.signExtend 64
  | .xori w d a imm => gR w d a fun x => x ^^^ imm.signExtend 64
  | .slti w d a imm => gR w d a fun x => if x.toInt < imm.toInt then 1 else 0
  | .sltiu w d a imm => gR w d a fun x => if x.toNat < (imm.signExtend 64).toNat then 1 else 0
  | .slli w d a imm => gSh w d a imm fun x n => x <<< n
  | .srli w d a imm => gSh w d a imm fun x n => x >>> n
  | .srai w d a imm => gSh w d a imm fun x n => BitVec.ofInt 64 (x.toInt / 2 ^ n)
  | .lui w d imm => some ⟨w, d, [.g d.toNat], fun _ => BitVec.ofInt 64 (imm.toInt * 4096)⟩
  | .auipc w d imm => some ⟨w, d, [.g d.toNat], fun s => (s.pcOf w).setWidth 64 + BitVec.ofInt 64 (imm.toInt * 4096)⟩
  | .rdtime w d => some ⟨w, d, [.g d.toNat], fun s => s.timeOf (w.core.val / 64)⟩
  | .nop w => some ⟨w, 0, [], fun _ => 0⟩
  | .vext w lw idx gd va =>
    let wd := 8 * 2 ^ lw.toNat
    if idx.toNat < 128 / wd then
      some ⟨w, gd, [.g gd.toNat, .v va.toNat], fun s => BitVec.ofNat 64 (elemAt (s.v w va).toNat wd idx.toNat)⟩
    else none
  | _ => none

/-! ### The lanes of the short-vector instructions (R101-R104, R108) -/

/-- What an instruction that writes one v register does: strand, destination, registers used, lane width of the result, and
the lanes, of which a register holds the low bits. -/
structure VOp where
  w    : Site
  d    : RegField
  uses : List RegRef
  wd   : Nat
  lane : State → Nat → Nat

/-- A lane-wise integer operation on the va, vb and vd lanes; the register takes the result modulo the lane width (R101). -/
def vI (w : Site) (lw : BitVec 2) (vd va vb : RegField) (f : Nat → Nat → Nat → Nat → Int) : Option VOp :=
  let wd := 8 * 2 ^ lw.toNat
  some ⟨w, vd, [.v vd.toNat, .v va.toNat, .v vb.toNat], wd, fun s i =>
    (f wd (elemAt (s.v w va).toNat wd i) (elemAt (s.v w vb).toNat wd i) (elemAt (s.v w vd).toNat wd i) % 2 ^ wd).toNat⟩

/-- A bitwise operation on whole registers. -/
def vB (w : Site) (vd va vb : RegField) (f : W128 → W128 → W128 → W128) : Option VOp :=
  some ⟨w, vd, [.v vd.toNat, .v va.toNat, .v vb.toNat], 128, fun s _ => (f (s.v w va) (s.v w vb) (s.v w vd)).toNat⟩

/-- The format code of a floating-point lane (R51, R108): FP16, BF16, FP32. -/
def laneCode (lf : BitVec 2) : Nat := if lf = 0 then 2 else if lf = 1 then 3 else 1

/-- A lane-wise floating-point operation; a reserved lane format is no such operation. -/
def vF (w : Site) (lf : BitVec 2) (vd va vb : RegField) (f : Nat → Nat → Nat → Nat → Nat) : Option VOp :=
  if lf = 3 then none
  else
    let c := laneCode lf
    let wd := fmtWidth c
    some ⟨w, vd, [.v vd.toNat, .v va.toNat, .v vb.toNat], wd, fun s i =>
      f c (elemAt (s.v w va).toNat wd i) (elemAt (s.v w vb).toNat wd i) (elemAt (s.v w vd).toNat wd i)⟩

/-- The exact value of a lane, and a value rounded once to nearest even (R55, R101). -/
def rne (c : Nat) (x : Fv) : Nat := fvEnc c false .rne x

/-- A value held between two bounds. -/
def clampTo (lo hi x : Int) : Int := max lo (min hi x)

/-- The lanes each short-vector instruction gives its destination; none where the instruction is not one of these or its
form is reserved. -/
def vOp : Instr → Option VOp
  | .vintAdd w lw d a b => vI w lw d a b fun _ x y _ => x + y
  | .vintSub w lw d a b => vI w lw d a b fun _ x y _ => (x : Int) - y
  | .vintAdds w lw d a b => vI w lw d a b fun n x y _ => clampTo (-2 ^ (n - 1)) (2 ^ (n - 1) - 1) (toSigned n x + toSigned n y)
  | .vintAddus w lw d a b => vI w lw d a b fun n x y _ => clampTo 0 (2 ^ n - 1) ((x : Int) + y)
  | .vintSubs w lw d a b => vI w lw d a b fun n x y _ => clampTo (-2 ^ (n - 1)) (2 ^ (n - 1) - 1) (toSigned n x - toSigned n y)
  | .vintSubus w lw d a b => vI w lw d a b fun n x y _ => clampTo 0 (2 ^ n - 1) ((x : Int) - y)
  | .vintMul w lw d a b => vI w lw d a b fun _ x y _ => x * y
  | .vintMulh w lw d a b => vI w lw d a b fun n x y _ => toSigned n x * toSigned n y / 2 ^ n
  | .vintMulhu w lw d a b => vI w lw d a b fun n x y _ => x * y / 2 ^ n
  | .vintMin w lw d a b => vI w lw d a b fun n x y _ => min (toSigned n x) (toSigned n y)
  | .vintMinu w lw d a b => vI w lw d a b fun _ x y _ => min x y
  | .vintMax w lw d a b => vI w lw d a b fun n x y _ => max (toSigned n x) (toSigned n y)
  | .vintMaxu w lw d a b => vI w lw d a b fun _ x y _ => max x y
  | .vintAnd w _ d a b => vB w d a b fun x y _ => x &&& y
  | .vintOr w _ d a b => vB w d a b fun x y _ => x ||| y
  | .vintXor w _ d a b => vB w d a b fun x y _ => x ^^^ y
  | .vintAndn w _ d a b => vB w d a b fun x y _ => x &&& ~~~y
  | .bsel w _ d a b => vB w d a b fun x y z => (z &&& x) ||| (~~~z &&& y)
  | .vintSll w lw d a b => vI w lw d a b fun n x y _ => x * 2 ^ (y % n)
  | .vintSrl w lw d a b => vI w lw d a b fun n x y _ => x / 2 ^ (y % n)
  | .vintSra w lw d a b => vI w lw d a b fun n x y _ => toSigned n x / 2 ^ (y % n)
  | .cmpeq w lw d a b => vI w lw d a b fun _ x y _ => if x = y then -1 else 0
  | .cmplt w lw d a b => vI w lw d a b fun n x y _ => if toSigned n x < toSigned n y then -1 else 0
  | .cmpltu w lw d a b => vI w lw d a b fun _ x y _ => if x < y then -1 else 0
  | .vintAbs w lw d a b => vI w lw d a b fun n x _ _ => (toSigned n x).natAbs
  | .vintNeg w lw d a b => vI w lw d a b fun _ x _ _ => -(x : Int)
  | .fadd w lf d a b => vF w lf d a b fun c x y _ => rne c ((fvOf c x).add (fvOf c y))
  | .fsub w lf d a b => vF w lf d a b fun c x y _ => rne c ((fvOf c x).add (fvOf c y).neg)
  | .fmul w lf d a b => vF w lf d a b fun c x y _ => rne c ((fvOf c x).mul (fvOf c y))
  | .fma w lf d a b => vF w lf d a b fun c x y z => rne c (((fvOf c x).mul (fvOf c y)).add (fvOf c z))
  | .fmin w lf d a b => vF w lf d a b fun c x y _ => rne c ((fvOf c x).min (fvOf c y))
  | .fmax w lf d a b => vF w lf d a b fun c x y _ => rne c ((fvOf c x).max (fvOf c y))
  | .fabs w lf d a b => vF w lf d a b fun c x _ _ => if fvOf c x = .nan then rne c .nan else x % 2 ^ (fmtWidth c - 1)
  | .fneg w lf d a b => vF w lf d a b fun c x _ _ => if fvOf c x = .nan then rne c .nan else x + 2 ^ (fmtWidth c - 1)
  | .fcmpeq w lf d a b => vF w lf d a b fun c x y _ => if (fvOf c x).eq (fvOf c y) then 2 ^ fmtWidth c - 1 else 0
  | .fcmplt w lf d a b => vF w lf d a b fun c x y _ => if (fvOf c x).lt (fvOf c y) then 2 ^ fmtWidth c - 1 else 0
  | .fcmple w lf d a b => vF w lf d a b fun c x y _ =>
    if (fvOf c x).lt (fvOf c y) || (fvOf c x).eq (fvOf c y) then 2 ^ fmtWidth c - 1 else 0
  | .fdiv w lf d a b => if lf = 2 then vF w lf d a b fun c x y _ => rne c ((fvOf c x).div (fvOf c y)) else none
  | .fsqrt w lf d a b => if lf = 2 then vF w lf d a b fun c x _ _ => rne c (fvOf c x).sqrt else none
  | .vmulw w lw high sg d a b =>
    if lw = 3 ∨ sg = 3 then none
    else
      let n := 8 * 2 ^ lw.toNat
      let rd (signed : Bool) (x : Nat) : Int := if signed then toSigned n x else x
      some ⟨w, d, [.v d.toNat, .v a.toNat, .v b.toNat], 2 * n, fun s i =>
        let j := if high then 128 / (2 * n) + i else i
        (rd (decide (sg ≠ 1)) (elemAt (s.v w a).toNat n j) * rd (decide (sg = 0)) (elemAt (s.v w b).toNat n j) % 2 ^ (2 * n)).toNat⟩
  | .vdot w form d a b =>
    if form.toNat < 3 then
      let rd (signed : Bool) (x : Nat) : Int := if signed then toSigned 8 x else x
      some ⟨w, d, [.v d.toNat, .v a.toNat, .v b.toNat], 32, fun s i =>
        let p (j : Nat) : Int := rd (decide (form ≠ 1)) (elemAt (s.v w a).toNat 8 (4 * i + j)) *
          rd (decide (form = 0)) (elemAt (s.v w b).toNat 8 (4 * i + j))
        (((elemAt (s.v w d).toNat 32 i : Nat) + p 0 + p 1 + p 2 + p 3) % 2 ^ 32).toNat⟩
    else if form.toNat < 5 then
      let c := if form = 3 then 3 else 2
      some ⟨w, d, [.v d.toNat, .v a.toNat, .v b.toNat], 32, fun s i =>
        let p (j : Nat) : Fv := (fvOf c (elemAt (s.v w a).toNat 16 j)).mul (fvOf c (elemAt (s.v w b).toNat 16 j))
        rne 1 (((p (2 * i)).add (p (2 * i + 1))).add (fvOf 1 (elemAt (s.v w d).toNat 32 i)))⟩
    else none
  | .vsplat w lw idx d a =>
    if idx = 0 then some ⟨w, d, [.v d.toNat, .g a.toNat], 8 * 2 ^ lw.toNat, fun s _ => (s.g w a).toNat⟩ else none
  | .vins w lw idx d a =>
    let n := 8 * 2 ^ lw.toNat
    if idx.toNat < 128 / n then
      some ⟨w, d, [.v d.toNat, .g a.toNat], n, fun s i => if i = idx.toNat then (s.g w a).toNat else elemAt (s.v w d).toNat n i⟩
    else none
  | .vperm w idx d a b =>
    if idx = 0 then
      some ⟨w, d, [.v d.toNat, .v a.toNat, .v b.toNat], 8, fun s i => elemAt (s.v w a).toNat 8 (elemAt (s.v w b).toNat 8 i % 16)⟩
    else none
  | .vcvt w src dst nonsat d a =>
    if vcvtFormat src.toNat && vcvtFormat dst.toNat then
      some ⟨w, d, [.v d.toNat, .v a.toNat], fmtWidth dst.toNat, fun s i =>
        if i < 128 / max (fmtWidth src.toNat) (fmtWidth dst.toNat) then
          fvEnc dst.toNat (!nonsat) .rne (fvOf src.toNat (elemAt (s.v w a).toNat (fmtWidth src.toNat) i))
        else 0⟩
    else none
  | _ => none

/-! ### Transfers of control (R95, R99, R100, R108) -/

/-- What a branch or jump does: strand, registers used, the target it goes to where it is taken, the link register. -/
structure JOp where
  w      : Site
  uses   : List RegRef
  taken  : State → Bool
  target : State → VAddr
  link   : RegField

/-- A conditional branch. -/
def jB (w : Site) (a b : RegField) (off : BitVec 15) (p : W64 → W64 → Bool) : Option JOp :=
  some ⟨w, [.g a.toNat, .g b.toNat], fun s => p (s.g w a) (s.g w b),
    fun s => BitVec.ofInt 57 ((s.pcOf w).toNat + off.toInt * 4), 0⟩

/-- Branches and jumps: PC + off x 4, or for JALR (g_a + imm) with bits [1:0] cleared; the link register takes PC + 4. -/
def jOp : Instr → Option JOp
  | .beq w a b off => jB w a b off fun x y => x == y
  | .bne w a b off => jB w a b off fun x y => x != y
  | .blt w a b off => jB w a b off fun x y => decide (x.toInt < y.toInt)
  | .bge w a b off => jB w a b off fun x y => decide (y.toInt ≤ x.toInt)
  | .bltu w a b off => jB w a b off fun x y => decide (x.toNat < y.toNat)
  | .bgeu w a b off => jB w a b off fun x y => decide (y.toNat ≤ x.toNat)
  | .jal w d off => some ⟨w, [.g d.toNat], fun _ => true, fun s => BitVec.ofInt 57 ((s.pcOf w).toNat + off.toInt * 4), d⟩
  | .jalr w d a imm => some ⟨w, [.g d.toNat, .g a.toNat], fun _ => true,
      fun s => (BitVec.ofInt 57 ((s.g w a).toNat + imm.toInt)) &&& ~~~3, d⟩
  | _ => none

/-! ### Loads and stores (R96-R98, R108) -/

/-- A load: strand, hull register, address register, offset, size, destination, the value of its bytes. -/
structure LdOp where
  w    : Site
  h    : RegField
  a    : RegField
  off  : BitVec 10
  size : Nat
  use  : RegRef
  dest : MissDest
  err  : MemErr

/-- The loads (R108). -/
def ldOp : Instr → Option LdOp
  | .ldb w t a h off e => some ⟨w, h, a, off, 1, .g t.toNat, .greg t.toNat 1 true, e⟩
  | .ldbu w t a h off e => some ⟨w, h, a, off, 1, .g t.toNat, .greg t.toNat 1 false, e⟩
  | .ldh w t a h off e => some ⟨w, h, a, off, 2, .g t.toNat, .greg t.toNat 2 true, e⟩
  | .ldhu w t a h off e => some ⟨w, h, a, off, 2, .g t.toNat, .greg t.toNat 2 false, e⟩
  | .ldw w t a h off e => some ⟨w, h, a, off, 4, .g t.toNat, .greg t.toNat 4 true, e⟩
  | .ldwu w t a h off e => some ⟨w, h, a, off, 4, .g t.toNat, .greg t.toNat 4 false, e⟩
  | .ldd w t a h off e => some ⟨w, h, a, off, 8, .g t.toNat, .greg t.toNat 8 false, e⟩
  | .ldv w t a h off e => some ⟨w, h, a, off, 16, .v t.toNat, .vreg t.toNat, e⟩
  | _ => none

/-- The address of an M-format access (R107). -/
def LdOp.addr (o : LdOp) (s : State) : Nat := (((s.g o.w o.a).toNat + o.off.toInt * o.size) % 2 ^ 64).toNat

/-- What the bytes of a load leave in a bank: sign- or zero-extended into g_t, with g0 discarding them, or as they are into v_t or
h_t; nothing else of the bank changes. -/
def Loaded (d : MissDest) (b : List Byte) (k k' : Bank) : Prop :=
  match d with
  | .greg r n sg =>
    SameV k k' ∧ SameH k k' ∧ (∀ i, i ≠ r → k'.readG i = k.readG i) ∧
    (r ≠ 0 → k'.readG r = if sg then BitVec.ofInt 64 (toSigned (8 * n) (leNat b)) else BitVec.ofNat 64 (leNat b)) ∧
    k'.readG 0 = 0
  | .vreg r => SameG k k' ∧ SameH k k' ∧ (∀ i, i ≠ r → k'.readV i = k.readV i) ∧ k'.readV r = BitVec.ofNat 128 (leNat b)
  | .hreg r => SameG k k' ∧ SameV k k' ∧ (∀ i, i ≠ r → k'.readH i = k.readH i) ∧ k'.readH r = BitVec.ofNat 128 (leNat b)
  | _ => False

/-- Everything outside strand `w`, its core's L1D, prefetch progress and issue bookkeeping is unchanged: so is all of
memory. -/
def ElsewhereMem (w : Site) (s t : State) : Prop :=
  t = { s with cores := t.cores } ∧ (∀ c, c ≠ w.core.val → t.core c = s.core c) ∧
  (∃ k, t.core w.core.val = { s.core w.core.val with
    strands := (t.core w.core.val).strands, last := k, ibufs := (t.core w.core.val).ibufs, l1i := (t.core w.core.val).l1i,
    l1d := (t.core w.core.val).l1d, pst := (t.core w.core.val).pst, pmc := (t.core w.core.val).pmc,
    int := { (s.core w.core.val).int with ipend := (t.core w.core.val).int.ipend } }) ∧
  Undisturbed w s t

/-- R96: an aligned access of `size` bytes at `addr` under hull register `h` is allowed, and lies at physical address `pa`. -/
def allowed (s : State) (w : Site) (h : RegField) (addr size : Nat) (write : Bool) (pa : Nat) : Prop :=
  h.toNat < 16 ∧ addr % size = 0 ∧ hullCheck s (s.h w h.toNat) 1 (if write then rWRITE else rREAD) addr size = none ∧
  ∃ leaf, s.strandTr w.core.val (hSeal (s.h w h.toNat)) addr (if write then .write else .read) = .ok pa leaf

/-- A store: strand, hull register, address register, offset, size, source register, the value stored. -/
structure StOp where
  w    : Site
  h    : RegField
  a    : RegField
  off  : BitVec 10
  size : Nat
  use  : RegRef
  val  : State → Nat

/-- The stores (R108). -/
def stOp : Instr → Option StOp
  | .stb w t a h off => some ⟨w, h, a, off, 1, .g t.toNat, fun s => (s.g w t).toNat⟩
  | .sth w t a h off => some ⟨w, h, a, off, 2, .g t.toNat, fun s => (s.g w t).toNat⟩
  | .stw w t a h off => some ⟨w, h, a, off, 4, .g t.toNat, fun s => (s.g w t).toNat⟩
  | .std w t a h off => some ⟨w, h, a, off, 8, .g t.toNat, fun s => (s.g w t).toNat⟩
  | .stv w t a h off => some ⟨w, h, a, off, 16, .v t.toNat, fun s => (s.v w t).toNat⟩
  | _ => none

/-- The address of a store (R107). -/
def StOp.addr (o : StOp) (s : State) : Nat := (((s.g o.w o.a).toNat + o.off.toInt * o.size) % 2 ^ 64).toNat

/-- R98: strand `w`'s core has a free entry in its write-through buffer for it: at most 4 of a strand, 16 of the core. -/
abbrev canBuffer (s : State) (w : Site) : Prop :=
  ((s.core w.core.val).wbuf.filter fun e => decide (e.strand = w.strand.val)).length < 4 ∧ (s.core w.core.val).wbuf.length < 16

/-- R98, R331: the store is the newest entry of the buffer; the L1D's copy of its line, where there is one, is updated, but for the
store of a hull; memory is as before. -/
def Buffered (w : Site) (pa : Nat) (b : List Byte) (hull : Bool) (s t : State) : Prop :=
  t = { s with cores := t.cores } ∧ (∀ c, c ≠ w.core.val → t.core c = s.core c) ∧
  (∃ k, t.core w.core.val = { s.core w.core.val with
    strands := (t.core w.core.val).strands, last := k, ibufs := (t.core w.core.val).ibufs, l1i := (t.core w.core.val).l1i,
    pmc := (t.core w.core.val).pmc, int := { (s.core w.core.val).int with ipend := (t.core w.core.val).int.ipend },
    wbuf := (s.core w.core.val).wbuf ++ [⟨w.strand.val, (s.core w.core.val).serial, pa, b, (s.strand w).dom, hull⟩],
    serial := (s.core w.core.val).serial + 1,
    l1d := if isHbm pa && !hull then l1Store (s.core w.core.val).l1d pa b else (s.core w.core.val).l1d }) ∧
  Undisturbed w s t ∧ t.strand w = (s.strand w).setBank (t.bank w) ∧
  SameG (s.bank w) (t.bank w) ∧ SameV (s.bank w) (t.bank w) ∧ SameH (s.bank w) (t.bank w) ∧
  (t.bank w).gprog = (s.bank w).gprog ∧ Advanced (s.bank w) (t.bank w)

/-- The atomics: their number in R98's table, and their fields. -/
def amoForm : Instr → Option (Nat × Site × RegField × RegField × RegField × BitVec 4 × BitVec 2)
  | .amoAdd w d a b h z => some (0, w, d, a, b, h, z)
  | .amoSwap w d a b h z => some (1, w, d, a, b, h, z)
  | .amoAnd w d a b h z => some (2, w, d, a, b, h, z)
  | .amoOr w d a b h z => some (3, w, d, a, b, h, z)
  | .amoXor w d a b h z => some (4, w, d, a, b, h, z)
  | .amoMax w d a b h z => some (5, w, d, a, b, h, z)
  | .amoMin w d a b h z => some (6, w, d, a, b, h, z)
  | .amoMaxu w d a b h z => some (7, w, d, a, b, h, z)
  | .amoMinu w d a b h z => some (8, w, d, a, b, h, z)
  | .amoCas w d a b h z => some (9, w, d, a, b, h, z)
  | _ => none

/-- What an atomic stores over the old value `old` (R98): `b` the operand, `cmp` what CAS compares with. -/
def amoResult (n op old b cmp : Nat) : Nat :=
  let m := 2 ^ (8 * n)
  let b := b % m
  let sg (x : Nat) : Int := toSigned (8 * n) x
  match op with
  | 0 => (old + b) % m
  | 1 => b
  | 2 => old &&& b
  | 3 => old ||| b
  | 4 => old ^^^ b
  | 5 => if sg old < sg b then b else old
  | 6 => if sg b < sg old then b else old
  | 7 => max old b
  | 8 => min old b
  | _ => if old = cmp % m then b else old

/-! ### Forms that are not instructions (R107, R108) -/

/-- A reserved lane format. -/
def badLane (w : Site) (lf : BitVec 2) (d a b : RegField) : Option (Site × List RegRef × Nat) :=
  if lf = 3 then some (w, [.v d.toNat, .v a.toNat, .v b.toNat], 0x01) else none

/-- A form whose fields are reserved, or whose lane format the operation does not take: strand, registers used, fault code. -/
def badForm : Instr → Option (Site × List RegRef × Nat)
  | .slli w d a imm => if 64 ≤ imm.toNat then some (w, [.g d.toNat, .g a.toNat], 0x01) else none
  | .srli w d a imm => if 64 ≤ imm.toNat then some (w, [.g d.toNat, .g a.toNat], 0x01) else none
  | .srai w d a imm => if 64 ≤ imm.toNat then some (w, [.g d.toNat, .g a.toNat], 0x01) else none
  | .vext w lw idx d a => if 128 / (8 * 2 ^ lw.toNat) ≤ idx.toNat then some (w, [.g d.toNat, .v a.toNat], 0x01) else none
  | .vins w lw idx d a => if 128 / (8 * 2 ^ lw.toNat) ≤ idx.toNat then some (w, [.v d.toNat, .g a.toNat], 0x01) else none
  | .fadd w lf d a b => badLane w lf d a b
  | .fsub w lf d a b => badLane w lf d a b
  | .fmul w lf d a b => badLane w lf d a b
  | .fma w lf d a b => badLane w lf d a b
  | .fmin w lf d a b => badLane w lf d a b
  | .fmax w lf d a b => badLane w lf d a b
  | .fabs w lf d a b => badLane w lf d a b
  | .fneg w lf d a b => badLane w lf d a b
  | .fcmpeq w lf d a b => badLane w lf d a b
  | .fcmplt w lf d a b => badLane w lf d a b
  | .fcmple w lf d a b => badLane w lf d a b
  | .fdiv w lf d a b =>
    if lf = 3 then some (w, [.v d.toNat, .v a.toNat, .v b.toNat], 0x01)
    else if lf = 2 then none else some (w, [.v d.toNat, .v a.toNat, .v b.toNat], 0x20)
  | .fsqrt w lf d a b =>
    if lf = 3 then some (w, [.v d.toNat, .v a.toNat, .v b.toNat], 0x01)
    else if lf = 2 then none else some (w, [.v d.toNat, .v a.toNat, .v b.toNat], 0x20)
  | .vmulw w lw _ sg d a b => if lw = 3 ∨ sg = 3 then some (w, [.v d.toNat, .v a.toNat, .v b.toNat], 0x01) else none
  | .vdot w form d a b => if 5 ≤ form.toNat then some (w, [.v d.toNat, .v a.toNat, .v b.toNat], 0x01) else none
  | .vsplat w _ idx d a => if idx = 0 then none else some (w, [.v d.toNat, .g a.toNat], 0x01)
  | .vperm w idx d a b => if idx = 0 then none else some (w, [.v d.toNat, .v a.toNat, .v b.toNat], 0x01)
  | .vcvt w src dst _ d a => if vcvtFormat src.toNat && vcvtFormat dst.toNat then none else some (w, [.v d.toNat, .v a.toNat], 0x20)
  | .loop w a len => if len = 0 then some (w, [.g a.toNat], 0x01) else none
  | .lbrk w d _ => if d = 0 then none else some (w, [], 0x01)
  | .halt w d a b => if d = 0 ∧ a = 0 ∧ b = 0 then none else some (w, [], 0x01)
  | .rdsr w d a imm => if a = 0 ∧ imm.toNat < 256 then none else some (w, [.g d.toNat], 0x01)
  | .wrsr w d a imm => if d = 0 ∧ imm.toNat < 256 then none else some (w, [.g a.toNat], 0x01)
  | .hmov w d a => if d.toNat < 15 ∧ a.toNat < 16 then none else some (w, [.h d.toNat, .h a.toNat], 0x01)
  | .hclr w d => if d.toNat < 15 then none else some (w, [.h d.toNat], 0x01)
  | .hseal w d a => if d.toNat < 15 ∧ a.toNat < 16 then none else some (w, [.h d.toNat, .h a.toNat], 0x01)
  | .hderive w d a b c r =>
    if d.toNat < 15 ∧ a.toNat < 16 then none else some (w, [.h d.toNat, .h a.toNat, .g b.toNat, .g c.toNat, .g r.toNat], 0x01)
  | .hchk w d a b _ => if a.toNat < 16 then none else some (w, [.g d.toNat, .h a.toNat, .g b.toNat], 0x01)
  | .hld w d a b _ => if d.toNat < 15 ∧ b.toNat < 16 then none else some (w, [.h d.toNat, .g a.toNat, .h b.toNat], 0x01)
  | .hst w d a b _ => if d.toNat < 16 ∧ b.toNat < 16 then none else some (w, [.h d.toNat, .g a.toNat, .h b.toNat], 0x01)
  | .hcall w a => if a.toNat < 16 then none else some (w, [.h a.toNat, .h 1, .h 2, .h 3], 0x01)
  | i =>
    match amoForm i, ldOp i, stOp i with
    | some (_, w, d, a, b, h, z), _, _ =>
      if 2 ≤ z.toNat then none else some (w, [.g d.toNat, .g a.toNat, .g b.toNat, .h h.toNat], 0x01)
    | _, some o, _ => if o.h.toNat < 16 then none else some (o.w, [o.use, .g o.a.toNat, .h o.h.toNat], 0x01)
    | _, _, some o => if o.h.toNat < 16 then none else some (o.w, [o.use, .g o.a.toNat, .h o.h.toNat], 0x01)
    | _, _, _ => none

/-! ### Memory at home -/

/-- No line of the set that `pa`'s line belongs to is locked by a reduction or poisoned: an access there disturbs no memory but its
own (R346, R349). -/
def Calm (s : State) (pa : Nat) : Prop :=
  ∀ w, w < 16 → ((s.llcSet (llcKey pa)).way w).locked = false ∧
    ∀ line, (((s.llcSet (llcKey pa)).way w).line line).isSome = true → s.poisoned (line * 128) = false

/-- No chaff mark waits on a line of a slot (R343). -/
def Unmarked (sl : Slot) : Prop := ∀ l, sl.l0 = some l ∨ sl.l1 = some l → l.mark = false

/-- R139, R140: the entries that a walk of `va` in domain `d` reads down to a level are different words of HBM, in tables that the domain
has, outside `[pa, pa + n)`. -/
def WalkStands (s : State) (d va level pa n : Nat) : Prop :=
  ∀ k t, 1 ≤ k → k ≤ level → s.tableAt d va k = some t →
    let a := t + 8 * pteIndex k va
    isHbm a = true ∧ a % 8 = 0 ∧ (∃ p, p ∈ (s.dom d).tables ∧ p.1 ≤ a ∧ a + 8 ≤ p.1 + p.2) ∧ (a + 8 ≤ pa ∨ pa + n ≤ a) ∧
      ∀ j u, 1 ≤ j → j < k → s.tableAt d va j = some u → u + 8 * pteIndex j va ≠ a

/-- Bytes at `pa` that lie in one line of a scratchpad whose pod runs, or of HBM in a calm set. -/
def PlainWrite (s : State) (pa n : Nat) : Prop :=
  pa % 128 + n ≤ 128 ∧ isRegister pa = false ∧ s.padWaits pa = false ∧ (isHbm pa = true → Calm s pa)

/-- Memory `m'` is `m` with the bytes `b` at `pa`: these read as written, every other byte as before. -/
def Stored (m m' : List Host.Cell) (pa : Nat) (b : List Byte) : Prop :=
  (∀ i, i < b.length → tget memDefault m' (pa + i) = b.getD i 0) ∧
  ∀ a, a < pa ∨ pa + b.length ≤ a → tget memDefault m' a = tget memDefault m a

/-- Nothing of any strand differs. -/
def SameStrands (s t : State) : Prop := ∀ v : Site, t.strand v = s.strand v

/-- No strand but `w` differs. -/
def OtherStrands (w : Site) (s t : State) : Prop := ∀ v : Site, v ≠ w → t.strand v = s.strand v

/-- Nothing outside core `c` differs: so memory and every other core stand. -/
def OnlyCore (c : Nat) (s t : State) : Prop := t = { s with cores := t.cores } ∧ ∀ j, j ≠ c → t.core j = s.core j

/-- Strand `w` keeps its registers, is not parked, and goes on to its next instruction. -/
def GoesOn (w : Site) (s t : State) : Prop :=
  SameRegs (s.bank w) (t.bank w) ∧ Advanced (s.bank w) (t.bank w) ∧ (t.strand w).park = .none

/-- Strand `w` keeps its registers and its pc, and is parked for `p`. -/
def Parks (w : Site) (p : Park) (s t : State) : Prop := t.bank w = s.bank w ∧ (t.strand w).park = p

/-- A row of tile `t` moves between the tile and scratchpad memory: `n` bytes at `addr` that its hull allows, at `pa` in one line. -/
def RowAt (s : State) (h : W128) (addr n : Nat) (write : Bool) (pa : Nat) : Prop :=
  hullCheck s h 1 (if write then rWRITE else rREAD) addr n = none ∧ pa % 128 + n ≤ 128 ∧
  (∃ o off, regionOf pa = .scratch o off) ∧ s.padWaits pa = false ∧
  ∃ leaf, s.trRange (hSeal h) addr n (if write then .write else .read) = .ok [(pa, n, leaf)]

/-! ### Taking a fault or an interrupt (R150-R153) -/

/-- The state after an entry to S1 of strand `w`, from `s`: the pc and the cause are saved, the handler runs in S1 on a copy of the
registers with no loop armed, and the interrupted bank stands. -/
def EnteredS1 (w : Site) (code vector level kind : Nat) (addr info : W64) (pc : VAddr) (s t : State) : Prop :=
  let a := s.strand w
  let b := t.strand w
  b.cur = .s1 ∧ b.live1 = true ∧ b.live2 = a.live2 ∧ b.park = .none ∧ b.running = a.running ∧ b.b0 = a.b0 ∧ b.b2 = a.b2 ∧ b.r2 = a.r2 ∧
  b.dom = a.dom ∧ b.frames = a.frames ∧
  SameRegs a.b0 b.b1 ∧ b.b1.lc = 0 ∧ b.b1.lstart = 0 ∧ b.b1.lend = 0 ∧ b.b1.pc = pc ∧
  fld b.r1.cause 7 0 = code ∧ fld b.r1.cause 13 8 = vector ∧ fld b.r1.cause 15 14 = level ∧ fld b.r1.cause 17 16 = kind ∧
  fld b.r1.cause 31 20 = a.dom % 4096 ∧ b.r1.fpc = a.b0.pc ∧ b.r1.rpc = a.b0.pc ∧ b.r1.addr = addr ∧ b.r1.info = info ∧
  b.r1.ftime = s.timeOf (w.core.val / 64)

/-- R151: the vector entry of `vector` in strand `w`'s domain is valid, and its handler can be fetched at `pc`. -/
def Vectored (s : State) (w : Site) (vector : Nat) (pc : VAddr) : Prop :=
  bit (s.dom (s.strand w).dom).vbase 0 = true ∧
  ∃ pa leaf, s.translate (s.strand w).dom (fld (s.dom (s.strand w).dom).vbase 56 9 * 512 + 8 * vector) .read = .ok pa leaf ∧
    bit (s.vectorRead w.core.val pa).2 0 = true ∧ bit (s.vectorRead w.core.val pa).2 1 = false ∧
    fld (s.vectorRead w.core.val pa).2 63 57 = 0 ∧ pc = BitVec.ofNat 57 (fld (s.vectorRead w.core.val pa).2 56 2 * 4) ∧
    (s.vectorRead w.core.val pa).1.handlerFetch ((s.strand w).bank.readH 15) pc = .ok

/-! ### Matrix passes, streams and copies (chapters 8, 10 and 11) -/

/-- The fields of the pass that array `a` gets from MMA or MMAQ. -/
def PassFields (p : Pass) (g tile k n q a : Nat) (mask : W64) (zero : Bool) (lock : Nat) : Prop :=
  p.group = g ∧ p.tile = tile ∧ p.k = k ∧ p.n = n ∧ p.slot = 4 * q + a ∧ p.mask = mask ∧ p.zero = zero ∧ p.lock = lock

/-- Strand `w` goes on with `x` in g_d and every other register as it was; with d = 0 no register changes (R85). -/
def Answers (w : Site) (d : RegField) (x : W64) (s t : State) : Prop :=
  SameV (s.bank w) (t.bank w) ∧ SameH (s.bank w) (t.bank w) ∧ (t.bank w).gprog = (s.bank w).gprog ∧
  Advanced (s.bank w) (t.bank w) ∧ (t.strand w).park = .none ∧ (d ≠ 0 → (t.bank w).readG d.toNat = x) ∧
  ∀ r, r ≠ d.toNat → (t.bank w).readG r = (s.bank w).readG r

/-- `n` bytes at `a`, which hull register `h` and the pages allow to be read, lie together in scratchpad memory at `pa`. -/
def ReadsScratch (s : State) (w : Site) (h a n pa : Nat) : Prop :=
  (∃ leaf, s.trRange (hSeal (s.h w h)) a n .read = .ok [(pa, n, leaf)]) ∧
  hullCheck s (s.h w h) 1 rREAD a n = none ∧ s.padWaits pa = false ∧ (∀ i, i < n → ∃ o off, regionOf (pa + i) = .scratch o off)

/-- The bytes that a core reads of its own and other scratchpads: memory under its buffered stores (R98, R183). -/
def coreBytes (s : State) (c pa n : Nat) : List Byte := overlay (s.core c).wbuf pa (memBytes s.mem pa n)

/-- An element of a block that lies in a chain buffer. -/
def chainElem (m : List Host.Cell) (b : TBlock) (i : List Nat) : Nat :=
  leNat (memBytes m ((b.loc - 8) * 16384 + (b.at i).toNat) b.width)

/-- R262, R271, R272, R289: what an element-wise operation leaves in the chain buffers, point after point. -/
def chainRun (d : List Byte) (ins : List TBlock) (m : List Host.Cell) : List Host.Cell :=
  let isInt := ins.all (fun b => strInt b.fmt) && strInt (dY d).fmt
  (shapeSize (dShape d)).fold (fun n _ m =>
    let i := coordsOf (dShape d) n
    let x (j : Nat) : Fv := match ins[j]? with | some b => fvOf b.fmt (chainElem m b i) | none => .fin false 0 0
    let v := strElem (dOp d) (x 0) (x 1) (x 2) (scalarOf isInt (dS0 d)) (scalarOf isInt (dS1 d)) (x 2).isZero
    memPut m (((dY d).loc - 8) * 16384 + ((dY d).at i).toNat) (leBytes (dY d).width (fvEnc (dY d).fmt (dSat d) (strRnd d n) v))) m

/-- R309: the copy after its present row: the next row, or the next plane's first, or the end. -/
def RowMoved (a b : CopyItem) : Prop :=
  b.desc = a.desc ∧ b.seq = a.seq ∧ b.sig = a.sig ∧ b.started = true ∧
  (a.row + 1 < a.desc.rows → b.row = a.row + 1 ∧ b.plane = a.plane ∧ b.done = false) ∧
  (a.desc.rows ≤ a.row + 1 → a.plane + 1 < a.desc.planes → b.row = 0 ∧ b.plane = a.plane + 1 ∧ b.done = false) ∧
  (a.desc.rows ≤ a.row + 1 → a.desc.planes ≤ a.plane + 1 → b.done = true ∧ b.status = 0)

/-! ### The last-level cache and HBM (chapter 12) -/

/-- R496: one occurrence of `code` with a value enters the collector of die `die`; no other collector changes. -/
def Raised (die code value : Nat) (s t : State) : Prop :=
  (∃ o : Occ, tget [] t.evr.collectors die = tget [] s.evr.collectors die ++ [o] ∧ o.code = code ∧
    o.value = BitVec.ofNat 32 value ∧ o.n = 1 ∧ o.time = s.timeOf die ∧ o.die = die) ∧
  ∀ d, d ≠ die → tget [] t.evr.collectors d = tget [] s.evr.collectors d

/-- R312: one element of a reduction. -/
def reduced (op : RedOp) (old new : Nat) : Nat :=
  let sg (x : Nat) : Int := toSigned 32 x
  match op with
  | .addF32 => rne 1 ((fvOf 1 old).add (fvOf 1 new))
  | .addI32 => (old + new) % 2 ^ 32
  | .addWx => (wxReduce (BitVec.ofNat 128 old) (BitVec.ofNat 128 new)).toNat
  | .maxF32 => rne 1 ((fvOf 1 old).max (fvOf 1 new))
  | .minF32 => rne 1 ((fvOf 1 old).min (fvOf 1 new))
  | .maxI32 => if sg old < sg new then new else old
  | .minI32 => if sg new < sg old then new else old

/-- R312: the element size of a reduction. -/
def reducedSize (op : RedOp) : Nat := match op with | .addWx => 16 | _ => 4

/-- A way of a set that a fill can take at once: empty, unpinned and unlocked. -/
def FreeWay (x : LlcSet) : Prop :=
  ∃ w, w < 16 ∧ (x.way w).isEmpty = true ∧ (x.way w).pinned = false ∧ (x.way w).locked = false

/-- No line that any slice holds is poisoned. -/
def NoPoison (s : State) : Prop :=
  ∀ e, e ∈ s.llc → ∀ w, w ∈ e.2.slots → ∀ l, w.2.l0 = some l ∨ w.2.l1 = some l → l.poisoned = false

/-! ### Updates, schedules and losses (chapter 13) -/

/-- No line of any slice is poisoned and no slot is locked: no access at home disturbs memory but its own. -/
def Quiet (s : State) : Prop := NoPoison s ∧ ∀ e, e ∈ s.llc → ∀ w, w ∈ e.2.slots → w.2.locked = false

/-- No descriptor of update unit `x` is cancelled. -/
def NoneCancelled (s : State) (x : Nat) : Prop := ∀ q it, it ∈ ((s.updUnit x).queue q).items → it.cancel = false

/-- R371: `q` is the first queue of the unit, after the one it served last, that holds a descriptor, and `it` its oldest one. -/
def NextHead (s : State) (x q : Nat) (it : UpdItem) : Prop :=
  ∃ i, i < 16 ∧ q = ((s.updUnit x).runq + 1 + i) % 16 ∧ ((s.updUnit x).queue q).items.head? = some it ∧
    ∀ j, j < i → ((s.updUnit x).queue (((s.updUnit x).runq + 1 + j) % 16)).items = []

/-- An object of a namespace without waiters, of type counter (R408). -/
def QuietCounter (s : State) (d obj : Nat) : Prop :=
  s.objExists d obj = true ∧ objType (s.objWord d obj) = 0 ∧ ∀ w, w ∈ s.sync.waiters → w.dom = d → w.obj ≠ obj

/-- FP32 arithmetic: an operation on exact values and one rounding to nearest even. -/
def fp (x : Fv) : Nat := rne 1 x

/-- The value of an FP32 word. -/
def fv (x : Nat) : Fv := fvOf 1 x

/-! ### Synchronisation objects and rings (chapter 14) -/

/-- R413: hull `h` gives the rights `mask` over object `obj` of this module, which exists. -/
def SyncLocal (s : State) (h : W128) (mask obj : Nat) : Prop :=
  hullCheck4 s h 2 mask = none ∧ obj < 65536 ∧ nfld (hBase h) 15 0 ≤ obj ∧ obj < nfld (hBase h) 15 0 + hLen h ∧
  nfld (hBase h) 27 16 = s.moduleId.toNat ∧ s.objExists (hSeal h) obj = true

/-- No party waits on the object. -/
def NoWaiters (s : State) (d obj : Nat) : Prop := ∀ w, w ∈ s.sync.waiters → w.dom = d → w.obj ≠ obj

/-- A signalling instruction is done: g_d has `old`, the object's word passes `P`, and no other object, memory byte or strand has
changed. -/
def SyncDone (w : Site) (gd : RegField) (old : W64) (d obj : Nat) (P : W64 → Prop) (s t : State) : Prop :=
  Answers w gd old s t ∧ OtherStrands w s t ∧ t.mem = s.mem ∧ P (t.objWord d obj) ∧
  ∀ k, k ≠ objKey d obj → tget 0 t.sync.words k = tget 0 s.sync.words k

/-- Fields [63:32] and [31:0] of a word after an operation on its value. -/
def NewValue (x : W64) (v : Nat) (y : W64) : Prop := fld y 63 32 = fld x 63 32 ∧ fld y 31 0 = v % 2 ^ 32

/-! ### Links (chapter 15) -/

/-- Nothing of the links but port `k` is changed, and outside them only counters, the interrupts these make pending, and the
recorder's collectors. -/
def OnlyPort (k : Nat) (s t : State) : Prop :=
  t = { s with link := t.link, pmc := t.pmc, cores := t.cores, evr := t.evr } ∧
  t.link = { s.link with ports := t.link.ports } ∧ SameStrands s t ∧ ∀ j, j ≠ k → t.port j = s.port j

/-- The block on the wire of port `p` carries a flit with these fields and the acknowledgement of the last flit received. -/
def Sends (p q : Port) (seq : Nat) (ctrl : Bool) (vc cls : Nat) (payload : List Byte) : Prop :=
  ∃ f : Flit, q.wire = rsBlock (flitBytes f) ∧ f.seq = seq ∧ f.ctrl = ctrl ∧ f.vc = vc ∧ f.cls = cls ∧ f.payload = payload ∧
    f.ackseq = (p.rxSeq - 1).toNat ∧ f.nak = p.nak

/-- R445, R467: a port whose masks are `tx` and `rx` is UP with sixteen wavelengths each way, else DEGRADED. -/
def HasLanes (q : Port) (tx rx : W16) : Prop :=
  q.txmask = tx ∧ q.rxmask = rx ∧ q.state = if maskCount tx = 16 ∧ maskCount rx = 16 then 2 else 3

/-- A packet with property `P` has entered a port's queue of channel `vc`, first hop class. -/
def Queued (vc : Nat) (P : Packet → Prop) (s t : State) : Prop :=
  ∃ o y, P y ∧ tget [] (t.port o).tx (vcKey vc 1) = tget [] (s.port o).tx (vcKey vc 1) ++ [⟨y, 0⟩]

/-- R458: `p` is acknowledged with a status. -/
def Acked (p : Packet) (status : Nat) (s t : State) : Prop :=
  Queued 1 (fun y => y.kind = 9 ∧ y.dst = p.src ∧ y.tag = p.tag ∧ y.status = status) s t

/-- The packet `x` is at the head of a receive channel of a port, and its buffer is freed once it is taken. -/
def TakesHead (k key : Nat) (s t : State) : Prop :=
  (tget RxChan.empty (t.port k).rx key).pkts = (tget RxChan.empty (s.port k).rx key).pkts.drop 1

/-! ### Mailboxes (chapter 16) -/

/-- Neither a register of a strand nor a byte of memory differs. -/
def Kept (s t : State) : Prop := SameStrands s t ∧ t.mem = s.mem

/-- R472-R477: Luami can begin the command `op` that mailbox `m` holds: it has been accepted and its response is wanted, it is its turn, the
boot has ended, no reset is due, the module is not decommissioned, and no byte outside the parameter ranges `used` is set. -/
def Holds (s : State) (m op : Nat) (used : List (Nat × Nat)) : Prop :=
  let x := s.mbx m
  x.busy = true ∧ x.stage = 0 ∧ x.arg = [] ∧ x.opcode = op ∧ x.drop = false ∧ s.booted = true ∧ s.mgmt.boot.due = none ∧ s.turn m = true ∧
  s.mgmt.lc.state ≠ 4 ∧ ∀ o, 4 ≤ o → o < 64 → x.at o 1 ≠ 0 → ∃ r, r ∈ used ∧ r.1 ≤ o ∧ o < r.2

/-- R475: the command that mailbox `m` holds may act for domain `d`, named by its parameter at offset `o`. -/
def ActsFor (s : State) (m o d : Nat) : Prop :=
  d ≠ 0 ∧ d ≤ 4095 ∧ s.live d = true ∧
  if m = 0 then (s.mbx m).at o 2 = d else s.callerDom m = d ∧ ((s.mbx m).at o 2 = 0 ∨ (s.mbx m).at o 2 = d)

/-- The result field of `n` bytes at offset `o` of the response in mailbox `m`. -/
def State.rsp (s : State) (m o n : Nat) : Nat := leAt (s.mbx m).rsp o n

/-- R473, R474: mailbox `m` has been answered: opcode and tag echoed, STATUS, DETAIL, DONE set, BUSY clear, COUNT one more. -/
def Answered (m status detail : Nat) (s t : State) : Prop :=
  (t.mbx m).busy = false ∧ (t.mbx m).done = true ∧ (t.mbx m).stage = 0 ∧ (t.mbx m).count = (s.mbx m).count + 1 ∧
  (t.mbx m).rsp.length = 64 ∧ t.rsp m 0 4 = (s.mbx m).at 0 4 ∧ t.rsp m 4 1 = status ∧ t.rsp m 6 2 = detail

/-- R475, R477: `i` is a command of mailbox `m`: opcode, whether only the PF issues it, parameter ranges. -/
def MbxCommand (m : Fin 320) (us : BitVec 32) (img : Option FwImage) (i : Instr) (op : Nat) (pf : Bool) (used : List (Nat × Nat)) : Prop :=
  let l : List (Instr × Nat × Bool × List (Nat × Nat)) :=
    [(.identity m, 0x0001, false, []), (.timeCorrelate m, 0x0002, false, []), (.moduleStatus m, 0x0003, false, []),
     (.regRead m, 0x0004, true, [(8, 17)]), (.alertAck m, 0x0005, true, [(8, 12)]), (.moduleReset m, 0x0006, true, []),
     (.epochStatus m, 0x0007, false, []), (.sensorRead m, 0x0008, false, [(8, 11)]),
     (.domainCreate m, 0x0100, true, [(8, 50), (52, 64)]), (.domainStart m, 0x0101, false, [(8, 12), (16, 32)]),
     (.domainRevoke m us, 0x0102, false, [(8, 10)]), (.pageMap m, 0x0103, false, [(8, 12), (16, 32)]),
     (.pageUnmap m, 0x0104, false, [(8, 11), (16, 25)]), (.funcBind m, 0x0105, true, [(8, 9), (10, 12)]),
     (.bar2Window m, 0x0106, false, [(8, 10), (16, 24)]), (.hostWindow m, 0x0107, false, [(8, 12), (16, 32)]),
     (.vectorSet m, 0x0108, false, [(8, 10), (16, 32)]), (.quotaSet m, 0x0109, true, [(8, 10), (16, 24)]),
     (.irqBind m, 0x010A, false, [(8, 13)]), (.faultPolicy m, 0x010B, true, [(8, 11)]),
     (.hullLend m, 0x0200, false, [(8, 12), (16, 40)]), (.rightGrant m, 0x0201, false, [(8, 20), (24, 32)]),
     (.syncGrant m, 0x0203, false, [(8, 11), (12, 20), (24, 32)]), (.updqBind m, 0x0204, false, [(8, 12), (16, 32)]),
     (.updqUnbind m, 0x0205, false, [(8, 12)]), (.pinLimit m, 0x0206, true, [(8, 12)]),
     (.mbxGrant m, 0x0207, false, [(8, 10), (16, 24)]), (.peerPair m, 0x0208, true, [(8, 14)]),
     (.chanConfig m, 0x0209, false, [(8, 64)]), (.chanUnconfig m, 0x020A, false, [(8, 11), (12, 14)]),
     (.podVoltage m, 0x0300, true, [(8, 13)]), (.powerCap m, 0x0301, true, [(8, 10)]), (.podPark m, 0x0302, true, [(8, 13)]),
     (.routeWrite m, 0x0400, true, [(8, 11), (16, 64)])] ++
    [(.routeCommit m, 0x0401, true, []), (.portPower m, 0x0402, true, [(8, 17)]), (.conflictClear m, 0x0403, true, [(8, 10)]),
     (.evrRead m, 0x0500, true, [(8, 11)]), (.evrClear m, 0x0501, true, [(8, 12)]), (.evrNotes m, 0x0502, true, [(8, 9)]),
     (.evrConfig m, 0x0503, true, [(8, 14), (16, 20)]), (.pmcCapture m, 0x0504, false, [(8, 9)]),
     (.pmcTrigset m, 0x0505, true, [(8, 14)]), (.bwWindow m, 0x0506, true, [(8, 12)]), (.evrAos m, 0x0507, true, [(8, 10)]),
     (.grnInfo m, 0x0600, false, []), (.grnKeyCreate m, 0x0601, true, [(16, 24)]), (.grnKeyBind m, 0x0602, true, [(8, 12)]),
     (.grnKeyErase m, 0x0603, true, [(8, 10)]), (.grnCreate m, 0x0604, false, [(8, 11), (16, 32)]),
     (.grnGrant m, 0x0605, true, [(8, 11), (12, 16), (24, 32)]), (.grnRead m, 0x0606, false, [(8, 56)]),
     (.grnWrite m, 0x0607, false, [(8, 56)]), (.grnCommit m, 0x0608, false, [(8, 10), (12, 24), (40, 48)]),
     (.grnDelete m, 0x0609, false, [(8, 10), (12, 16), (40, 48)]), (.grnObjstat m, 0x060A, false, [(8, 10), (12, 16), (40, 48)]),
     (.grnHealth m, 0x060B, false, []), (.grnList m, 0x060C, true, [(8, 12)]), (.bootStatus m, 0x0700, false, []),
     (.dieReset m us, 0x0701, true, [(8, 9)]), (.podReset m us, 0x0702, true, [(8, 9)]),
     (.runtimeLoad m, 0x0703, false, [(8, 10), (16, 32)]), (.fwStage m img, 0x0704, true, [(8, 9), (10, 13), (16, 32)]),
     (.fwActivate m, 0x0705, true, [(8, 9)]), (.lcChallenge m, 0x0706, true, []), (.lcToken m, 0x0707, true, [(8, 9), (16, 64)]),
     (.lcTransition m, 0x0708, true, [(8, 9)]), (.lcProvision m, 0x0709, true, [(8, 10)])]
  (i, op, pf, used) ∈ l

/-- R476: the tick-bound command of mailbox `m` has been accepted, with what it must remember; nothing else has changed. -/
def AcceptedTick (m : Nat) (arg : List Nat) (s t : State) : Prop :=
  t = { s with mgmt := t.mgmt } ∧ t.mbx m = { s.mbx m with stage := 1, arg := arg } ∧ t.mgmt.boot = s.mgmt.boot ∧
  t.mgmt.pwr = { s.mgmt.pwr with tcmds := s.mgmt.pwr.tcmds ++ [m] } ∧ t.mgmt.epoch = s.mgmt.epoch

/-- R476: the staged command of mailbox `m` has been accepted. -/
def AcceptedStaged (m : Nat) (x : Staged) (s t : State) : Prop :=
  t = { s with mgmt := t.mgmt } ∧ t.mbx m = { s.mbx m with stage := 1, arg := [] } ∧
  t.mgmt.epoch = { s.mgmt.epoch with waiting := s.mgmt.epoch.waiting ++ [(some m, x)] }

/-- Luami places the hull `h` in the hull-page word at `pa`. -/
def PlacesHull (pa : Nat) (h : W128) (s t : State) : Prop := Stored s.mem t.mem pa (leBytes 16 h.toNat)

/-! ### Reset (chapter 19) -/

/-- R541, R542: `t` is `s` after a module reset with a cause, in state `st`: everything is as right after reset, but the granary's
committed images and keys, the slots' images, the boot count, the rollback counter and the life cycle stay. -/
def AfterReset (cause : Nat) (st : PowerState) (s t : State) : Prop :=
  t.cores = [] ∧ t.doms = [] ∧ t.mem = [] ∧ t.hbm = [] ∧ t.sync = State.reset.sync ∧ t.upd = State.reset.upd ∧
  t.link = { State.reset.link with lasers := tmap Lasers.reset Lasers.afterReset s.link.lasers } ∧ t.evr.records = [] ∧ t.time = 0 ∧ t.pending = s.pending ∧ (∀ m, t.mbx m = Mbx.reset) ∧
  (∀ o, (t.obj o).data = (s.obj o).data ∧ (t.obj o).opened = (s.obj o).data ∧ (t.obj o).clen = (s.obj o).clen ∧
    (t.obj o).gen = (s.obj o).gen ∧ (t.obj o).cap = (s.obj o).cap) ∧
  t.mgmt.grn.keys = s.mgmt.grn.keys ∧ t.mgmt.grn.xfers = [] ∧ t.mgmt.grn.ready = false ∧
  t.mgmt.boot.state = st ∧ t.mgmt.boot.cause = BitVec.ofNat 3 cause ∧ t.mgmt.boot.done = false ∧ t.mgmt.boot.due = none ∧
  t.mgmt.boot.bootn = s.mgmt.boot.bootn ∧ t.mgmt.boot.roll = s.mgmt.boot.roll ∧ t.mgmt.boot.b.img = s.mgmt.boot.b.img ∧
  t.mgmt.lc.state = s.mgmt.lc.state ∧ t.mgmt.lc.serial = s.mgmt.lc.serial ∧ t.mgmt.lc.modid = s.mgmt.lc.modid ∧ t.mgmt.lc.token = []

/-- R503: the newest entry of the always-on store. -/
def LastAos (code value : Nat) (s t : State) : Prop :=
  ∃ e : AosEntry, t.evr.aos.getLast? = some e ∧ e.code = code ∧ e.value = BitVec.ofNat 32 value ∧ e.time = s.timeOf 4

/-- R546: a slot that the germ may try. -/
def Boot.may (b : Boot) (x : Bool) : Prop := (b.slotOf x).img.formed = true ∧ b.roll.toNat ≤ (b.slotOf x).img.rollIdx.toNat

/-- R547: a boot that has ended: running, DONE, on image slot `x`; the granary and HBM ready, memory zero. -/
def Booted (x : Bool) (env : BootEnv) (s t : State) : Prop :=
  t.mgmt.boot.state = .running ∧ t.mgmt.boot.done = true ∧ t.mgmt.boot.phase = 10 ∧ t.mgmt.boot.slot = x ∧
  t.mgmt.boot.bootn = s.mgmt.boot.bootn + 1 ∧ t.moduleId = s.mgmt.lc.modid.getD 0 ∧ t.mgmt.grn.ready = true ∧
  t.mgmt.grn.holdup = env.holdup ∧ t.mem = [] ∧ (∀ k, k < 16 → (t.stack k).ready = true) ∧ t.pmc.avail = true ∧
  (∃ o : Occ, o ∈ tget [] t.evr.collectors 4 ∧ o.code = 0x500 ∧ o.value = BitVec.ofNat 32 env.ms)

/-- R118: the virtual address `va` of domain `d` names a hull-page word, at physical address `pa` in ordinary memory. -/
def HullWord (s : State) (d va pa : Nat) : Prop := s.hullSpot d va 0 = .inr pa ∧ PlainWrite s pa 16

/-- R135: domain `d` is REVOKED, its cores run nothing, and the last steps have begun. -/
def Going (d : Nat) (s t : State) : Prop :=
  (t.dom d).state = 2 ∧ (t.dom d).husking = true ∧ (t.dom d).sweeping = true ∧
  ∀ c i, c ∈ (s.dom d).cores → ((t.core c).strand i).running = false

/-- R135: nothing of domain `d` is left: it is FREE, its cores have no domain and no strand runs, no register of any strand holds a
hull of it, no translation of it is cached, and its pages read zero. -/
def Gone (d : Nat) (s t : State) : Prop :=
  t.dom d = Domain.free ∧ (∀ c, c ∈ (s.dom d).cores → (t.core c).domain = 0 ∧ ∀ i, (t.core c).strand i = Strand.reset) ∧
  (∀ (v : Site) (r : Nat), sealedBy d ((t.bank v).readH r) = false) ∧ (∀ c y, y ∈ (t.core c).tlb → y.dom ≠ d) ∧
  ∀ p a, p ∈ (s.dom d).pages → p.1 ≤ a → a < p.1 + p.2 → tget memDefault t.mem a = 0

end Sys2Proof.Machine
end

