-- ==== Sys2Proof/Certificates/Slice0/Obligations.lean ====
section
/-! DEFINITION. The statements: what each family of commands does, where it completes, and what it leaves alone; what every
step keeps. -/

open Sys2Proof Sys2Proof.Machine

/-! ### The queue, and what every step does -/

/-- A step takes the command at the front of the queue and runs it with the queue's rest. The model's choices: log entry 1. -/
def Obligations.StepRunsFrontCommand : Prop :=
  ∀ (c : Instr) (rest : List Instr) (s : State),
    step { s with pending := c :: rest } = exec c { s with pending := rest }

/-- No command is left without a meaning, and the only stop is an access of a home slice at an address that is not HBM. The
model's choices: log entry 113. -/
def Obligations.CommandsStopOnlyAtAddressHoles : Prop :=
  ∀ (c : Instr) (s : State),
    (∃ t, exec c s = .next t) ∨
    (exec c s = .fault .addressHole ∧
      ((∃ r, c = .llcAccess r ∧ isHbm r.addr = false) ∨ ∃ a op d m e, c = .reductionRequest a op d m e ∧ isHbm a = false))

/-! ### Chapter 4: strands and the scalar and short-vector instructions -/

/-- The integer instructions, with RDTIME, NOP and VEXT: a strand that is ready writes the value of R108's table to g_d, goes on
to its next instruction, and changes nothing else. The short-vector instructions: every lane of v_d takes its value, and nothing
else changes. The model's choices: log entries 6, 17. -/
def Obligations.IntegerAndVectorInstructionsWriteTheirResult : Prop :=
  (
    ∀ (c : Instr) (o : GOp) (s : State), gOp c = some o → s.ready o.w o.uses = true →
      ∃ t, exec c s = .next t ∧ WritesG o.w o.d (o.val s) s t) ∧
  (
    ∀ (c : Instr) (o : VOp) (s : State), vOp c = some o → s.ready o.w o.uses = true →
      ∃ t, exec c s = .next t ∧ WritesV o.w o.d o.wd (o.lane s) s t)

/-- A reserved form takes its fault (FLT_ILLEGAL, or FLT_FORMAT for a lane format the operation does not take). -/
def Obligations.ReservedFormsFault : Prop :=
  ∀ (c : Instr) (w : Site) (uses : List RegRef) (code : Nat) (s : State),
    badForm c = some (w, uses, code) → s.ready w uses = true →
    ∃ u, Noted w s u ∧ exec c s = .next (u.takeFault w (flt code))

/-- Branches and jumps: the pc goes to the target where the condition holds, the loop registers standing, and on otherwise; JAL
and JALR leave PC + 4 in g_d. LOOP with LC = 0 arms the loop, or skips the body on a zero count; with LC not 0 it faults with
FLT_LOOP; LBRK clears LC and jumps. -/
def Obligations.BranchesJumpsAndLoopsTransferControl : Prop :=
  (
    ∀ (c : Instr) (o : JOp) (s : State), jOp c = some o → s.ready o.w o.uses = true →
      ∃ t, exec c s = .next t ∧ OnlyBank o.w s t ∧
        SameV (s.bank o.w) (t.bank o.w) ∧ SameH (s.bank o.w) (t.bank o.w) ∧ (t.bank o.w).gprog = (s.bank o.w).gprog ∧
        (∀ r, r ≠ o.link.toNat → (t.bank o.w).readG r = (s.bank o.w).readG r) ∧
        (o.link ≠ 0 → (t.bank o.w).readG o.link.toNat = (s.pcOf o.w + 4).setWidth 64) ∧
        (o.taken s = true → (t.bank o.w).pc = o.target s ∧ (t.bank o.w).lc = (s.bank o.w).lc ∧
          (t.bank o.w).lstart = (s.bank o.w).lstart ∧ (t.bank o.w).lend = (s.bank o.w).lend) ∧
        (o.taken s = false → Advanced (s.bank o.w) (t.bank o.w))) ∧
  (
    ∀ (w : Site) (s : State),
      (∀ (a : RegField) (len : BitVec 15), len ≠ 0 → s.ready w [.g a.toNat] = true → (s.bank w).lc = 0 →
        ∃ t, exec (.loop w a len) s = .next t ∧ OnlyBank w s t ∧ SameRegs (s.bank w) (t.bank w) ∧
          (t.bank w).lstart = s.pcOf w + 4 ∧ (t.bank w).lend = s.pcOf w + BitVec.ofNat 57 (4 * len.toNat) ∧
          (s.g w a = 0 → (t.bank w).lc = 0 ∧ (t.bank w).pc = (t.bank w).lend + 4) ∧
          (s.g w a ≠ 0 → (t.bank w).lc = s.g w a ∧ (t.bank w).pc = s.pcOf w + 4)) ∧
      (∀ (a : RegField) (len : BitVec 15), len ≠ 0 → s.ready w [.g a.toNat] = true → (s.bank w).lc ≠ 0 →
        ∃ u, Noted w s u ∧ exec (.loop w a len) s = .next (u.takeFault w (flt 0x04))) ∧
      (∀ off : BitVec 20, s.ready w [] = true →
        ∃ t, exec (.lbrk w 0 off) s = .next t ∧ OnlyBank w s t ∧ SameRegs (s.bank w) (t.bank w) ∧ (t.bank w).lstart = (s.bank w).lstart ∧
          (t.bank w).lend = (s.bank w).lend ∧ (t.bank w).lc = 0 ∧
          (t.bank w).pc = BitVec.ofInt 57 ((s.pcOf w).toNat + off.toInt * 4)))

/-- RDSR reads the strand registers of R87: the running bank's pc, loop registers and gather progress, the strand's numbers, its
fault record (zero in S0), the domain's vector base and double-fault address; a reserved number faults with FLT_ILLEGAL. WRSR
writes LC, GPROG, the drain seed, the mask (which a callee's write leaves alone) and, in a shadow bank, the return address;
every other number faults with FLT_ILLEGAL and nothing is written. -/
def Obligations.StrandRegistersAreReadAndWritten : Prop :=
  (
    ∀ (w : Site) (d : RegField) (imm : BitVec 15) (s : State), s.ready w [.g d.toNat] = true → imm.toNat < 256 →
      (∀ x, s.strandReg w imm.toNat = some x → ∃ t, exec (.rdsr w d 0 imm) s = .next t ∧ WritesG w d x s t) ∧
      (s.strandReg w imm.toNat = none → ∃ u, Noted w s u ∧ exec (.rdsr w d 0 imm) s = .next (u.takeFault w (flt 0x01))) ∧
      (imm = 0x00 → s.strandReg w imm.toNat = some ((s.pcOf w).setWidth 64)) ∧
      (imm = 0x01 → s.strandReg w imm.toNat = some (s.bank w).lc) ∧
      (imm = 0x02 → s.strandReg w imm.toNat = some ((s.bank w).lstart.setWidth 64)) ∧
      (imm = 0x03 → s.strandReg w imm.toNat = some ((s.bank w).lend.setWidth 64)) ∧
      (imm = 0x04 → s.strandReg w imm.toNat = some (s.bank w).gprog) ∧
      (imm = 0x05 → s.strandReg w imm.toNat = some (BitVec.ofNat 64 (w.strand.val + 8 * w.core.val + 2048 * (w.core.val / 64) +
        8192 * (w.core.val / 8) + 2 ^ 18 * (w.strand.val / 4) + (if w.core.val % 8 = 0 then 2 ^ 19 else 0)))) ∧
      (imm = 0x60 → s.strandReg w imm.toNat = some (s.core w.core.val).acc.seed) ∧
      (imm = 0x83 → (s.strand w).cur = .s1 → s.strandReg w imm.toNat = some ((s.strand w).r1.fpc.setWidth 64)) ∧
      (imm = 0x83 → (s.strand w).cur = .s0 → s.strandReg w imm.toNat = some 0) ∧
      (imm = 0x88 → s.strandReg w imm.toNat = some (s.dom (s.strand w).dom).vbase) ∧
      (imm = 0x89 → s.strandReg w imm.toNat = some (s.dom (s.strand w).dom).dfpc)) ∧
  (
    ∀ (w : Site) (a : RegField) (s : State), s.ready w [.g a.toNat] = true →
      (∃ t, exec (.wrsr w 0 a 0x01) s = .next t ∧ OnlyBank w s t ∧ SameRegs (s.bank w) (t.bank w) ∧
        Advanced { s.bank w with lc := s.g w a } (t.bank w)) ∧
      (∃ t, exec (.wrsr w 0 a 0x04) s = .next t ∧ OnlyBank w s t ∧ SameG (s.bank w) (t.bank w) ∧ SameV (s.bank w) (t.bank w) ∧
        SameH (s.bank w) (t.bank w) ∧ Advanced (s.bank w) (t.bank w) ∧
        (t.bank w).gprog = s.g w a &&& 0x7FFFFFFFFFFFFF3F) ∧
      (∃ t, exec (.wrsr w 0 a 0x60) s = .next t ∧ (t.core w.core.val).acc.seed = s.g w a ∧
        SameRegs (s.bank w) (t.bank w) ∧ Advanced (s.bank w) (t.bank w) ∧ t = { s with cores := t.cores } ∧
        ∀ v : Site, v ≠ w → t.strand v = s.strand v) ∧
      (∃ t, exec (.wrsr w 0 a 0x80) s = .next t ∧ Elsewhere w s t ∧ SameRegs (s.bank w) (t.bank w) ∧
        Advanced (s.bank w) (t.bank w) ∧
        (t.strand w).smask = if s.inCallee w then (s.strand w).smask else (s.g w a).setWidth 3) ∧
      (∃ t, exec (.wrsr w 0 a 0x84) s = .next t ∧ Elsewhere w s t ∧ SameRegs (s.bank w) (t.bank w) ∧
        Advanced (s.bank w) (t.bank w) ∧
        (t.strand w).r1.rpc = (if (s.strand w).cur = .s1 then (s.g w a).setWidth 57 &&& ~~~3 else (s.strand w).r1.rpc) ∧
        (t.strand w).r2.rpc = (if (s.strand w).cur = .s2 then (s.g w a).setWidth 57 &&& ~~~3 else (s.strand w).r2.rpc)) ∧
      ∀ imm : BitVec 15, imm.toNat < 256 → imm ≠ 0x01 → imm ≠ 0x04 → imm ≠ 0x60 → imm ≠ 0x80 → imm ≠ 0x84 →
        ∃ u, Noted w s u ∧ exec (.wrsr w 0 a imm) s = .next (u.takeFault w (flt 0x01)))

/-- STRST starts a HALTED strand of the core with zero registers and the starter's hulls; a RUNNING target faults with
FLT_STRAND, and a callee with FLT_CALL_UNIT; HALT leaves the strand HALTED in S0 with no frame. No other strand changes. The
model's choices: log entry 11. -/
def Obligations.StrandsStartAndHalt : Prop :=
  ∀ (w : Site) (s : State),
    (∀ (a b : RegField) (v : Site), s.ready w ([.g a.toNat, .g b.toNat] ++ (List.range 16).map RegRef.h) = true →
      v.core = w.core → v.strand.val = (s.g w a).toNat % 8 →
      (s.inCallee w = false → (s.strand v).running = false →
        ∃ t, exec (.strst w a b) s = .next t ∧ t = { s with cores := t.cores } ∧
          (t.strand v).running = true ∧ (t.strand v).cur = .s0 ∧ (t.strand v).frames = [] ∧ (t.strand v).park = .none ∧
          (t.strand v).dom = (s.core w.core.val).domain ∧
          (∀ r, (t.bank v).readG r = 0 ∧ (t.bank v).readV r = 0 ∧ (t.bank v).readH r = (s.bank w).readH r) ∧
          (t.bank v).lc = 0 ∧ (t.bank v).lstart = 0 ∧ (t.bank v).lend = 0 ∧ (t.bank v).gprog = 0 ∧
          (t.bank v).pc = (s.g w b).setWidth 57 &&& ~~~3 ∧
          SameRegs (s.bank w) (t.bank w) ∧ Advanced (s.bank w) (t.bank w) ∧
          ∀ x : Site, x ≠ w → x ≠ v → t.strand x = s.strand x) ∧
      (s.inCallee w = true → ∃ u, Noted w s u ∧ exec (.strst w a b) s = .next (u.takeFault w (flt 0x1B))) ∧
      (s.inCallee w = false → (s.strand v).running = true →
        ∃ u, Noted w s u ∧ exec (.strst w a b) s = .next (u.takeFault w (flt 0x03)))) ∧
    (s.ready w [] = true → (s.strand w).owesData = false →
      ∃ t, exec (.halt w 0 0 0) s = .next t ∧ (t.strand w).running = false ∧ (t.strand w).cur = .s0 ∧
        (t.strand w).frames = [] ∧ (t.strand w).live1 = false ∧ (t.strand w).live2 = false ∧
        t.mem = s.mem ∧ t.hbm = s.hbm ∧ t.doms = s.doms ∧ ∀ x : Site, x ≠ w → t.strand x = s.strand x)

/-- A load that its hull and page allow delivers the line's bytes, under the core's buffered stores, from an L1D hit, or from
the core's own scratchpad; from HBM without a hit it becomes the strand's outstanding miss. Memory is unchanged. -/
def Obligations.LoadsDeliverOrMiss : Prop :=
  ∀ (c : Instr) (o : LdOp) (s : State) (pa : Nat), ldOp c = some o →
    s.ready o.w [o.use, .g o.a.toNat, .h o.h.toNat] = true → allowed s o.w o.h (o.addr s) o.size false pa →
    (∀ i, isHbm pa = true → l1Find (s.core o.w.core.val).l1d 8 pa = some i → o.err ≠ .parity →
      ∃ t, exec c s = .next t ∧ ElsewhereMem o.w s t ∧ t.strand o.w = (s.strand o.w).setBank (t.bank o.w) ∧
        Advanced (s.bank o.w) (t.bank o.w) ∧ (t.bank o.w).gprog = (s.bank o.w).gprog ∧
        Loaded o.dest (overlay (s.core o.w.core.val).wbuf pa (l1Bytes (s.core o.w.core.val).l1d i pa o.size)) (s.bank o.w) (t.bank o.w)) ∧
    (∀ off, regionOf pa = .scratch o.w.core.val off → o.err = .none →
      ∃ t, exec c s = .next t ∧ ElsewhereMem o.w s t ∧ t.strand o.w = (s.strand o.w).setBank (t.bank o.w) ∧
        Advanced (s.bank o.w) (t.bank o.w) ∧ (t.bank o.w).gprog = (s.bank o.w).gprog ∧
        Loaded o.dest (overlay (s.core o.w.core.val).wbuf pa (memBytes s.mem pa o.size)) (s.bank o.w) (t.bank o.w)) ∧
    (isHbm pa = true → l1Find (s.core o.w.core.val).l1d 8 pa = none → (s.strand o.w).miss = none →
      ∃ t, exec c s = .next t ∧ ElsewhereMem o.w s t ∧ SameRegs (s.bank o.w) (t.bank o.w) ∧
        Advanced (s.bank o.w) (t.bank o.w) ∧ (t.strand o.w).park = .none ∧
        (t.strand o.w).miss = some ⟨pa, o.size, o.dest, forwarded (s.core o.w.core.val).wbuf pa o.size,
          (s.core o.w.core.val).serial, true, false⟩)

/-- A store that its hull and page allow, with room in the buffer, becomes the newest entry of the write-through buffer: the
bytes of its source at the address its fields give. Memory itself changes when the entry is performed. STORE_PERFORMED takes an
entry that no older one of its line stands before out of the buffer and writes its bytes at home; every other byte and every
register stands. The access finds no error. The model's choices: log entry 115. -/
def Obligations.StoresAreBufferedAndReachMemory : Prop :=
  (
    ∀ (c : Instr) (o : StOp) (s : State) (pa : Nat), stOp c = some o →
      s.ready o.w [o.use, .g o.a.toNat, .h o.h.toNat] = true → allowed s o.w o.h (o.addr s) o.size true pa → canBuffer s o.w →
      ∃ t, exec c s = .next t ∧ Buffered o.w pa (leBytes o.size (o.val s)) false s t) ∧
  (
    ∀ (c : Fin 256) (i : Fin 16) (e : StoreEntry) (s : State), (s.core c.val).wbuf[i.val]? = some e →
      ((s.core c.val).wbuf.take i.val).any (fun o => decide (lineOf o.pa = lineOf e.pa)) = false →
      (s.core c.val).olderMiss e = false → PlainWrite s e.pa e.bytes.length →
      ∃ t, exec (.storePerformed c i []) s = .next t ∧ (t.core c.val).wbuf = (s.core c.val).wbuf.eraseIdx i.val ∧
        Stored s.mem t.mem e.pa e.bytes ∧ ∀ v : Site, SameRegs (s.bank v) (t.bank v))

/-- An atomic on a word or double word that WRITE and the page allow becomes the strand's outstanding miss, and
MISS_DATA_DELIVER performs it at home: memory takes the new value, g_d the old one, sign-extended. A load's delivery writes its
register; one whose line a stream fill of the core brings in comes with that fill. The reads find no error. The model's choices:
log entries 10, 112. -/
def Obligations.MissesDeliverAndAtomicsUpdateMemory : Prop :=
  (∀ (c : Instr) (op : Nat) (w : Site) (d a b : RegField) (h : BitVec 4) (z : BitVec 2) (s : State) (pa : Nat),
    amoForm c = some (op, w, d, a, b, h, z) → 2 ≤ z.toNat →
    s.ready w [.g d.toNat, .g a.toNat, .g b.toNat, .h h.toNat] = true →
    allowed s w (h.setWidth 5) (s.g w a).toNat (2 ^ z.toNat) true pa → (s.strand w).miss = none →
    ∃ t, exec c s = .next t ∧ ElsewhereMem w s t ∧ SameRegs (s.bank w) (t.bank w) ∧ Advanced (s.bank w) (t.bank w) ∧
      ∃ f, (t.strand w).miss =
        some ⟨pa, 2 ^ z.toNat, .amo d.toNat (2 ^ z.toNat) op (s.g w b) (s.g w d), f, (s.core w.core.val).serial, false, false⟩) ∧
  (∀ (w : Site) (m : Miss) (r n op : Nat) (b cmp : W64) (s : State), (s.strand w).miss = some m → m.dest = .amo r n op b cmp →
    (s.core w.core.val).olderStore m = false → m.fill = false → PlainWrite s m.pa n →
    ∃ t, exec (.missDataDeliver w []) s = .next t ∧ OtherStrands w s t ∧ (t.strand w).miss = (s.strand w).miss2 ∧
      (r ≠ 0 → (t.bank w).readG r = BitVec.ofInt 64 (toSigned (8 * n) (leNat (memBytes s.mem m.pa n)))) ∧
      (∀ i, i ≠ r → (t.bank w).readG i = (s.bank w).readG i) ∧ SameV (s.bank w) (t.bank w) ∧ SameH (s.bank w) (t.bank w) ∧
      Stored s.mem t.mem m.pa (leBytes n (amoResult n op (leNat (memBytes s.mem m.pa n)) b.toNat cmp.toNat))) ∧
  (∀ (w : Site) (m : Miss) (s : State), (s.strand w).miss = some m → isMemory m.pa = true → PlainWrite s m.pa m.size →
    (∀ r n op b c, m.dest ≠ .amo r n op b c) → (∀ d, m.dest ≠ .hcall d) → m.dest ≠ .gather →
    ∃ t, exec (.missDataDeliver w []) s = .next t ∧ (t.strand w).miss = (s.strand w).miss2 ∧
      ((∀ f, f ∈ (s.core w.core.val).pfills → f.l2 = false → lineOf f.pa ≠ lineOf m.pa) → OtherStrands w s t) ∧
      Loaded m.dest (applyFwd m.fwd (memBytes s.mem m.pa m.size)) (s.bank w) (t.bank w)) ∧
  (∀ (w : Site) (k : Fin 4) (m : Miss) (s : State), (s.strand w).spLoads[k.val]? = some m → m.parityErr = false → s.padWaits m.pa = false →
    (∀ r n op b c, m.dest ≠ .amo r n op b c) → (∀ d, m.dest ≠ .hcall d) → m.dest ≠ .gather →
    ∃ t, exec (.scratchpadLoadReturn w k) s = .next t ∧ OtherStrands w s t ∧ t.mem = s.mem ∧
      (t.strand w).spLoads = (s.strand w).spLoads.eraseIdx k.val ∧
      Loaded m.dest (applyFwd m.fwd (memBytes s.mem m.pa m.size)) (s.bank w) (t.bank w))

/-- VGATHER of elements that all lie in scratchpads loads each into its place of v_d, the rest of v_d zero, and leaves the
core's gather port free. No other strand holds the port and the reads find no error. -/
def Obligations.GathersLoadEveryElement : Prop :=
  ∀ (w : Site) (vd ga vb : RegField) (h : BitVec 4) (size : BitVec 2) (count : BitVec 4) (pa : Nat → Nat) (s : State),
    let es := 2 ^ size.toNat
    let n := count.toNat + 1
    let index (i : Nat) : Int :=
      if size.toNat < 2 then toSigned 16 (elemAt (s.v w (vb + BitVec.ofNat 5 (i / 8))).toNat 16 (i % 8))
      else toSigned 32 (elemAt (s.v w vb).toNat 32 i)
    s.ready w ([.v vd.toNat, .g ga.toNat, .v vb.toNat] ++ (if size = 0 then [.v (vb.toNat + 1)] else []) ++ [.h h.toNat]) = true →
    (s.core w.core.val).gatherBusy w.strand.val = false →
    n ≤ 16 / es → vd ≠ vb → (size = 0 → vd ≠ vb + 1 ∧ vb.toNat % 2 = 0) → (s.g w ga).toNat % es = 0 →
    bit (s.bank w).gprog 5 = false →
    (∀ i, i < n → allowed s w (h.setWidth 5) (((s.g w ga).toNat + index i * es) % 2 ^ 64).toNat es false (pa i) ∧
      s.padWaits (pa i) = false ∧ ∃ o off, regionOf (pa i) = .scratch o off) →
    ∃ t, exec (.vgather w vd ga vb h size count []) s = .next t ∧ ElsewhereMem w s t ∧
      t.strand w = { (s.strand w).setBank (t.bank w) with gather := false } ∧ SameG (s.bank w) (t.bank w) ∧ SameH (s.bank w) (t.bank w) ∧
      Advanced (s.bank w) (t.bank w) ∧ bit (t.bank w).gprog 5 = false ∧
      (∀ r, r ≠ vd.toNat → (t.bank w).readV r = (s.bank w).readV r) ∧
      ∀ i, i < 16 / es → elemAt ((t.bank w).readV vd.toNat).toNat (8 * es) i =
        if i < n then leNat (overlay (s.core w.core.val).wbuf (pa i) (memBytes s.mem (pa i) es)) else 0

/-- L1I_FILL makes the strand it served ready; TABLE_WALK_DONE caches the leaf and makes the strand ready, or takes
FLT_TRANSLATION at the level where the walk failed. The walk's reads find no error, and no line of a slice is locked or
poisoned. -/
def Obligations.FillsAndWalksReleaseTheStrand : Prop :=
  ∀ (w : Site) (s : State),
    (∀ pa, (s.strand w).park = .l1i pa →
      ∀ (parity : Bool) (e : ErrMap), ∃ t, exec (.l1iFill w parity e) s = .next t ∧ t.strand w = { s.strand w with park := .none } ∧
        OtherStrands w s t) ∧
    (∀ d va kind hreg level leaf pa l, (s.strand w).park = .walk d va kind hreg → s.walk d va = .leaf level leaf →
      leafCheck level leaf va kind = .ok pa l → Quiet s →
      ∃ t, exec (.tableWalkDone w []) s = .next t ∧ t.strand w = { s.strand w with park := .none } ∧ OtherStrands w s t ∧
        (t.core w.core.val).tlb = ⟨d, va / leafSize level * leafSize level, level, leaf⟩ :: (s.core w.core.val).tlb ∧
        t.mem = s.mem) ∧
    (∀ d va kind hreg level, (s.strand w).park = .walk d va kind hreg → s.walk d va = .invalid level → Quiet s →
      ∃ u : State, u.mem = s.mem ∧ u.cores = s.cores ∧ u.doms = s.doms ∧ exec (.tableWalkDone w []) s =
        .next ((u.park w .none).takeFault w (fltA 0x10 va hreg level kind.isWrite (decide (kind = .fetch)))))

/-! ### Chapter 5: hulls and calls between domains -/

/-- HDERIVE narrows a live hull that has DERIVE to a representable range inside it, with the rights that mask leaves; HSEAL
makes an entry hull of a sealable block; HMOV copies and HCLR nulls; HCHK answers the four queries. HLD makes the hull's address
the strand's outstanding miss with destination h_d; HST puts the 16 bytes of the hull into the store buffer; each on an aligned
address its hull and a hull page allow. -/
def Obligations.HullInstructionsAndTheirMemoryForms : Prop :=
  (
    ∀ (w : Site) (s : State),
      (∀ (hd ha gb gc gr : RegField) (e m : Nat), hd.toNat < 15 → ha.toNat < 16 →
        s.ready w [.h hd.toNat, .h ha.toNat, .g gb.toNat, .g gc.toNat, .g gr.toNat] = true →
        hullCheck4 s (s.h w ha.toNat) (hType (s.h w ha.toNat)) rDERIVE = none → hType (s.h w ha.toNat) ≠ 3 →
        hullBounds (s.h w ha.toNat) (s.g w gb).toNat (s.g w gc).toNat = true →
        canonLen (s.g w gb).toNat (s.g w gc).toNat = some (e, m) →
        ∃ t x, exec (.hderive w hd ha gb gc gr) s = .next t ∧ WritesH w hd x s t ∧
          hType x = hType (s.h w ha.toNat) ∧ hSeal x = hSeal (s.h w ha.toNat) ∧ hBase x = (s.g w gb).toNat ∧
          hLen x = (s.g w gc).toNat ∧
          BitVec.ofNat 16 (hRights x) = BitVec.ofNat 16 (hRights (s.h w ha.toNat)) &&& (s.g w gr).setWidth 16 &&&
            BitVec.ofNat 16 (rightsMask (hType x) (hKind x))) ∧
      (∀ (hd ha : RegField), hd.toNat < 15 → ha.toNat < 16 → s.ready w [.h hd.toNat, .h ha.toNat] = true →
        hullCheck4 s (s.h w ha.toNat) 1 (rSEALABLE + rHLOAD) = none → hLen (s.h w ha.toNat) = 64 → hBase (s.h w ha.toNat) % 64 = 0 →
        ∃ t x, exec (.hseal w hd ha) s = .next t ∧ WritesH w hd x s t ∧ hType x = 3 ∧ hSeal x = hSeal (s.h w ha.toNat) ∧
          hBase x = hBase (s.h w ha.toNat) ∧ hLen x = 64 ∧ hHas x 1 = true ∧ hHas x rPASS = hHas (s.h w ha.toNat) rPASS) ∧
      (∀ (hd ha : RegField), hd.toNat < 15 → ha.toNat < 16 → s.ready w [.h hd.toNat, .h ha.toNat] = true →
        ∃ t, exec (.hmov w hd ha) s = .next t ∧ WritesH w hd (s.h w ha.toNat) s t) ∧
      (∀ hd : RegField, hd.toNat < 15 → s.ready w [.h hd.toNat] = true →
        ∃ t, exec (.hclr w hd) s = .next t ∧ WritesH w hd 0 s t) ∧
      (∀ (gd ha gb : RegField) (q : BitVec 2), ha.toNat < 16 → s.ready w [.g gd.toNat, .h ha.toNat, .g gb.toNat] = true →
        let h := s.h w ha.toNat
        let ok := hType h ≠ 0 ∧ hMalformed h = false ∧ s.live (hSeal h) = true
        ∃ t x, exec (.hchk w gd ha gb q) s = .next t ∧ WritesG w gd x s t ∧
          (q = 0 → fld x 3 0 = hType h ∧ (bit x 4 = true ↔ ok) ∧ fld x 15 5 = 0 ∧ fld x 31 16 = hRights h ∧ fld x 43 32 = hSeal h ∧
            fld x 63 44 = 0) ∧
          (q = 1 → x = if hType h = 3 then 0 else BitVec.ofNat 64 (hBase h)) ∧
          (q = 2 → x = if hType h = 3 then 0 else BitVec.ofNat 64 (hLen h)) ∧
          (q = 3 → (x = 1 ∨ x = 0) ∧ (x = 1 ↔ ok ∧ hBase h ≤ (s.g w gb).toNat ∧ (s.g w gb).toNat < hBase h + hLen h)))) ∧
  (
    ∀ (w : Site) (hd ga hb : RegField) (off : BitVec 7) (pa : Nat) (leaf : W64) (s : State),
      let a := (((s.g w ga).toNat + off.toInt * 16) % 2 ^ 64).toNat
      s.ready w [.h hd.toNat, .g ga.toNat, .h hb.toNat] = true → hb.toNat < 16 → a % 16 = 0 →
      (hd.toNat < 15 → hullCheck s (s.h w hb.toNat) 1 rHLOAD a 16 = none →
        s.strandTr w.core.val (hSeal (s.h w hb.toNat)) a .hullRead = .ok pa leaf → (s.strand w).miss = none →
        ∃ t f, exec (.hld w hd ga hb off) s = .next t ∧ ElsewhereMem w s t ∧ SameRegs (s.bank w) (t.bank w) ∧
          Advanced (s.bank w) (t.bank w) ∧
          (t.strand w).miss = some ⟨pa, 16, .hreg hd.toNat, f, (s.core w.core.val).serial, false, false⟩) ∧
      (hd.toNat < 16 → hullCheck s (s.h w hb.toNat) 1 rHSTORE a 16 = none →
        s.strandTr w.core.val (hSeal (s.h w hb.toNat)) a .hullWrite = .ok pa leaf →
        (hSeal (s.h w hb.toNat) = (s.strand w).dom ∨ mayCross (s.h w hd.toNat) (hSeal (s.h w hb.toNat)) = true) → canBuffer s w →
        ∃ t, exec (.hst w hd ga hb off) s = .next t ∧ Buffered w pa (leBytes 16 (s.h w hd.toNat).toNat) true s t) ∧
      (hd.toNat < 16 → hullCheck s (s.h w hb.toNat) 1 rHSTORE a 16 = none →
        s.strandTr w.core.val (hSeal (s.h w hb.toNat)) a .hullWrite = .ok pa leaf →
        hSeal (s.h w hb.toNat) ≠ (s.strand w).dom → mayCross (s.h w hd.toNat) (hSeal (s.h w hb.toNat)) = false →
        ∃ u, Noted w s u ∧ exec (.hst w hd ga hb off) s = .next (u.takeFault w (fltH 0x0E hd.toNat))))

/-- HCALL that passes its first checks reads the entry block; when the block arrives with a good code hull and h1-h3 may cross,
the caller's state is framed and the callee runs at the base of its code hull (a multiple of 4) with g1-g15, v0-v7, h1-h3 and
the block's four hulls; HRET gives the caller back all but those. The block's read finds no error. -/
def Obligations.CallsFrameAndReturn : Prop :=
  ∀ (w : Site) (s : State),
    (∀ (ha : RegField) (pa : Nat) (leaf : W64), ha.toNat < 16 → s.ready w [.h ha.toNat, .h 1, .h 2, .h 3] = true →
      hullCheck s (s.h w ha.toNat) 3 1 (hBase (s.h w ha.toNat)) 64 = none → (s.strand w).frames.length < 2 →
      (s.strand w).owesData = false → (hSeal (s.h w ha.toNat) = (s.strand w).dom ∨ s.owesStores w = false) →
      s.strandTr w.core.val (hSeal (s.h w ha.toNat)) (hBase (s.h w ha.toNat)) .hullRead = .ok pa leaf →
      ∃ t f n, exec (.hcall w ha) s = .next t ∧ Elsewhere w s t ∧
        t.strand w = { s.strand w with miss := some ⟨pa, 64, .hcall (hSeal (s.h w ha.toNat)), f, n, false, false⟩, park := .fill }) ∧
    (∀ (m : Miss) (d : DomNo) (slot : Nat → W128), (s.strand w).miss = some m → m.dest = .hcall d →
      (s.core w.core.val).olderStore m = false → PlainWrite s m.pa 64 →
      (∀ i, i < 4 → slot i = BitVec.ofNat 128 (leNat (memBytes s.mem (m.pa + 16 * i) 16))) →
      hType (slot 3) = 1 → hMalformed (slot 3) = false → s.live (hSeal (slot 3)) = true → hHas (slot 3) rEXEC = true →
      hSeal (slot 3) = d → (∀ r, 1 ≤ r → r ≤ 3 → mayCross (s.h w r) d = true) →
      ∃ t, exec (.missDataDeliver w []) s = .next t ∧ t.mem = s.mem ∧ t.doms = s.doms ∧ OtherStrands w s t ∧
        (t.strand w).frames = (s.strand w).frames ++ [⟨s.bank w, (s.strand w).dom, (s.strand w).cur⟩] ∧ (t.strand w).dom = d ∧
        (t.strand w).miss = none ∧ (t.strand w).park = .none ∧ (t.bank w).pc = BitVec.ofNat 57 (hBase (slot 3)) &&& ~~~3 ∧
        (t.bank w).lc = 0 ∧ (t.bank w).lstart = 0 ∧ (t.bank w).lend = 0 ∧ (t.bank w).gprog = 0 ∧
        (∀ r, (t.bank w).readG r = if r < 16 then (s.bank w).readG r else 0) ∧
        (∀ r, (t.bank w).readV r = if r < 8 then (s.bank w).readV r else 0) ∧
        ∀ r, (t.bank w).readH r = if 1 ≤ r ∧ r ≤ 3 then (s.bank w).readH r else if 12 ≤ r ∧ r ≤ 15 then slot (r - 12) else 0) ∧
    (∀ f : Frame, s.ready w [.h 1, .h 2, .h 3] = true → (s.strand w).frames.getLast? = some f →
      (∀ r, 1 ≤ r → r ≤ 3 → mayCross (s.h w r) f.dom = true) → (s.strand w).owesData = false →
      (f.dom = (s.strand w).dom ∨ s.owesStores w = false) →
      ∃ t, exec (.hret w) s = .next t ∧ Elsewhere w s t ∧ (t.strand w).frames = (s.strand w).frames.dropLast ∧
        (t.strand w).dom = f.dom ∧ (t.bank w).pc = f.bank.pc + 4 ∧ (t.bank w).lc = f.bank.lc ∧ (t.bank w).lstart = f.bank.lstart ∧
        (t.bank w).lend = f.bank.lend ∧ (t.bank w).gprog = f.bank.gprog ∧
        (∀ r, (t.bank w).readG r = if r < 16 then (s.bank w).readG r else f.bank.readG r) ∧
        (∀ r, (t.bank w).readV r = if r < 8 then (s.bank w).readV r else f.bank.readV r) ∧
        ∀ r, (t.bank w).readH r = if 1 ≤ r ∧ r ≤ 3 then (s.bank w).readH r else f.bank.readH r)

/-! ### Chapter 6: faults and interrupts -/

/-- A synchronous fault in S0 that the mask does not hold enters S1 at its vector's handler with the pc and the cause saved; one
in S1 enters S2 at the double-fault address; one in S2 resets the core's strands. The strand is at an instruction boundary and
the code is one that enters a vector. The model's choices: log entry 7. -/
def Obligations.FaultsEnterTheirHandler : Prop :=
  ∀ (w : Site) (code : BitVec 8) (vector : Nat) (addr info : BitVec 64) (s : State),
    s.ready w [] = true → (s.strand w).owesData = false → vectorOf code.toNat = some vector →
    (∀ pc, (s.strand w).cur = .s0 → s.maskHolds w (s.faultLevel w vector) = false → Vectored s w vector pc →
      ∃ t, exec (.faultEntry w code addr info) s = .next t ∧ OtherStrands w s t ∧
        EnteredS1 w code.toNat vector (s.faultLevel w vector) 0 addr info pc s t) ∧
    (∀ pc, (s.strand w).cur = .s1 → bit (s.dom (s.strand w).dom).dfpc 0 = true →
      pc = BitVec.ofNat 57 (fld (s.dom (s.strand w).dom).dfpc 56 2 * 4) →
      s.handlerFetch ((s.strand w).b1.readH 15) pc = .ok →
      ∃ t, exec (.faultEntry w code addr info) s = .next t ∧ OtherStrands w s t ∧ t.mem = s.mem ∧
        (t.strand w).cur = .s2 ∧ (t.strand w).live2 = true ∧ (t.strand w).b0 = (s.strand w).b0 ∧ (t.strand w).b1 = (s.strand w).b1 ∧
        (t.strand w).r1 = (s.strand w).r1 ∧ (t.strand w).b2.pc = pc ∧ SameRegs (s.strand w).b1 (t.strand w).b2 ∧
        (t.strand w).b2.lc = 0 ∧ (t.strand w).r2.fpc = (s.strand w).b1.pc ∧ (t.strand w).r2.rpc = (s.strand w).b1.pc ∧
        fld (t.strand w).r2.cause 7 0 = code.toNat ∧ (t.strand w).r2.addr = addr ∧ (t.strand w).r2.info = info ∧
        (t.strand w).r2.ftime = s.timeOf (w.core.val / 64)) ∧
    ((s.strand w).cur = .s2 → (s.dom (s.core w.core.val).domain).state = 1 →
      ∃ t, exec (.faultEntry w code addr info) s = .next t ∧ ∀ i, (t.core w.core.val).strand i = Strand.reset)

/-- An interrupt that the strand is to take, while it is not parked and owes nothing, clears its pending bit and enters S1 with
kind 1; the timer makes vector 32 pending once TIME has reached COMPARE; a write of FLT_ISET makes vectors 48-63 pending. FRET
from S1 with no call frame open since entry goes on at the return address in S0: with COMMIT in the handler's registers, h15 and
the loop registers aside, and without it in those S0 had; the S1 record is cleared. From S0 it is illegal. The model's choices:
log entry 7. -/
def Obligations.InterruptsEnterAndFretReturns : Prop :=
  (
    ∀ (s : State),
      (∀ (w : Site) (i : Nat) (pc : VAddr), s.nextVector w = some i → (s.strand w).owesData = false → (s.strand w).park = .none →
        let s' := s.modCore w.core.val fun k => { k with int := { k.int with ipend := setBit k.int.ipend i false } }
        Vectored (s'.park w .none) w (32 + i) pc → (s.strand w).cur = .s0 → i < 32 →
        ∃ t, exec (.interruptEntry w) s = .next t ∧ OtherStrands w s t ∧
          EnteredS1 w 0 (32 + i) (fld (s.core w.core.val).int.ilevel (2 * i + 1) (2 * i)) 1 0 0 pc s t) ∧
      (∀ c : Fin 256, (s.core c.val).int.tcmp.toNat ≤ (s.timeOf (c.val / 64)).toNat →
        ∃ t, exec (.timerInterrupt c) s = .next t ∧ bit (t.core c.val).int.ipend 0 = true ∧
          (t.core c.val).int.tcmp = BitVec.allOnes 64 ∧ SameStrands s t ∧ t = { s with cores := t.cores }) ∧
      (∀ c : Fin 256, (s.timeOf (c.val / 64)).toNat < (s.core c.val).int.tcmp.toNat → exec (.timerInterrupt c) s = .next s) ∧
      (∀ (c : Fin 256) (x : BitVec 16),
        ∃ t, exec (.softInterruptSet c x) s = .next t ∧ SameStrands s t ∧ t = { s with cores := t.cores } ∧
          ∀ i, i < 32 → bit (t.core c.val).int.ipend i = (bit (s.core c.val).int.ipend i || (decide (16 ≤ i) && bit x (i - 16))))) ∧
  (
    ∀ (w : Site) (commit : Bool) (s : State), s.ready w [] = true →
      ((s.strand w).cur = .s1 → (s.strand w).frameOpen = false →
        ∃ t, exec (.fret w commit) s = .next t ∧ OtherStrands w s t ∧ t.mem = s.mem ∧
          (t.strand w).cur = .s0 ∧ (t.strand w).live1 = false ∧ (t.strand w).r1 = FaultRec.reset ∧ (t.strand w).b2 = (s.strand w).b2 ∧
          (t.strand w).b0.pc = (s.strand w).r1.rpc ∧ (t.strand w).b0.gprog = (s.strand w).b1.gprog ∧
          (t.strand w).b0.lc = (s.strand w).b0.lc ∧ (t.strand w).b0.lstart = (s.strand w).b0.lstart ∧
          (t.strand w).b0.lend = (s.strand w).b0.lend ∧
          (∀ r, (t.strand w).b0.readG r = if commit then (s.strand w).b1.readG r else (s.strand w).b0.readG r) ∧
          (∀ r, (t.strand w).b0.readV r = if commit then (s.strand w).b1.readV r else (s.strand w).b0.readV r) ∧
          ∀ r, (t.strand w).b0.readH r = if commit && decide (r ≠ 15) then (s.strand w).b1.readH r else (s.strand w).b0.readH r) ∧
      ((s.strand w).cur = .s0 → ∃ u, Noted w s u ∧ exec (.fret w commit) s = .next (u.takeFault w (flt 0x01))))

/-! ### Chapter 7: tile registers -/

/-- TZERO zeroes every row of its tile, and TMOV copies every row of its source, and with T the table store, once the group's
engine is free and no older instruction owes an access and the reads find no error; no other tile changes. TMOV of a tile to
itself does nothing. TLD and TST move every row of a tile from and to the addresses base + r x stride, here in scratchpads with
no error, and park their strand; when the last row has moved, TILE_TRANSFER_DONE frees the engine and the strand goes on. The
model's choices: log entry 23. -/
def Obligations.TilesAreZeroedMovedAndTransferred : Prop :=
  (
    ∀ (w : Site) (td ts : RegField) (tbl sg : Bool) (s : State),
      let c := w.core.val
      let g := groupOf w.strand.val
      let sgr := if sg then 1 - g else g
      s.ready w [] = true → s.inCallee w = false → td.toNat < 16 → ts.toNat < 16 → cfgV (s.tcfgWord c g td.toNat) = true →
      (s.group c g).pendCfg = none → (s.group c sgr).pendCfg = none →
      ((s.group c g).xfer = none →
        (∀ r, r < 65 → s.mayWriteRow c g td.toNat r (s.core c).ord = true) →
        (∃ t, exec (.tzero w td 0 0 tbl false 0) s = .next t ∧ GoesOn w s t ∧ OnlyCore c s t ∧
          (∀ r, r < cfgRows (s.tcfgWord c g td.toNat) → t.tileRow c g td.toNat r = 0) ∧
          t.tileTable c g td.toNat = (if tbl then 0 else s.tileTable c g td.toNat) ∧
          ∀ g' x r, (g' ≠ g ∨ x ≠ td.toNat) → t.tileRow c g' x r = s.tileRow c g' x r) ∧
        (cfgV (s.tcfgWord c sgr ts.toNat) = true → cfgRows (s.tcfgWord c sgr ts.toNat) = cfgRows (s.tcfgWord c g td.toNat) →
          cfgBpr (s.tcfgWord c sgr ts.toNat) = cfgBpr (s.tcfgWord c g td.toNat) → ¬(sgr = g ∧ td = ts) →
          (∀ r, r < 65 → s.writerBefore c sgr ts.toNat r (s.core c).ord = false) →
          ∃ t, exec (.tmov w td ts 0 tbl sg 0 []) s = .next t ∧ GoesOn w s t ∧ OnlyCore c s t ∧
            (∀ r, r < cfgRows (s.tcfgWord c g td.toNat) → t.tileRow c g td.toNat r = s.tileRow c sgr ts.toNat r) ∧
            t.tileTable c g td.toNat = (if tbl then s.tileTable c sgr ts.toNat else s.tileTable c g td.toNat) ∧
            ∀ g' x r, (g' ≠ g ∨ x ≠ td.toNat) → t.tileRow c g' x r = s.tileRow c g' x r)) ∧
      (∀ e, ∃ t, exec (.tmov w td td 0 tbl false 0 e) s = .next t ∧ GoesOn w s t ∧ OnlyCore c s t ∧
        ∀ g' x r, t.tileRow c g' x r = s.tileRow c g' x r)) ∧
  (
    ∀ (s : State),
      (∀ (w : Site) (tile ga gb : RegField) (h : BitVec 4) (hint : BitVec 2) (noalloc : Bool) (pa : Nat → Nat),
        let c := w.core.val
        let g := groupOf w.strand.val
        let cw := s.tcfgWord c g tile.toNat
        let row (r : Nat) : Nat := (((s.g w ga).toNat + r * (s.g w gb).toInt) % 2 ^ 64).toNat
        s.ready w [.g ga.toNat, .g gb.toNat, .h h.toNat] = true → s.inCallee w = false → tile.toNat < 16 → hint ≠ 3 →
        cfgV cw = true → (s.g w ga).toNat % 16 = 0 → (s.g w gb).toNat % 16 = 0 → (s.group c g).xfer = none →
        (s.group c g).pendCfg = none → (s.group c g).held = none →
        ((∀ r, r < cfgRows cw → RowAt s (s.h w h.toNat) (row r) (cfgBpr cw) false (pa r) ∧
            s.mayWriteRow c g tile.toNat r (s.core c).ord = true) →
          ∃ t x, exec (.tld w tile ga gb h hint false noalloc 0 []) s = .next t ∧ Parks w (.tile false) s t ∧ OnlyCore c s t ∧
            (t.group c g).xfer = some x ∧ x.kind = .load ∧ x.strand = w.strand.val ∧ x.next = cfgRows cw ∧
            (∀ r, r < cfgRows cw →
              (t.tileRow c g tile.toNat r).toNat % 2 ^ (8 * cfgBpr cw) =
                leNat (overlay (s.core c).wbuf (pa r) (memBytes s.mem (pa r) (cfgBpr cw)))) ∧
            ∀ g' y r, (g' ≠ g ∨ y ≠ tile.toNat) → t.tileRow c g' y r = s.tileRow c g' y r) ∧
        ((∀ r, r < cfgRows cw → RowAt s (s.h w h.toNat) (row r) (cfgBpr cw) true (pa r) ∧
            s.writerBefore c g tile.toNat r (s.core c).ord = false ∧
            ∀ leaf, (s.core c).storeOwed [(pa r, cfgBpr cw, leaf)] = false) →
          (∀ r r', r < r' → r' < cfgRows cw → pa r + cfgBpr cw ≤ pa r' ∨ pa r' + cfgBpr cw ≤ pa r) →
          ∃ t x, exec (.tst w tile ga gb h hint false false 0 []) s = .next t ∧ Parks w (.tile false) s t ∧
            (t.group c g).xfer = some x ∧ x.kind = .store ∧ x.strand = w.strand.val ∧ x.next = cfgRows cw ∧
            (∀ r, r < cfgRows cw →
              memBytes t.mem (pa r) (cfgBpr cw) = leBytes (cfgBpr cw) (s.tileRow c g tile.toNat r).toNat) ∧
            (∀ a, (∀ r, r < cfgRows cw → a < pa r ∨ pa r + cfgBpr cw ≤ a) → tget memDefault t.mem a = tget memDefault s.mem a) ∧
            ∀ g' y r, t.tileRow c g' y r = s.tileRow c g' y r)) ∧
      (∀ (c : Fin 256) (g : Fin 2) (x : TileXfer), (s.group c.val g.val).xfer = some x → (x.kind = .load ∨ x.kind = .store) →
        s.xferRows c.val g.val x ≤ x.next → s.podStopped c.val = false →
        ∀ e, ∃ t, exec (.tileTransferDone c g e) s = .next t ∧ GoesOn (site c.val x.strand) s t ∧ OnlyCore c.val s t ∧
          (t.group c.val g.val).xfer = none ∧ (x.table = false → (t.group c.val g.val).held = none) ∧
          ∀ g' y r, t.tileRow c.val g' y r = s.tileRow c.val g' y r))

/-- TCFG reads its block, here from a scratchpad, checks it and parks; TCFG_APPLY, once the group's tiles are quiet, changes all
sixteen words at once, zeroes every tile whose word changed and keeps every other, and the strand goes on. -/
def Obligations.TileConfigurationsApplyAtOnce : Prop :=
  ∀ (s : State),
    (∀ (w : Site) (ga : RegField) (h : BitVec 4) (pa : Nat) (leaf : W64) (o off : Nat),
      let c := w.core.val
      let g := groupOf w.strand.val
      let a := (s.g w ga).toNat
      let block := (List.range 16).map fun i => leNat (bytesAt (overlay (s.core c).wbuf pa (memBytes s.mem pa 64)) (4 * i) 4)
      s.ready w [.g ga.toNat, .h h.toNat] = true → s.inCallee w = false → a % 64 = 0 →
      hullCheck s (s.h w h.toNat) 1 rREAD a 64 = none → s.strandTr c (hSeal (s.h w h.toNat)) a .read = .ok pa leaf →
      regionOf pa = .scratch o off → pa % 64 = 0 → s.padWaits pa = false → (s.group c g).notReady w.strand.val = false → cfgBlockFault block = none →
      ∃ t, exec (.tcfg w 0 ga 0 h 0 []) s = .next t ∧ Parks w .tcfg s t ∧ OnlyCore c s t ∧
        (t.group c g).pendCfg = some (block, w.strand.val, (s.core c).ord) ∧ (t.group c g).held = none ∧
        ∀ x, t.tcfgWord c g x = s.tcfgWord c g x) ∧
    (∀ (c : Fin 256) (g : Fin 2) (block : List Nat) (strand ord : Nat),
      (s.group c.val g.val).pendCfg = some (block, strand, ord) → s.groupBusy c.val g.val ord = false → s.podStopped c.val = false →
      ∃ t, exec (.tcfgApply c g) s = .next t ∧ GoesOn (site c.val strand) s t ∧ OnlyCore c.val s t ∧
        (t.group c.val g.val).pendCfg = none ∧
        (∀ x, x < 16 → t.tcfgWord c.val g.val x = BitVec.ofNat 32 (block.getD x 0)) ∧
        ∀ x r, x < 16 → t.tileRow c.val g.val x r =
          if (s.tcfgWord c.val g.val x).toNat = block.getD x 0 then s.tileRow c.val g.val x r else 0)

/-! ### Chapter 8: the matrix arrays -/

/-- MWLD that passes its checks goes into validation; validation with good metadata queues a reload in every array it names and
changes their weight state; the shift takes the operand's rows into the shadow weights, once for every array of an MWLD with
SAME, and activation makes them the active ones. The pod runs and the reads find no error. The model's choices: log entry 24. -/
def Obligations.WeightsLoadShiftAndActivate : Prop :=
  ∀ (s : State),
    (∀ (w : Site) (tw xmask : BitVec 4) (same : Bool),
      let c := w.core.val
      let g := groupOf w.strand.val
      let p := weightSpan (cfgFmt (s.tcfgWord c g tw.toNat))
      let tileOf (a : Nat) : Nat := if same then tw.toNat else tw.toNat + p * a
      s.ready w [] = true → s.inCallee w = false → xmask ≠ 0 →
      (∀ a, a ∈ maskArrays xmask.toNat → tileOf a < 16 ∧ fmtWeight (cfgFmt (s.tcfgWord c g (tileOf a))) = true ∧
        s.weightFits c g (tileOf a) = true) →
      (s.core c).validating xmask.toNat = false → (s.core c).queueFull xmask.toNat = false → (s.group c g).pendCfg = none →
      ∃ t v, exec (.mwld w 0 0 0 tw xmask same false) s = .next t ∧ Parks w .mwld s t ∧ OnlyCore c s t ∧
        (t.core c).vals = (s.core c).vals ++ [v] ∧ v.strand = w.strand.val ∧
        v.loads.map (fun l => (l.1, l.2.group, l.2.tile, l.2.ws.fmt)) =
          (maskArrays xmask.toNat).map fun a => (a, g, tileOf a, cfgFmt (s.tcfgWord c g (tileOf a)))) ∧
    (∀ (w : Site) (v : Validation),
      let c := w.core.val
      ((s.core c).vals.find? fun x => decide (x.strand = w.strand.val)) = some v →
      s.podStopped c = false →
      (∀ m r, m ∈ v.metas → r < m.2.2 → s.writerBefore c m.1 m.2.1 r (v.loads.foldl (fun _ l => l.2.ord) 0) = false) →
      (∀ l, l ∈ v.loads → l.2.ws.fmt = 9 → s.writerBefore c l.2.group l.2.tile 64 l.2.ord = false) →
      (∀ l, l ∈ v.loads → (s.captureLinks c l.2).ws.metaFault = none) →
      ∃ t, exec (.mwldValidate w []) s = .next t ∧ GoesOn w s t ∧ OnlyCore c s t ∧
        (t.core c).vals = ((s.core c).vals.filter fun x => decide (x.strand ≠ w.strand.val)) ∧
        ∀ a, ((t.core c).mat a).queue = ((s.core c).mat a).queue ++
          ((v.loads.filter fun l => decide (l.1 = a)).map fun l => MatItem.reload (s.captureLinks c l.2))) ∧
    (∀ (c : Fin 256) (a : Fin 4) (x : Reload) (rest : List MatItem),
      ((s.core c.val).mat a.val).queue = .reload x :: rest → ((s.core c.val).mat a.val).shadow = none →
      s.podStopped c.val = false → s.reloadOwed c.val x = false →
      ∃ t ws, exec (.weightShift c a []) s = .next t ∧ OnlyCore c.val s t ∧ ((t.core c.val).mat a.val).queue = rest ∧
        ((t.core c.val).mat a.val).shadow = some ws ∧ ((t.core c.val).mat a.val).active = ((s.core c.val).mat a.val).active ∧
        ws.fmt = x.ws.fmt ∧ ws.nrows = x.ws.nrows ∧ ws.mdat = x.ws.mdat ∧ ws.scl = x.ws.scl ∧
        (x.taken = true → ws = x.ws) ∧
        (x.taken = false → ∀ r, r < ws.nrows → tget 0 ws.data r = s.logicalRow c.val x.group x.tile x.span r) ∧
        ∀ b, b ≠ a.val → ((t.core c.val).mat b).queue =
          if x.same ∧ b ∈ maskArrays x.mask then (((s.core c.val).mat b).queue).map (MatItem.takeRows x.ord ws)
          else ((s.core c.val).mat b).queue) ∧
    (∀ (c : Fin 256) (a : Fin 4) (x : WeightSet), ((s.core c.val).mat a.val).shadow = some x → s.podStopped c.val = false →
      ∃ t, exec (.weightActivate c a) s = .next t ∧ OnlyCore c.val s t ∧ ((t.core c.val).mat a.val).active = some x ∧
        ((t.core c.val).mat a.val).shadow = none ∧ ((t.core c.val).mat a.val).queue = ((s.core c.val).mat a.val).queue ∧
        ∀ b, b ≠ a.val → (t.core c.val).mat b = (s.core c.val).mat b)

/-- MMA, and on a quad-feed core MMAQ under a feed right, that pass their checks queue one pass in every selected array and go
on; MMA's columns bound the last array only. Where MMAQ's stream 0 is off, which format fixes P is the model's reading (log
entry 130). A pass starts, in lockstep in every array of its broadcast, once its rows are readable and the weights active: the
unmasked rows that are not zero meet the active weights; one whose next row is not yet written feeds nothing. The feeder reads
find no error. A result leaves its array into the slot element by the slot's mode, and no other element changes. The model's
choices: log entry 25. -/
def Obligations.MatrixPassesAreQueuedAndRun : Prop :=
  (
    ∀ (w : Site) (ta : BitVec 4) (q : BitVec 3) (nomask zero : Bool) (s : State),
      let c := w.core.val
      let g := groupOf w.strand.val
      s.inCallee w = false → (s.group c g).pendCfg = none →
      (∀ (ga gb : RegField),
        let pw := s.g w ga
        let m := fld pw 19 16
        s.ready w [.g ga.toNat, .g gb.toNat] = true → (nomask = true → gb = 0) → fld pw 15 14 = 0 → fld pw 63 20 = 0 → m ≠ 0 →
        s.passFault c g (fld pw 7 0) q.toNat ((maskArrays m).map fun a => (a, ta.toNat)) = none →
        (s.core c).validating m = false → (s.core c).queueFull m = false →
        ∃ t, exec (.mma w ga gb 0 ta q nomask zero false) s = .next t ∧ GoesOn w s t ∧ OnlyCore c s t ∧
          (∀ a, a ∈ maskArrays m → ∃ p, ((t.core c).mat a).queue = ((s.core c).mat a).queue ++ [.pass p] ∧
            PassFields p g ta.toNat (fld pw 7 0) (if ∀ b, b ∈ maskArrays m → b ≤ a then fld pw 13 8 + 1 else 64) q.toNat a
              (if nomask then BitVec.allOnes 64 else s.g w gb) zero m) ∧
          ∀ a, a ∉ maskArrays m → (t.core c).mat a = (s.core c).mat a) ∧
      (∀ (ga vb h : RegField),
        let pw := s.g w ga
        let m := fld pw 19 16
        let p (a : Nat) : Nat := actSpan (s.quadFmt c g ta.toNat m)
          (match ((s.core c).mat a).wstate with | some y => decide (y.sparse ≠ 0) | none => false)
        let l := (maskArrays m).map fun a => (a, ta.toNat + p a * a)
        s.ready w [.g ga.toNat, .v vb.toNat, .v (vb.toNat + 1), .h h.toNat] = true → h.toNat < 16 → (nomask = true → vb = 0) →
        vb.toNat % 2 = 0 → fld pw 15 14 = 0 → fld pw 63 20 = 0 → m ≠ 0 → quadFault s c (s.h w h.toNat) = none →
        (∀ a, a ∈ maskArrays m → ta.toNat % p a = 0 ∧ ta.toNat + 4 * p a ≤ 16) → s.passFault c g (fld pw 7 0) q.toNat l = none →
        (s.core c).validating m = false → (s.core c).queueFull m = false →
        ∃ t, exec (.mmaq w ga vb h ta q nomask zero false) s = .next t ∧ GoesOn w s t ∧ OnlyCore c s t ∧
          (∀ a, a ∈ maskArrays m → ∃ x, ((t.core c).mat a).queue = ((s.core c).mat a).queue ++ [.pass x] ∧
            PassFields x g (ta.toNat + p a * a) (fld pw 7 0) (fld pw 13 8 + 1) q.toNat a
              (if nomask then BitVec.allOnes 64
                else BitVec.ofNat 64 (elemAt (s.v w (if a < 2 then vb else vb + 1)).toNat 64 (a % 2))) zero 0) ∧
          ∀ a, a ∉ maskArrays m → (t.core c).mat a = (s.core c).mat a)) ∧
  (
    ∀ (c : Fin 256) (s : State),
      (∀ (a : Fin 4) (p : Pass) (ps : Nat → Pass) (ws : Nat → WeightSet),
        ((s.core c.val).mat a.val).headPass = some p →
        let arrays := if p.lock = 0 then [a.val] else maskArrays p.lock
        s.podStopped c.val = false →
        (∀ b, b ∈ arrays → ((s.core c.val).mat b).headPass = some (ps b) ∧ (ps b).ord = p.ord ∧ (ps b).slots = p.slots ∧ (ps b).next = p.next ∧
          ((s.core c.val).mat b).shadow = none ∧ ((s.core c.val).mat b).active = some (ws b) ∧
          ((ps b).zero = true → (s.core c.val).slotOwedAny (ps b).slot (ps b).ord = false)) →
        (∀ sl, p.slots[p.next]? = some sl → (∃ b, b ∈ arrays ∧ s.slotStarved c.val (ps b) sl = true) →
          ∃ t, exec (.passStart c a []) s = .next t ∧ OnlyCore c.val s t ∧
            ∀ b, b ∈ arrays → ((t.core c.val).mat b).queue = ((s.core c.val).mat b).queue ∧
              ((t.core c.val).mat b).flights = ((s.core c.val).mat b).flights) ∧
        (p.next = 0 → (∀ b sl, b ∈ arrays → sl ∈ p.slots → s.slotStarved c.val (ps b) sl = false) →
         (∀ b f, b ∈ arrays → f ∈ ((s.core c.val).mat b).flights → f.ord ≠ p.ord) →
         ∃ t, exec (.passStart c a []) s = .next t ∧ OnlyCore c.val s t ∧
          (∀ b, b ∈ arrays → ∃ f : Flight, ((t.core c.val).mat b).queue = ((s.core c.val).mat b).queue.drop 1 ∧
            ((t.core c.val).mat b).flights = (if f.acts = [] then ((s.core c.val).mat b).flights else ((s.core c.val).mat b).flights ++ [f]) ∧
            f.ord = p.ord ∧ f.slot = (ps b).slot ∧ f.k = (ps b).k ∧ f.n = (ps b).n ∧ f.ws = ws b ∧ f.done = [] ∧
            ∀ i v, (i, v) ∈ f.acts ↔ i < (ps b).m ∧ bit (ps b).mask i = true ∧ rowZero (ps b).fmt (ps b).k (s.passRow c.val (ps b) i) = false ∧
              v = s.passRow c.val (ps b) i) ∧
          ∀ slot r j, (∀ b, b ∈ arrays → (ps b).zero = true → (ps b).slot ≠ slot) → slot < 32 → r < 64 → j < 64 →
            (t.core c.val).acc.elem slot r j = (s.core c.val).acc.elem slot r j)) ∧
      (∀ (a : Fin 4) (i j : Fin 64) (n : Nat) (f : Flight) (e : MemErr),
        (((s.core c.val).mat a.val).flights.findIdx? fun x => x.owesResult i.val j.val) = some n →
        ((s.core c.val).mat a.val).flights[n]? = some f → (s.core c.val).slotOwed f.slot i.val f.ord = false → s.podStopped c.val = false →
        e ≠ .uncorrectable → (f.two = true → ∀ r, (i.val / 2, r, j.val) ∉ f.perrs) →
        ∃ t, exec (.accResultAdd c a i j [] e) s = .next t ∧
          (t.core c.val).acc.elem f.slot i.val j.val =
            accumulate f.mode ((s.core c.val).acc.elem f.slot i.val j.val) ((f.products i.val j.val).map Prod.snd) ∧
          (∀ slot r k, r < 64 → k < 64 → (slot ≠ f.slot ∨ r ≠ i.val ∨ k ≠ j.val) →
            (t.core c.val).acc.elem slot r k = (s.core c.val).acc.elem slot r k) ∧ t.mem = s.mem ∧ SameStrands s t))

/-! ### Chapter 9: accumulators and the drain unit -/

/-- MANCH and MORD give every slot of their mask its mode at once and queue its clear; the clear engine zeroes a slot that no
older instruction uses, and no other. MDRAIN, MSAVE and MRESTORE that pass their checks enter the drain unit's queue and leave
their sequence number in g_d. An MDRAIN that waited for a page has the seed of its issue. The model's choices: log entry 30. -/
def Obligations.SlotModesChangeAndDrainsAreQueued : Prop :=
  (
    ∀ (s : State),
      (∀ (w : Site) (ga gb : RegField), s.ready w [.g ga.toNat, .g gb.toNat] = true → s.inCallee w = false → s.g w ga ≠ 0 →
        (s.g w ga).toNat < 2 ^ 32 → -256 ≤ (s.g w gb).toInt → (s.g w gb).toInt ≤ 255 →
        ∃ t, exec (.manch w 0 ga gb 0) s = .next t ∧ GoesOn w s t ∧ OnlyCore w.core.val s t ∧
          (∀ i, i < 32 → (t.core w.core.val).acc.mode i =
            if bit (s.g w ga) i then ⟨1, (s.g w gb).toInt⟩ else (s.core w.core.val).acc.mode i) ∧
          (∀ i, i < 32 → bit (s.g w ga) i = true → ∃ n, (i, n) ∈ (t.core w.core.val).acc.clears) ∧
          (t.core w.core.val).acc.elems = (s.core w.core.val).acc.elems) ∧
      (∀ (w : Site) (ga : RegField) (p : Bool), s.ready w [.g ga.toNat] = true → s.inCallee w = false → s.g w ga ≠ 0 →
        (s.g w ga).toNat < 2 ^ 32 →
        ∃ t, exec (.mord w 0 ga 0 p 0) s = .next t ∧ GoesOn w s t ∧ OnlyCore w.core.val s t ∧
          (∀ i, i < 32 → (t.core w.core.val).acc.mode i =
            if bit (s.g w ga) i then ⟨if p then 3 else 2, 0⟩ else (s.core w.core.val).acc.mode i) ∧
          (∀ i, i < 32 → bit (s.g w ga) i = true → ∃ n, (i, n) ∈ (t.core w.core.val).acc.clears) ∧
          (t.core w.core.val).acc.elems = (s.core w.core.val).acc.elems) ∧
      (∀ (c : Fin 256) (slot : Fin 32) (x : Nat × Nat),
        ((s.core c.val).acc.clears.find? fun y => decide (y.1 = slot.val)) = some x → (s.core c.val).slotOwedAny slot.val x.2 = false →
        s.podStopped c.val = false → ∃ t, exec (.slotClear c slot) s = .next t ∧ OnlyCore c.val s t ∧
          (t.core c.val).acc.clears = (s.core c.val).acc.clears.erase x ∧
          ∀ k r j, r < 64 → j < 64 → (t.core c.val).acc.elem k r j = if k = slot.val then 0 else (s.core c.val).acc.elem k r j)) ∧
  (
    ∀ (w : Site) (gd ga : RegField) (slot : BitVec 5) (s : State),
      let c := w.core.val
      let a := (s.core c).acc
      let entered (d : DrainItem) (t : State) : Prop :=
        OnlyCore c s t ∧ (t.core c).acc.queue = a.queue ++ [d] ∧ (t.core c).acc.dnext = a.dnext + 1 ∧ d.seq = a.dnext ∧
        d.slot = slot.toNat ∧ d.mode = a.mode slot.toNat ∧ d.started = false ∧ d.next = 0 ∧ d.strand = w.strand.val ∧
        d.cancelled = false ∧ SameV (s.bank w) (t.bank w) ∧ SameH (s.bank w) (t.bank w) ∧ Advanced (s.bank w) (t.bank w) ∧
        (gd ≠ 0 → (t.bank w).readG gd.toNat = a.dnext.setWidth 64) ∧ ∀ r, r ≠ gd.toNat → (t.bank w).readG r = (s.bank w).readG r
      s.inCallee w = false → a.queue.length < 4 →
      (∀ (gb : RegField) (dst : Bool),
        let x := s.g w ga
        let addr := (s.g w gb).toNat
        let paddr := ((s.bank w).readG (gb.toNat + 1)).toNat
        let m := (a.mode slot.toNat).mode
        s.ready w ([.g gd.toNat, .g ga.toNat] ++ (if dst then [.g gb.toNat] else []) ++
          (if dwScl x || dwBias x then [.g (gb.toNat + 1)] else [])) = true → gb.toNat % 2 = 0 → dwIllegal x = false →
        m ≠ 0 → (dwIpath x = true → m = 1) → dwFormatBad x m = false → dwRow0 x + dwNr x ≤ 64 →
        (dst = false → s.drainTileFits c (groupOf w.strand.val) x = true ∧ (s.group c (groupOf w.strand.val)).pendCfg = none) →
        (dst = true → addr % 16 = 0 ∧ s.rangesFault (s.h w (fld x 23 20)) (fld x 23 20) true (dwRanges x addr) = none ∧
          s.rangesOut (s.h w (fld x 23 20)) (dwRanges x addr) inScratch = none) →
        (dwScl x = true ∨ dwBias x = true → paddr % 16 = 0 ∧
          s.rangesFault (s.h w (fld x 27 24)) (fld x 27 24) false [(paddr, 512)] = none) →
        ∃ t d, exec (.mdrain w gd ga gb slot dst false) s = .next t ∧ entered d t ∧ d.kind = (if dst then 1 else 0) ∧ d.word = x ∧
          d.seed = ((s.strand w).mdrain.map Prod.snd).getD a.seed ∧ (dst = true → d.addr = addr)) ∧
      (∀ h : RegField, s.ready w [.g gd.toNat, .g ga.toNat, .h h.toNat] = true → h.toNat < 16 → (s.g w ga).toNat % 256 = 0 →
        s.rangesOut (s.h w h.toNat) [((s.g w ga).toNat, 65536)] (inOwnScratch c) = none →
        (s.rangesFault (s.h w h.toNat) h.toNat true [((s.g w ga).toNat, 65536)] = none →
          ∃ t d, exec (.msave w gd ga h slot 0) s = .next t ∧ entered d t ∧ d.kind = 2 ∧ d.addr = (s.g w ga).toNat) ∧
        (s.rangesFault (s.h w h.toNat) h.toNat false [((s.g w ga).toNat, 65536)] = none → (a.mode slot.toNat).mode ≠ 0 →
          ∃ t d, exec (.mrestore w gd ga h slot 0) s = .next t ∧ entered d t ∧ d.kind = 3 ∧ d.addr = (s.g w ga).toNat)))

/-- A drain starts; each of its rows passes the epilogue into its destination, here a tile, and with CLR is zeroed; a restore
takes every element of its slot from memory; the last row done, the drain leaves its record and DDONE passes it. The pod runs
and the reads find no error. The seed and the activation tables take what is written to them. -/
def Obligations.DrainsRunRowByRow : Prop :=
  ∀ (c : Fin 256) (d : DrainItem) (rest : List DrainItem) (s : State),
    let a := (s.core c.val).acc
    let x := d.word
    let g := groupOf d.strand
    (∀ v : BitVec 64, ∃ t, exec (.drainSeedWrite c v) s = .next t ∧ OnlyCore c.val s t ∧
      t.core c.val = { s.core c.val with acc := { a with seed := v } }) ∧
    (∀ (off : BitVec 12) (v : BitVec 64) (n : Nat), tableOf off.toNat = some n → (s.core c.val).tableBusy n = false → a.held = [] →
      off.toNat % 8 = 0 →
      ∃ t, exec (.actTableStore c off v) s = .next t ∧ OnlyCore c.val s t ∧
        (0x400 ≤ off.toNat → tget 0 (t.core c.val).acc.atbl ((off.toNat - 0x400) / 8) = v ∧
          ∀ j, j ≠ (off.toNat - 0x400) / 8 → tget 0 (t.core c.val).acc.atbl j = tget 0 a.atbl j) ∧
        (off.toNat < 0x400 → off.toNat % 16 = 0 → tget 0 (t.core c.val).acc.trng (off.toNat / 16 % 2) = v) ∧
        (off.toNat < 0x400 → off.toNat % 16 = 8 → tget 0 (t.core c.val).acc.tinf (off.toNat / 16 % 2) = v)) ∧
    (a.queue = d :: rest → s.podStopped c.val = false →
      (d.started = false → d.kind < 2 → d.next < d.total → dwScl x = false → dwBias x = false →
        ∀ e, ∃ t, exec (.drainStart c e) s = .next t ∧ OnlyCore c.val s t ∧ (t.core c.val).acc.queue = { d with started := true } :: rest) ∧
      (d.started = true → d.kind = 0 → d.next < dwNr x → dwRow0 x + dwNr x ≤ 64 → (s.core c.val).slotOwed d.slot (dwRow0 x + d.next) d.ord = false →
        s.drainDestFree c.val d d.next = true → d.cancelled = false → dwMx x = false →
        ∃ t d', exec (.drainRow c []) s = .next t ∧ t.mem = s.mem ∧ SameStrands s t ∧
          (t.core c.val).acc.queue = d' :: rest ∧ d'.next = d.next + 1 ∧ d'.seq = d.seq ∧
          t.tileRow c.val g (dwTile x) (dwRowOf x d.next) =
            (let bpr := dwBpr x (cfgBpr (s.tcfgWord c.val g (dwTile x))) true
             let sp := dwSpan x bpr d.next
             let un := dwUnused x bpr d.next
             let row := s.tileRow c.val g (dwTile x) (dwRowOf x d.next)
             rowPut (if un.2 = 0 then row else rowPut row un.1 (List.replicate un.2 0)) sp.1
              (leBytes sp.2 (packElems (fmtWidth (dwFmt x)) (a.drainRow d (dwRow0 x + d.next) []).1))) ∧
          (∀ k r j, r < 64 → j < 64 → (t.core c.val).acc.elem k r j =
            if dwClr x ∧ k = d.slot ∧ r = dwRow0 x + d.next then 0 else a.elem k r j)) ∧
      (d.kind = 3 → d.next = 0 → (s.core c.val).slotOwedAny d.slot d.ord = false → d.cancelled = false →
        ∀ ps, s.trRange (hSeal d.hd) d.addr 65536 .read = .ok ps → s.piecesWait ps = false →
        (∀ p i, p ∈ ps → i < p.2.1 → inScratch (p.1 + i) = true) →
        ∀ e, ∃ t, exec (.saveRestoreRun c e []) s = .next t ∧ OnlyCore c.val s t ∧
          ∀ r j, r < 64 → j < 64 →
            (t.core c.val).acc.elem d.slot r j = elemOf d.mode.mode (leAt (ps.flatMap fun p => memBytes s.mem p.1 p.2.1) (16 * (64 * r + j)) 16)) ∧
      (d.total ≤ d.next →
        ∃ t, exec (.drainComplete c) s = .next t ∧ OnlyCore c.val s t ∧ (t.core c.val).acc.queue = rest ∧
          (t.core c.val).acc.ddone = d.seq + 1 ∧ tget 0 (t.core c.val).acc.tdq (d.seq.toNat % 16) = d.tileDone ∧
          bit d.tileDone 63 = true ∧ fld d.tileDone 31 0 = d.seq.toNat))

/-! ### Chapter 10: the stream engine -/

/-- SSUB of a descriptor that passes its checks queues it with the hulls it names and leaves its number in g_d; SWAIT answers a
completed descriptor's status, or LOST, and otherwise parks. A descriptor whose WAIT or older stores are not over, or whose pod
is parked, does not start; an element-wise one on the chain buffers whose checks pass writes its result, point after point, and
no other memory; one whose start checks fail takes their status. A started descriptor completes: its record, the sequence, the
strands that wait for it. The model's choices: log entries 30, 53. -/
def Obligations.StreamDescriptorsAreQueuedAndRun : Prop :=
  (
    ∀ (w : Site) (gd ga : RegField) (s : State),
      let c := w.core.val
      let u := (s.core c).str
      s.inCallee w = false →
      (∀ (hd ht hs : BitVec 4) (pa : Nat) (cl : StrClass),
        let a := (s.g w ga).toNat
        let d := coreBytes s c pa 256
        s.ready w [.g gd.toNat, .g ga.toNat, .h hd.toNat, .h ht.toNat, .h hs.toNat] = true → a % 64 = 0 → u.queue.length < 16 →
        ReadsScratch s w hd.toNat a 256 pa → strClass (dOp d) = some cl → strStructOk d cl = true → strFormatOk d cl = true →
        (∀ b, b ∈ strBoxes d cl → b.1.addr % b.1.width = 0 ∧ (b.1.loc ≠ 1 → 0 ≤ b.2.1.1 ∧ b.2.1.1 + b.2.1.2 ≤ 16384)) →
        strOverlapOk d cl = true → strHullFault s (s.h w ht.toNat) ht.toNat (strBoxes d cl) = none →
        (∀ o, o ∈ strObjects d cl → localSyncFault s (s.h w hs.toNat) o.1 o.2 = none) →
        ∃ t it, exec (.ssub w gd ga false hd ht hs 0 []) s = .next t ∧ Answers w gd (u.snext.setWidth 64) s t ∧ OnlyCore c s t ∧
          (t.core c).str = { u with queue := u.queue ++ [it], snext := u.snext + 1 } ∧ it.seq = u.snext ∧ it.desc = d ∧
          it.hd = s.h w hd.toNat ∧ it.ht = s.h w ht.toNat ∧ it.hs = s.h w hs.toNat ∧ it.started = false ∧ it.ran = false) ∧
      (s.ready w [.g gd.toNat, .g ga.toNat] = true →
        let n : W32 := (s.g w ga).setWidth 32
        let r := tget 0 u.records (n.toNat % 16)
        (seqDone u.sdone n = true →
          ∃ t, exec (.swait w gd ga 0) s = .next t ∧ OnlyCore c s t ∧
            Answers w gd (if fld r 31 0 = n.toNat ∧ bit r 63 = true then BitVec.ofNat 64 (fld r 39 32) else 0x100) s t) ∧
        (seqDone u.sdone n = false →
          ∃ t, exec (.swait w gd ga 0) s = .next t ∧ OnlyCore c s t ∧ Parks w (.swait n gd.toNat) s t))) ∧
  (
    ∀ (c : Fin 256) (it : StreamItem) (rest : List StreamItem) (s : State),
      let u := (s.core c.val).str
      let cl := strClass (dOp it.desc)
      let bl (k : StrClass) := (strBlocks it.desc k).1 ++ (strBlocks it.desc k).2
      u.queue = it :: rest →
      (∀ e : ErrMap, it.started = false → cl ≠ none →
        (s.strOlderDone c.val it = false ∨ s.podStopped c.val = true ∨ (fld (dWait it.desc) 1 0 = 1 ∧
          seqDone (s.core c.val).acc.ddone (BitVec.ofNat 32 (fld (dWait it.desc) 63 32)) = false)) →
        exec (.streamDescStart c e) s = .next s) ∧
      (∀ n : Nat, it.started = false → cl = some (.elem n) → s.strOlderDone c.val it = true → s.podStopped c.val = false →
        fld (dWait it.desc) 1 0 = 0 → (∀ x, x ∈ bl (.elem n) → 8 ≤ x.loc) → s.strStartCheck c.val it (.elem n) = .ok →
        ∃ t x, exec (.streamDescStart c []) s = .next t ∧ t.mem = s.mem ∧ t.hbm = s.hbm ∧ SameStrands s t ∧
          (t.core c.val).str.queue = x :: rest ∧ x.started = true ∧ x.ran = true ∧ x.status = it.status ∧ x.seq = it.seq ∧ x.desc = it.desc ∧
          (t.core c.val).str.chain = chainRun it.desc (strBlocks it.desc (.elem n)).1 u.chain) ∧
      (∀ (k : StrClass) (st : Nat) (ns : Bool) (e : ErrMap), it.started = false → cl = some k →
        s.strOlderDone c.val it = true → s.podStopped c.val = false → fld (dWait it.desc) 1 0 = 0 →
        s.strStartCheck c.val it k = .fail st ns →
        ∃ t, exec (.streamDescStart c e) s = .next t ∧ OnlyCore c.val s t ∧ SameStrands s t ∧
          (t.core c.val).str = { u with queue := { it with started := true, status := st, nosig := ns } :: rest }) ∧
      (it.started = true → it.counts = [] → (it.nosig = true ∨ it.signal.kind = 0) →
        ∃ t, exec (.streamDescComplete c) s = .next t ∧ OnlyCore c.val s t ∧ (t.core c.val).str.queue = rest ∧
          (t.core c.val).str.sdone = it.seq + 1 ∧ tget 0 (t.core c.val).str.records (it.seq.toNat % 16) = it.record it.status ∧
          (it.status ≠ 0 → bit (t.core c.val).int.ipend 3 = true) ∧
          ∀ (v : Site) (gd : Nat), v.core = c → (s.strand v).park = .swait it.seq gd →
            (t.strand v).park = .none ∧ Advanced (s.bank v) (t.bank v) ∧ (t.bank v).readG 0 = 0 ∧
            (gd ≠ 0 → (t.bank v).readG gd = BitVec.ofNat 64 it.status) ∧ ∀ r, r ≠ gd → (t.bank v).readG r = (s.bank v).readG r))

/-! ### Chapter 11: copies, prefetch streams and fences -/

/-- CPY of a descriptor that passes its checks queues the copy with its hulls on the channel, or in the pool of its die, and
leaves its number in g_d; CPWAIT answers the engine's error latch once the copy has completed, and otherwise parks. A copy whose
strand's older stores are done starts, on its channel or on a free die engine, which takes the oldest copy of the next core in
order. The model's choices: log entries 30, 114. -/
def Obligations.CopiesAreQueuedAndStart : Prop :=
  (
    ∀ (w : Site) (gd ga : RegField) (eng : BitVec 3) (s : State),
      let c := w.core.val
      let u := (s.core c).cpy
      let ch := tget CopyChan.reset u.chans eng.toNat
      let pool := (s.diePool (c / 64)).pool
      eng.toNat < 5 → s.inCallee w = false →
      (∀ (hd : BitVec 4) (pa : Nat),
        let a := (s.g w ga).toNat
        let b := coreBytes s c pa 64
        let d := copyDescOf b
        s.ready w [.g gd.toNat, .g ga.toNat, .h hd.toNat] = true → (s.strand w).awaits [.h d.hsrc, .h d.hdst, .h d.hsyn] = false → a % 64 = 0 → s.copyFull c eng.toNat = false →
        ReadsScratch s w hd.toNat a 64 pa → d.check s w b = none → d.dkind ≠ 2 →
        ∃ t it, exec (.cpy w gd ga hd eng []) s = .next t ∧
          Answers w gd ((if eng.toNat < 4 then ch.next else u.deNext).setWidth 64) s t ∧ t.mem = s.mem ∧ OtherStrands w s t ∧
          it.desc = d ∧ it.hsrc = s.h w d.hsrc ∧ it.hdst = s.h w d.hdst ∧ it.core = c ∧ it.strand = w.strand.val ∧
          it.dom = (s.strand w).dom ∧ it.after = (s.core c).serial ∧ it.started = false ∧ it.row = 0 ∧ it.plane = 0 ∧
          (eng.toNat < 4 → it.seq = ch.next ∧ OnlyCore c s t ∧
            tget CopyChan.reset (t.core c).cpy.chans eng.toNat = { ch with queue := ch.queue ++ [it], next := ch.next + 1 }) ∧
          (eng.toNat = 4 → it.seq = u.deNext ∧ (t.core c).cpy.deNext = u.deNext + 1 ∧
            (t.diePool (c / 64)).pool = pool ++ [it] ∧ t.doms = s.doms)) ∧
      (s.ready w [.g gd.toNat, .g ga.toNat] = true →
        let n : W32 := (s.g w ga).setWidth 32
        (u.copyEnded eng.toNat n = true →
          ∃ t, exec (.cpwait w gd ga eng) s = .next t ∧ OnlyCore c s t ∧
            Answers w gd (if (if eng.toNat < 4 then ch.ferr else u.deFerr) then 1 else 0) s t) ∧
        (u.copyEnded eng.toNat n = false →
          ∃ t, exec (.cpwait w gd ga eng) s = .next t ∧ OnlyCore c s t ∧ Parks w (.cpwait eng.toNat n gd.toNat) s t))) ∧
  (
    ∀ (s : State),
      (∀ (c : Fin 256) (i : Fin 4) (it : CopyItem) (rest : List CopyItem),
        let ch := tget CopyChan.reset (s.core c.val).cpy.chans i.val
        ch.queue = it :: rest → it.started = false → it.desc.dkind ≠ 2 →
        (s.copyReady it = true →
          ∃ t, exec (.copyStart (.chan c i)) s = .next t ∧ OnlyCore c.val s t ∧ SameStrands s t ∧
            tget CopyChan.reset (t.core c.val).cpy.chans i.val = { ch with queue := { it with started := true } :: rest }) ∧
        (s.copyReady it = false → exec (.copyStart (.chan c i)) s = .next s)) ∧
      (∀ (d : Fin 4) (e : Fin 16) (i : Nat) (before after : List CopyItem) (it : CopyItem),
        let x := s.diePool d.val
        (tget DieEngine.idle x.engines e.val).item = none → x.pool = before ++ it :: after → i < 256 →
        let last := (tget DieEngine.idle x.engines e.val).last
        it.core = (last + 1 + i) % 256 → (∀ y, y ∈ before → y.core ≠ it.core) →
        (∀ j y, j < i → y ∈ x.pool → y.core ≠ (last + 1 + j) % 256) → s.copyReady it = true → it.desc.dkind ≠ 2 →
        ∃ t, exec (.copyStart (.die d e)) s = .next t ∧ t = { s with diePools := t.diePools } ∧
          (t.diePool d.val).pool = before ++ after ∧
          tget DieEngine.idle (t.diePool d.val).engines e.val = ⟨BitVec.ofNat 8 it.core, it.core, some { it with started := true }⟩))

/-- A row between scratchpads, or from the host, lands whole at its destination and nowhere else, and the copy goes on to its
next row; a completion that does not come in time stops it with FLT_LINK_FAIL. A copy whose rows are done completes: its
sequence, its latch, the strands that wait. -/
def Obligations.CopiesMoveEveryRowAndComplete : Prop :=
  ∀ (c : Fin 256) (i : Fin 4) (it : CopyItem) (rest : List CopyItem) (s : State),
    let ch (x : State) := tget CopyChan.reset (x.core c.val).cpy.chans i.val
    let d := it.desc
    (ch s).queue = it :: rest →
    (∀ (dpa : Nat) (leaf : W64), it.started = true → it.done = false → it.phase = 0 → d.dkind = 0 → d.redop = 0 → s.podStopped c.val = false →
      s.trRange (hSeal it.hdst) (addr64 (d.dstAt it.plane it.row)) d.len .write = .ok [(dpa, d.len, leaf)] →
      isMemory dpa = true → isHbm dpa = false → s.padWaits dpa = false →
      (∀ (spa : Nat) (leaf' : W64), d.skind = 0 →
        s.trRange (hSeal it.hsrc) (addr64 (d.srcAt it.plane it.row)) d.len .read = .ok [(spa, d.len, leaf')] →
        isMemory spa = true → isHbm spa = false → s.padWaits spa = false →
        ∃ t x, exec (.copyRow (.chan c i) .ok []) s = .next t ∧ t = { s with mem := t.mem, cores := t.cores } ∧ SameStrands s t ∧
          Stored s.mem t.mem dpa (memBytes s.mem spa d.len) ∧ (ch t).queue = x :: rest ∧ RowMoved it x) ∧
      (∀ b : List Byte, d.skind = 1 → s.pcieStands = false → b.length = d.len →
        let win := tget HostWin.none (s.dom it.dom).wins d.ssel
        win.rd = true → 0 ≤ d.srcAt it.plane it.row → d.srcAt it.plane it.row + d.len ≤ win.len →
        ∃ t x, exec (.copyRow (.chan c i) (.hostData b) []) s = .next t ∧ SameStrands s t ∧ Stored s.mem t.mem dpa b ∧
          (ch t).queue = x :: rest ∧ RowMoved it x)) ∧
    (it.started = true → it.done = false → it.phase = 0 → d.skind = 1 →
      ∃ t x, exec (.pcieCompletionTimeout (.chan c i)) s = .next t ∧ OnlyCore c.val s t ∧ (ch t).queue = x :: rest ∧
        x.done = true ∧ x.status = 0x52 ∧ x.errDest = false ∧ x.rvalid = true ∧
        x.errAddr = BitVec.ofInt 64 (d.srcAt it.plane it.row)) ∧
    (it.done = true → d.dkind ≠ 2 → it.core = c.val → it.eng = i.val → it.sig.kind = 0 →
      ∃ t, exec (.copyComplete (.chan c i)) s = .next t ∧ OnlyCore c.val s t ∧ (ch t).queue = rest ∧ (ch t).done = it.seq + 1 ∧
        (ch t).next = (ch s).next ∧ (ch t).ferr = ((ch s).ferr || decide (it.status ≠ 0)) ∧
        (it.status ≠ 0 → (t.core c.val).cpy.errAddr = it.errAddr ∧ fld (t.core c.val).cpy.err 31 0 = it.seq.toNat ∧
          fld (t.core c.val).cpy.err 39 32 = it.status % 256 ∧ bit (t.core c.val).int.ipend 2 = true) ∧
        ∀ (v : Site) (gd : Nat), v.core = c → (s.strand v).park = .cpwait i.val it.seq gd →
          (t.strand v).park = .none ∧ Advanced (s.bank v) (t.bank v) ∧
          (gd ≠ 0 → (t.bank v).readG gd = if (ch t).ferr then 1 else 0) ∧ ∀ r, r ≠ gd → (t.bank v).readG r = (s.bank v).readG r)

/-- PSTREAM starts its stream at line 0 of the new extent, or leaves it IDLE for an empty one; a running stream requests its
next line once the strand's accesses allow it, and not before; a fill that arrives enters L1D. -/
def Obligations.PrefetchStreamsStartAndFill : Prop :=
  ∀ (s : State),
    (∀ (w : Site) (ga : RegField) (hd sn : BitVec 4) (pa : Nat),
      let c := w.core.val
      let a := (s.g w ga).toNat
      let b := coreBytes s c pa 32
      let rowlen := leAt b 8 4
      let rows := leAt b 12 2 + 1
      let ctrl := leAt b 14 2
      let h := s.h w (nfld ctrl 14 11)
      let box := boxOf (leAt b 0 8) 0 (toSigned 32 (leAt b 16 4)) 1 rows rowlen
      s.ready w [.g ga.toNat, .h hd.toNat] = true → (s.strand w).awaits [.h (nfld ctrl 14 11)] = false → s.inCallee w = false → a % 32 = 0 →
      ReadsScratch s w hd.toNat a 32 pa → ctrl.testBit 3 = false → ctrl.testBit 15 = false → nfld ctrl 2 1 ≠ 3 →
      zeroBytes b 20 12 = true → rowlen ≤ 16777216 →
      (if ctrl.testBit 0 then nfld ctrl 10 4 = 0 else 1 ≤ nfld ctrl 10 4 ∧ nfld ctrl 10 4 ≤ 64) →
      (rowlen ≠ 0 → hullCheck s h 1 (rREAD + rUNIT) (addr64 box.1) box.2 = none) →
      ∃ t, exec (.pstream w ga hd sn []) s = .next t ∧ GoesOn w s t ∧ OnlyCore c s t ∧
        (∀ n, n ≠ sn.toNat → tget PStream.reset (t.core c).pst n = tget PStream.reset (s.core c).pst n) ∧
        let p := tget PStream.reset (t.core c).pst sn.toNat
        (rowlen = 0 → p = PStream.reset) ∧
        (rowlen ≠ 0 → p.state = 1 ∧ p.next = 0 ∧ p.addr = leAt b 0 8 ∧ p.rowlen = rowlen ∧ p.rows = rows ∧
          p.stride = toSigned 32 (leAt b 16 4) ∧ p.l2 = ctrl.testBit 0 ∧ p.hint = nfld ctrl 2 1 ∧ p.depth = nfld ctrl 10 4 ∧
          p.hull = h ∧ p.touched = 0)) ∧
    (∀ (c : Fin 256) (sn : Fin 16) (l : Nat) (e : ErrMap),
      let p := tget PStream.reset (s.core c.val).pst sn.val
      let q (t : State) := tget PStream.reset (t.core c.val).pst sn.val
      p.state = 1 → s.podStopped c.val = false → p.l2 = false → p.lines[p.next]? = some l →
      (p.touched + p.depth ≤ p.next → exec (.pstreamFill c sn none e) s = .next s) ∧
      (p.next < p.touched + p.depth → ∀ pa leaf, s.translate (hSeal p.hull) (l * 128) .read = .ok pa leaf → isHbm pa = true →
        l1Find (s.core c.val).l1d 8 pa = none →
        ((s.core c.val).pfills.filter fun f => f.live && decide (f.stream = sn.val)).length < 4 →
        ∃ t, exec (.pstreamFill c sn none e) s = .next t ∧ OnlyCore c.val s t ∧ SameStrands s t ∧
          (t.core c.val).pfills = (s.core c.val).pfills ++
            [⟨pa, hSeal p.hull, l * 128, sn.val, false, p.hint, hHas p.hull rPIN, decide (leafRet leaf = 1), true, true⟩] ∧
          (t.core c.val).l1d = (s.core c.val).l1d ∧
          (q t).next = p.next + 1 ∧ (q t).state = (if p.next + 1 < p.lines.length then 1 else 2) ∧ (q t).addr = p.addr)) ∧
    (∀ (c : Fin 256) (sn : Fin 16) (i : BitVec 8) (f : PFill),
      (s.core c.val).pfills[i.toNat]? = some f → s.podStopped c.val = false → isHbm f.pa = true → f.pa % 128 = 0 → Quiet s →
      ∃ t, exec (.pstreamFill c sn (some i) []) s = .next t ∧ (t.core c.val).pfills = (s.core c.val).pfills.eraseIdx i.toNat ∧
        (t.core c.val).pst = (s.core c.val).pst ∧ (f.chaff = false → t.mem = s.mem) ∧
        (∀ v : Site, (v.core = c → ∀ m, (s.strand v).miss = some m → m.fill = true → lineOf m.pa ≠ lineOf f.pa) → t.strand v = s.strand v) ∧
        (f.l2 = true ∨ f.install = false → (t.core c.val).l1d = (s.core c.val).l1d) ∧
        (f.l2 = false → f.install = true → l1Find (s.core c.val).l1d 8 f.pa = none →
          (∃ k, k < 8 ∧ (tget L1Line.none (s.core c.val).l1d (l1Set f.pa * 8 + k)).valid = false) →
          ∃ k, l1Find (t.core c.val).l1d 8 f.pa = some k ∧
            l1Bytes (t.core c.val).l1d k f.pa 128 = overlay (s.core c.val).wbuf f.pa (memBytes s.mem f.pa 128)))

/-- FENCE.L1, once the strand's own stores are performed, empties L1D; FENCE.TASK, once the core's stores, drains, stream
descriptors and copies are over, empties both L1 caches and ends the prefetch streams. Until then each parks its strand. -/
def Obligations.FencesWaitAndInvalidate : Prop :=
  ∀ (w : Site) (s : State), s.ready w [] = true →
    let c := w.core.val
    let k := s.core c
    (s.owesStores w = false →
      ∃ t, exec (.fenceL1 w) s = .next t ∧ GoesOn w s t ∧ OnlyCore c s t ∧ (t.core c).l1d = [] ∧ (t.core c).wbuf = k.wbuf ∧
        ∀ f, f ∈ (t.core c).pfills → f.l2 = false → f.install = false) ∧
    (s.owesStores w = true → ∃ t, exec (.fenceL1 w) s = .next t ∧ OnlyCore c s t ∧ Parks w .fence1 s t) ∧
    (s.inCallee w = false →
      (k.taskQuiet (s.openCopies c) k.str.snext.toNat k.acc.dnext.toNat = true →
        ∃ t, exec (.fenceTask w) s = .next t ∧ GoesOn w s t ∧ OnlyCore c s t ∧ (t.core c).l1d = [] ∧ (t.core c).l1i = [] ∧
          (t.core c).pst = [] ∧ ∀ f, f ∈ (t.core c).pfills → f.live = false) ∧
      (k.wbuf ≠ [] → ∃ t, exec (.fenceTask w) s = .next t ∧ OnlyCore c s t ∧
        Parks w (.fenceTask (s.openCopies c) k.str.snext.toNat k.acc.dnext.toNat) s t))

/-! ### Chapter 12: the last-level cache and HBM -/

/-- A read at its home slice changes no memory and leaves its line present, aged by its hint; a last use of chaff drops the line
instead, and a corrected error is counted. A write lands in its line, which is then dirty. The model's choices: log entry 106.
-/
def Obligations.HomeSlicesServeReadsAndWrites : Prop :=
  ∀ (r : LlcReq) (s : State),
    let key := llcKey r.addr
    let line := lineOf r.addr
    isHbm r.addr = true → Calm s r.addr →
    (r.kind = .read → r.err = .none → r.chaff = false →
      ∃ t, exec (.llcAccess r) s = .next t ∧ t.mem = s.mem ∧ SameStrands s t ∧
        (∀ w, (s.llcSet key).find line = some w → r.pin = false → ((t.llcSet key).way w).age = if r.hint = 2 then 3 else 0) ∧
        ((s.llcSet key).find line = none → FreeWay (s.llcSet key) → (s.llcSet key).waiting = [] →
          ∃ st, t.lineSt r.addr = some st ∧ st.dirty = false ∧ st.poisoned = false)) ∧
    (∀ w, r.kind = .read → r.err = .none → r.chaff = true → r.hint = 2 → (s.llcSet key).find line = some w →
      ∃ t, exec (.llcAccess r) s = .next t ∧ t.hbm = s.hbm ∧ SameStrands s t ∧ ((t.llcSet key).way w).line line = none ∧
        (∀ a, lineOf a = line → tget memDefault t.mem a = tget memDefault s.hbm a) ∧
        ∀ a, lineOf a ≠ line → tget memDefault t.mem a = tget memDefault s.mem a) ∧
    (∀ w, r.kind = .read → r.err = .corrected → r.chaff = false → (s.llcSet key).find line = some w →
      ∃ t, exec (.llcAccess r) s = .next t ∧ t.mem = s.mem ∧ SameStrands s t ∧
        (t.slice (key / 2048)).ce = satInc (s.slice (key / 2048)).ce 1) ∧
    (∀ b : List Byte, r.kind = .write b → r.err = .none → r.addr % 128 + b.length ≤ 128 →
      ∃ t, exec (.llcAccess r) s = .next t ∧ Stored s.mem t.mem r.addr b ∧ SameStrands s t ∧
        ((s.llcSet key).find line ≠ none → ∃ st, t.lineSt r.addr = some st ∧ st.dirty = true ∧ st.poisoned = false))

/-- A reduction combines element by element into its line, which stays locked while another request is queued for it; the fill
that waits in a set takes the slot whose lock is released. The model's choices: log entry 39. -/
def Obligations.ReductionsCombineUnderTheirLock : Prop :=
  ∀ (s : State),
    (∀ (addr w : Nat) (op : RedOp) (data : List Byte) (more : Bool),
      let n := reducedSize op
      let key := llcKey addr
      isHbm addr = true → addr % 128 + data.length ≤ 128 → addr % n = 0 → data.length % n = 0 → Calm s addr →
      (s.llcSet key).waiting = [] → (s.llcSet key).find (lineOf addr) = some w → ((s.llcSet key).way w).run < 15 →
      s.lockedIn (key / 2048) < 32 → Unmarked ((s.llcSet key).way w) →
      ∃ t, exec (.reductionRequest addr op data more []) s = .next t ∧ SameStrands s t ∧
        (∀ i, i < data.length / n → leNat (memBytes t.mem (addr + n * i) n) =
          reduced op (leNat (memBytes s.mem (addr + n * i) n)) (leAt data (n * i) n) % 2 ^ (8 * n)) ∧
        (∀ a, a < addr ∨ addr + data.length ≤ a → tget memDefault t.mem a = tget memDefault s.mem a) ∧
        ((t.llcSet key).way w).locked = more ∧
        ((t.llcSet key).way w).run = if more then ((s.llcSet key).way w).run + 1 else 0) ∧
    (∀ (sl : Fin 128) (set : Fin 2048) (w : Nat) (f : WaitFill) (rest : List WaitFill),
      let key := sl.val * 2048 + set.val
      ((s.llcSet key).lockedWays.find? fun v => !((s.llcSet key).way v).pinned) = some w → Unmarked ((s.llcSet key).way w) →
      (s.llcSet key).waiting = f :: rest → f.split = false → f.keep = false →
      ∃ t, exec (.lockedFillResume sl set) s = .next t ∧ SameStrands s t ∧ (t.llcSet key).waiting = rest ∧
        ((t.llcSet key).way w).line f.line = some f.st ∧ ((t.llcSet key).way w).age = f.age ∧
        ((t.llcSet key).way w).locked = false)

/-- The oldest request of a bank leaves its queue for the stack and the earliest waiting one follows; refresh changes no data,
and doubles its rate above 85 °C; patrol scrubbing goes from unit to unit and counts its passes; a row with eight corrected
errors is repaired. The model's choices: log entry 107. -/
def Obligations.StackControllersIssueRefreshScrubAndRepair : Prop :=
  ∀ (s : State),
    (∀ (q : BankId) (r : HbmReq),
      let k := bankIdKey q
      let all := tget [] s.banks k ++ tget [] s.hbmWait k
      (s.stack q.stack.val).ready = true → (tget [] s.banks k).length ≤ 16 → all.head? = some r →
      (∀ sl, sl < 128 → tget [] s.sliceIn sl = []) →
      ∃ t, exec (.hbmIssue q) s = .next t ∧ t.mem = s.mem ∧ t.hbm = s.hbm ∧ SameStrands s t ∧
        tget [] t.banks k = (all.drop 1).take 16 ∧ tget [] t.hbmWait k = (all.drop 1).drop 16) ∧
    (∀ q : BankId, (s.stack q.stack.val).ready = true →
      ∃ t, exec (.hbmRefresh q) s = .next t ∧ t = { s with hbmStacks := t.hbmStacks } ∧
        (t.stack q.stack.val).refreshes = (s.stack q.stack.val).refreshes + 1) ∧
    (∀ (x : Fin 16) (temp : BitVec 8),
      (85 < temp.toNat → (s.stack x.val).refx2 = false →
        ∃ t, exec (.refreshDouble x temp) s = .next t ∧ (t.stack x.val).refx2 = true ∧ t.mem = s.mem ∧
          Raised (x.val / 4) 0x255 temp.toNat s t) ∧
      (temp.toNat ≤ 85 → exec (.refreshDouble x temp) s = .next s ∧
        ∃ t, exec (.refreshRateRestore x temp) s = .next t ∧ (t.stack x.val).refx2 = false ∧ t = { s with hbmStacks := t.hbmStacks })) ∧
    (∀ (x : Fin 16) (unit : Nat), (s.stack x.val).ready = true → unit < 250000000 →
      ∃ t, exec (.patrolScrub x unit .none) s = .next t ∧ t.mem = s.mem ∧ t.hbm = s.hbm ∧ t.llc = s.llc ∧
        (unit = (s.stack x.val).patrol → unit + 1 < 250000000 → (t.stack x.val).patrol = unit + 1 ∧ (t.stack x.val).scrubs = (s.stack x.val).scrubs) ∧
        (unit = (s.stack x.val).patrol → unit + 1 = 250000000 → (t.stack x.val).patrol = 0 ∧ (t.stack x.val).scrubs = satInc (s.stack x.val).scrubs 1)) ∧
    (∀ (q : BankId) (row : BitVec 14),
      let r := s.stack q.stack.val
      let k := rowKey q.pc.val q.bank.val row.toNat
      (8 ≤ tget 0 r.rowCe k → ∃ t, exec (.softRepair q row) s = .next t ∧ t.mem = s.mem ∧ t.hbm = s.hbm ∧
        (t.stack q.stack.val).sppr = satInc r.sppr 1 ∧ tget 0 (t.stack q.stack.val).rowCe k = 0 ∧
        (t.stack q.stack.val).hardRepairs = r.hardRepairs ++ [k]) ∧
      (tget 0 r.rowCe k < 8 → exec (.softRepair q row) s = .next s))

/-- A granary-backed page is read into a free frame, its leaf becomes resident there and the strands that wait for it go on; a
page the granary cannot supply is lost. A page of a domain at its quota goes to the backing object, and its frame reads zero.
The model's choices: log entries 77, 80. -/
def Obligations.PagesMoveBetweenHbmAndTheGranary : Prop :=
  ∀ (dom : DomId) (va level : Nat) (e : BitVec 64) (s : State),
    let d := dom.toNat
    let n := leafSize level
    let base := va / n * n
    let back := (s.dom d).backing
    va < 2 ^ 57 → s.walk d va = .leaf level e → s.live d = true → bit e 5 = true →
    (∀ f a, bit e 6 = false → s.residentBytes d + n ≤ (s.dom d).quota →
      s.fresh.1.pickFrame (List.range 16) n s.fresh.2 = some f → s.tableAt d va level = some a → WalkStands s d va level 0 0 →
      Quiet s → (∀ v q h, (s.strand v).park ≠ .entry q h) →
      ∃ t x, exec (.pageIn dom va true []) s = .next t ∧ t.walk d va = .leaf level x ∧ bit x 6 = true ∧
        fld x 51 12 = f / 4096 % 2 ^ 40 ∧ tget [] (t.obj back).paged base = [] ∧
        (∀ i, i < n → tget memDefault t.mem (f + i) = tget memDefault (tget [] (s.obj back).paged base) i) ∧
        (∀ b, b < f ∨ f + n ≤ b → b < a + 8 * pteIndex level va ∨ a + 8 * pteIndex level va + 8 ≤ b →
          tget memDefault t.mem b = tget memDefault s.mem b) ∧
        ∀ v : Site, (∀ b, (s.strand v).park = .pageIn d b → base ≤ b → b < base + n → (t.strand v).park = .none) ∧
          t.bank v = s.bank v) ∧
    (∀ err, bit e 6 = false →
      ∃ t, exec (.pageIn dom va false err) s = .next t ∧ t.mem = s.mem ∧ base ∈ (t.dom d).lost ∧
        t.mgmt.grn.uncorr = satInc s.mgmt.grn.uncorr 1) ∧
    (∀ a, bit e 6 = true → (s.dom d).quota < s.residentBytes d + 2 ^ 25 → s.holdsPage (pteAddr e) n = false →
      s.tableAt d va level = some a → WalkStands s d va level (pteAddr e) n → s.pageQuiet (pteAddr e) n = true → s.unitsHold d base n = false → s.mgmt.grn.ready = true → s.mgmt.grn.holdup = true → s.mgmt.grn.readonly = false →
      Quiet s →
      ∃ t x, exec (.pageOut dom va []) s = .next t ∧ t.walk d va = .leaf level x ∧ bit x 6 = false ∧
        (∀ i, i < n → tget memDefault (tget [] (t.obj back).paged base) i = tget memDefault s.mem (pteAddr e + i)) ∧
        (∀ b, pteAddr e ≤ b → b < pteAddr e + n → tget memDefault t.mem b = 0 ∧ tget memDefault t.hbm b = 0) ∧
        (∀ b, b < pteAddr e ∨ pteAddr e + n ≤ b → b < a + 8 * pteIndex level va ∨ a + 8 * pteIndex level va + 8 ≤ b →
          tget memDefault t.mem b = tget memDefault s.mem b) ∧
        (t.obj back).gen = (s.obj back).gen + 1 ∧
        ∀ c y, y ∈ (t.core c).tlb → y.dom = d → overlaps base n y.base (leafSize y.level) = false)

/-! ### Chapter 13: update units, schedules and the loss monitor -/

/-- A store to a bound queue appends a descriptor, or sets OVF when sixteen wait; a free unit takes the oldest descriptor of the
next queue in order: one whose WAIT, step, gate and pages allow it begins, and an apply pass of another step than its slot's
fails. A rule takes the stage. The model's choices: log entries 54, 61. -/
def Obligations.UpdateQueuesAcceptAndStart : Prop :=
  ∀ (x : Fin 16) (s : State),
    let u := s.updUnit x.val
    (∀ (q : Fin 16) (core : Fin 256) (v : BitVec 64),
      let y := u.queue q.val
      (y.bound = true → y.items.length < 16 →
        ∃ t, exec (.qsubSubmit x q core v) s = .next t ∧ t = { s with upd := t.upd } ∧
          (t.updUnit x.val).queue q.val = { y with items := y.items ++
            [UpdItem.queued (y.done + BitVec.ofNat 32 y.items.length) (fld v 56 7 * 128) core.val] } ∧
          ∀ p, p ≠ q.val → (t.updUnit x.val).queue p = u.queue p) ∧
      (y.bound = true → 16 ≤ y.items.length →
        ∃ t, exec (.qsubSubmit x q core v) s = .next t ∧ (t.updUnit x.val).queue q.val = { y with ovf := true } ∧
          Raised (x.val / 4) 0x306 q.val s t)) ∧
    (∀ (q : Nat) (it : UpdItem), NoneCancelled s x.val → u.running = false → NextHead s x.val q it →
      let gate := s.lossSlot (uLslot it.desc)
      (it.stage = 5 → fld (uWait it.desc) 1 0 = 0 →
        (uApply it.desc = true → uStep it.desc = (s.schedSlot (uSlot it.desc)).count.toNat) →
        (uApply it.desc = true → uGate it.desc = true → bit gate.cfg1 40 = true →
          gate.step = BitVec.ofNat 32 (uStep it.desc) ∧ gate.state = 2) →
        s.updPages x.val (u.queue q) it.desc (u.rule (fld (uCtrl it.desc) 5 2)) = none →
        ∀ e, ∃ t, exec (.updHeadStart x e) s = .next t ∧ t = { s with upd := t.upd } ∧ (t.updUnit x.val).running = true ∧
          (t.updUnit x.val).runq = q ∧ ((t.updUnit x.val).queue q).items =
            { it with stage := 9, rule := u.rule (fld (uCtrl it.desc) 5 2) } :: (u.queue q).items.drop 1) ∧
      (it.stage = 5 → fld (uWait it.desc) 1 0 = 0 → uApply it.desc = true →
        uStep it.desc ≠ (s.schedSlot (uSlot it.desc)).count.toNat →
        ∀ e, ∃ t, exec (.updHeadStart x e) s = .next t ∧ (t.updUnit x.val).running = false ∧
          ((t.updUnit x.val).queue q).done = it.seq + 1 ∧ ((t.updUnit x.val).queue q).err = true ∧
          ((t.updUnit x.val).queue q).items = (u.queue q).items.drop 1 ∧
          fld (tget 0 ((t.updUnit x.val).queue q).recs (it.seq.toNat % 16)) 39 32 = 0x48)) ∧
    (∀ r : Fin 16, ∃ t, exec (.ruleCommit x r) s = .next t ∧
      (∀ w, w < 8 → tget 0 (t.updUnit x.val).rules (8 * r.val + w) = tget 0 u.stage w) ∧
      (∀ k, k / 8 ≠ r.val → tget 0 (t.updUnit x.val).rules k = tget 0 u.rules k) ∧ (t.updUnit x.val).stage = u.stage ∧
      Raised (x.val / 4) 0x305 r.val s t)

/-- A pass goes on by the rows it is given; on one row of one column, not frozen, all in FP32, the statistics pass writes R379's
row statistic and the apply pass R383's parameter, and no other byte changes, when the reads find no error. A finished
descriptor completes. The model's choices: log entry 55. -/
def Obligations.UpdatePassesWorkRowByRow : Prop :=
  ∀ (x : Fin 16) (it : UpdItem) (rest : List UpdItem) (s : State),
    let u := s.updUnit x.val
    let y := u.queue u.runq
    let d := it.desc
    let r := it.rule
    let dom := hSeal (tget 0 y.hs 1)
    let k := uStep d % 2
    let one (va pa : Nat) (m : AccKind) : Prop := (∃ l, s.trRange dom va 4 m = .ok [(pa, 4, l)]) ∧ pa % 128 + 4 ≤ 128 ∧ isMemory pa = true
    NoneCancelled s x.val → y.items = it :: rest → u.running = true →
    (∀ rows : BitVec 25, it.stage = 9 → it.row < uM d →
      let p := Nat.min (it.row + rows.toNat) (uM d)
      let after (t : State) : Prop := SameStrands s t ∧ ∃ z, ((t.updUnit x.val).queue u.runq).items = z :: rest ∧ z.row = p ∧
        z.desc = d ∧ z.seq = it.seq ∧ z.stage = if p = uM d then 10 else 9
      (uApply d = false → ∀ e, ∃ t, exec (.updStatsPass x rows e) s = .next t ∧ after t) ∧
      (uApply d = true → ∀ e, ∃ t, exec (.updApplyPass x rows e) s = .next t ∧ after t)) ∧
    (∀ gpa apa bpa : Nat, it.stage = 9 → it.row < uM d → Quiet s → uN d = 1 → uFrz d = false → uApply d = false →
      fld (uCtrl d) 27 26 = 0 → ruleM r 6 = false → one (uRowAt d 40 4 it.row) gpa .read → one (uA d (1 - k) it.row) apa .read →
      one (uA d k it.row) bpa .write →
      let g := fp (fv (s.memNat gpa 4))
      let rs := wxAdd (uCanch d) (wxAdd (uCanch d) 0 ((fv g).mul (fv g))) (fv (ruleK r 3))
      let xm := fp ((fv (wxToF32 (uCanch d) rs)).div (.fin false 1 0))
      let new := fp (((fv (ruleK r 1)).mul (fv (s.memNat apa 4))).add (fv (fp ((fv (ruleK r 2)).mul (fv xm)))))
      ∃ t, exec (.updStatsPass x 1 []) s = .next t ∧ Stored s.mem t.mem bpa (leBytes 4 new)) ∧
    (∀ gpa ppa apa : Nat, it.stage = 9 → it.row < uM d → it.begun = true → Quiet s → uN d = 1 → uFrz d = false → uApply d = true →
      fld (uCtrl d) 27 26 = 0 → uPfmt d = 1 → bit (uCtrl d) 23 = false → ruleM r 6 = false → ruleM r 4 = false → ruleM r 1 = false →
      ruleM r 5 = false → one (uRowAt d 40 4 it.row) gpa .read → one (uRowAt d 32 4 it.row) ppa .read →
      one (uRowAt d 32 4 it.row) ppa .write → one (uA d k it.row) apa .read →
      let g := fp (fv (s.memNat gpa 4))
      let p := fp (fv (s.memNat ppa 4))
      let num := fp (((fv it.q).mul (fv 0)).add ((fv (ruleK r 7)).mul (fv g)))
      let den := if ruleM r 0 then fp ((((fv it.c2).mul (fv (s.memNat apa 4))).sqrtWide).add (fv (ruleK r 8))) else 0x3F800000
      let up := fp ((fv num).div (fv den))
      let dd := if ruleM r 7 then fp (((fv (ruleK r 10)).mul (fv p)).add (fv up)) else up
      ∃ t, exec (.updApplyPass x 1 []) s = .next t ∧
        Stored s.mem t.mem ppa (leBytes 4 (fp (fv (fp (((fv it.eta).neg.mul (fv dd)).add (fv p))))))) ∧
    (it.stage = 10 → (it.nosig = true ∨ fld (uSignal d) 1 0 = 0) →
      ∃ t, exec (.updDescComplete x) s = .next t ∧ SameStrands s t ∧ t.mem = s.mem ∧ (t.updUnit x.val).running = false ∧
        ((t.updUnit x.val).queue u.runq).items = rest ∧ ((t.updUnit x.val).queue u.runq).done = it.seq + 1 ∧
        ((t.updUnit x.val).queue u.runq).err = (y.err || decide (it.status ≠ 0)) ∧
        fld (tget 0 ((t.updUnit x.val).queue u.runq).recs (it.seq.toNat % 16)) 31 0 = it.seq.toNat ∧
        bit (tget 0 ((t.updUnit x.val).queue u.runq).recs (it.seq.toNat % 16)) 63 = true ∧
        t.upd.commits = (if uApply d ∧ it.status = 0 then s.upd.commits ++ [(uSlot d, BitVec.ofNat 32 (uStep d))] else s.upd.commits) ∧
        (it.status ≠ 0 → bit (t.core it.core).int.ipend 4 = true))

/-- A commit for the slot's step counts at its shard object and, once all N shards have committed, advances COUNT; one for
another step does nothing but record 0x307. A write to COUNT takes its value and zeroes the object; the rate follows the
configuration. A loss becomes the pending sample of its step: a non-finite one is a spike, the first finite one becomes the
mean. A decision on it opens the gate, or closes it with the reason; CFG1.RESET forgets the statistics. The model's choices: log
entries 56, 58, 59. -/
def Obligations.SchedulesAdvanceAndLossGatesDecide : Prop :=
  (
    ∀ (i : Fin 64) (s : State),
      let x := s.schedSlot i.val
      let a := fld x.shard 31 16
      let b := fld x.shard 47 32
      let n := fld x.shard 15 0
      let val (t : State) (o : Nat) : Nat := fld (t.objWord x.dom o) 31 0
      (∀ (before after : List (Nat × BitVec 32)) (k : BitVec 32), s.upd.commits = before ++ (i.val, k) :: after →
        (∀ e, e ∈ before → e.1 ≠ i.val) →
        (x.count ≠ k → ∃ t, exec (.schedCommit i) s = .next t ∧ t.schedSlot i.val = x ∧ t.upd.commits = before ++ after ∧
          t.sync = s.sync ∧ Raised 4 0x307 i.val s t) ∧
        (x.count = k → QuietCounter s x.dom a → QuietCounter s x.dom b → a ≠ b → x.cfgerr = false →
          ∃ t, exec (.schedCommit i) s = .next t ∧ t.upd.commits = before ++ after ∧
            (val s a + 1 < 2 ^ 32 → val s a + 1 < n → t.schedSlot i.val = x ∧ val t a = val s a + 1 ∧ val t b = val s b) ∧
            (val s a + 1 < 2 ^ 32 → n ≤ val s a + 1 → (t.schedSlot i.val).count = x.count + 1 ∧
              (t.schedSlot i.val).shard = x.shard ∧ val t a = val s a + 1 - n ∧ val t b = (val s b + 1) % 2 ^ 32))) ∧
      (∀ v : BitVec 32, QuietCounter s x.dom a →
        ∃ t, exec (.countWrite i v) s = .next t ∧ (t.schedSlot i.val).count = v ∧ (t.schedSlot i.val).rate = x.rate ∧
          (t.schedSlot i.val).shape = x.shape ∧ (t.schedSlot i.val).shard = x.shard ∧ val t a = 0) ∧
      (let base := fld x.rate 31 0
       let lo := fld x.rate 63 32
       let warm := fld x.shape 34 3
       let len := fld x.decay 31 0
       let c := x.count.toNat
       ∃ t, exec (.recalc i) s = .next t ∧ t = { s with upd := t.upd } ∧ (t.schedSlot i.val).count = x.count ∧
        (t.schedSlot i.val).cfgerr = x.bad (s.schedCounters x) ∧
        (x.bad (s.schedCounters x) = true → (t.schedSlot i.val).eta = x.eta) ∧
        (x.bad (s.schedCounters x) = false → 0 < warm → c ≤ warm →
          (t.schedSlot i.val).eta =
            BitVec.ofNat 32 (fp ((fv base).mul (fv (fp ((Fv.fin false c 0).div (.fin false warm 0))))))) ∧
        (x.bad (s.schedCounters x) = false → warm < c → fld x.shape 2 0 = 0 →
          (t.schedSlot i.val).eta = BitVec.ofNat 32 (fp ((fv base).max (fv lo)))) ∧
        (x.bad (s.schedCounters x) = false → warm < c → fld x.shape 2 0 = 1 → fld x.restart 31 0 = 0 →
          let q := fp ((Fv.fin false (Nat.min (c - warm - 1) len) 0).div (.fin false len 0))
          (t.schedSlot i.val).eta = BitVec.ofNat 32 (fp ((fv (fp (((fv (fp ((fv base).add (fv lo).neg))).mul
            (fv (fp ((fv 0x3F800000).add (fv q).neg)))).add (fv lo)))).max (fv lo)))))) ∧
  (
    ∀ (i : Fin 256) (s : State),
      let x := s.lossSlot i.val
      (∀ loss step : BitVec 32, x.cfgErr = false → ¬(x.state = 2 ∧ x.step = step) →
        ∃ t, exec (.lossStore i loss step) s = .next t ∧ SameStrands s t ∧ t.mem = s.mem ∧ (t.lossSlot i.val).state = 1 ∧
          (t.lossSlot i.val).step = step ∧ (t.lossSlot i.val).cfg0 = x.cfg0 ∧ (t.lossSlot i.val).cfg1 = x.cfg1 ∧
          (t.lossSlot i.val).nfacc = x.nfacc ∧
          (f32NonFinite loss.toNat = true → (t.lossSlot i.val).spike = true ∧ (t.lossSlot i.val).mean = x.mean ∧
            (t.lossSlot i.val).var = x.var ∧ (t.lossSlot i.val).nsamp = x.nsamp) ∧
          (f32NonFinite loss.toNat = false → x.nsamp = 0 → (t.lossSlot i.val).spike = false ∧ (t.lossSlot i.val).mean = loss ∧
            (t.lossSlot i.val).var = 0 ∧ (t.lossSlot i.val).nsamp = 1)) ∧
      (∀ step : BitVec 32,
        (bit x.cfg1 40 = false → exec (.decideStore i step) s = .next s) ∧
        (bit x.cfg1 40 = true → x.cfgErr = false → x.state = 1 → x.step = step →
          let shut (reason : Nat) : Prop := ∃ t, exec (.decideStore i step) s = .next t ∧
            t.lossSlot i.val = { x with state := 3, reason := BitVec.ofNat 2 reason, nfacc := 0, closed := satInc x.closed 1 }
          (x.spike = false → x.nfacc.toNat ≤ fld x.cfg1 39 16 →
            ∃ t, exec (.decideStore i step) s = .next t ∧ t = { s with upd := t.upd } ∧
              t.lossSlot i.val = { x with state := 2, reason := 0, nfacc := 0 }) ∧
          (x.spike = true → shut 1) ∧ (x.spike = false → fld x.cfg1 39 16 < x.nfacc.toNat → shut 2)) ∧
        (bit x.cfg1 40 = true → ¬(x.state = 2 ∧ x.step = step) → (x.cfgErr = true ∨ x.state ≠ 1 ∨ x.step ≠ step) →
          ∃ t, exec (.decideStore i step) s = .next t ∧ t.lossSlot i.val =
            { x with step := step, state := 3, reason := 3, nfacc := 0, closed := satInc x.closed 1 })) ∧
      (∃ t, exec (.lmonReset i) s = .next t ∧ t = { s with upd := t.upd } ∧
        t.lossSlot i.val = { x with mean := 0, var := 0, nsamp := 0 } ∧ ∀ j, j ≠ i.val → t.lossSlot j = s.lossSlot j))

/-! ### Chapter 14: synchronisation objects and rings -/

/-- YINC, YDEC, YSET, YSET with CFG and YARRIVE on an object of this module change its word as its type says and answer the word
before, or a barrier's phase before; a type that does not take the operation faults with FLT_SYNC, and a YDEC that a semaphore
cannot serve waits. -/
def Obligations.SyncInstructionsChangeTheirObject : Prop :=
  ∀ (w : Site) (gd ga gb : RegField) (h : BitVec 4) (s : State),
    let hv := s.h w h.toNat
    let d := hSeal hv
    let obj := (s.g w ga).toNat
    let v := (s.g w gb).toNat
    let x := s.objWord d obj
    let n := fld x 31 0
    s.ready w [.g gd.toNat, .g ga.toNat, .g gb.toNat, .h h.toNat] = true → s.owesStores w = false → NoWaiters s d obj →
    (SyncLocal s hv rSIGNAL obj → v < 2 ^ 32 →
      ((objType x = 0 ∨ objType x = 4) → ∃ t, exec (.yinc w gd ga gb h) s = .next t ∧ SyncDone w gd x d obj (NewValue x (n + v)) s t) ∧
      (objType x = 1 → ∃ t, exec (.yinc w gd ga gb h) s = .next t ∧
        SyncDone w gd x d obj (NewValue x (if n + v < 2 ^ 32 then n + v else 2 ^ 32 - 1)) s t) ∧
      (objType x = 3 → ∃ t, exec (.yinc w gd ga gb h) s = .next t ∧ SyncDone w gd x d obj (fun y => y = x ||| 1) s t) ∧
      (objType x = 2 → ∃ u, Noted w s u ∧ exec (.yinc w gd ga gb h) s = .next (u.takeFault w (fltH 0x38 h.toNat))) ∧
      (objType x = 0 → ∃ t, exec (.ydec w gd ga gb h) s = .next t ∧ SyncDone w gd x d obj (NewValue x (n + 2 ^ 32 - v)) s t) ∧
      (objType x = 1 → v ≤ n → ∃ t, exec (.ydec w gd ga gb h) s = .next t ∧ SyncDone w gd x d obj (NewValue x (n - v)) s t) ∧
      (objType x = 1 → n < v → ∃ t, exec (.ydec w gd ga gb h) s = .next t ∧ Parks w (.sync d obj gd.toNat (.ydec v)) s t ∧
        t.sync.words = s.sync.words ∧
        t.sync.waiters = s.sync.waiters ++ [⟨.strand w.core.val w.strand.val, d, obj, .ydec v⟩]) ∧
      (objType x = 3 → ∃ t, exec (.ydec w gd ga gb h) s = .next t ∧ SyncDone w gd x d obj (fun y => y = x &&& ~~~1) s t)) ∧
    (SyncLocal s hv rSET obj →
      ((objType x = 0 ∨ objType x = 1 ∨ objType x = 4) → ∃ t, exec (.yset w gd ga gb h) s = .next t ∧
        SyncDone w gd x d obj (fun y => fld y 31 0 = v % 2 ^ 32 ∧ objStatus y = 0 ∧ objType y = objType x ∧ fld y 52 32 = fld x 52 32) s t) ∧
      (objType x = 3 → ∃ t, exec (.yset w gd ga gb h) s = .next t ∧
        SyncDone w gd x d obj (fun y => bit y 0 = bit (s.g w gb) 0 ∧ objStatus y = 0 ∧ objType y = 3) s t)) ∧
    (SyncLocal s hv (rSET + rCONFIG) obj → cfgOk (s.g w gb) = true →
      ∃ t, exec (.ysetCfg w gd ga gb h) s = .next t ∧ SyncDone w gd x d obj (fun y => objType y = objType (s.g w gb) ∧ objStatus y = 0 ∧
        (objType y ≠ 2 → fld y 31 0 = 0) ∧ (objType y = 2 → fld y 15 0 = 0 ∧ fld y 31 16 = fld (s.g w gb) 31 16 ∧ fld y 47 32 = 0) ∧
        (objType y = 4 → fld y 40 32 = fld (s.g w gb) 40 32)) s t) ∧
    (SyncLocal s hv rSIGNAL obj → objType x = 2 →
      ∃ t, exec (.yarrive w gd ga gb h) s = .next t ∧ SyncDone w gd (BitVec.ofNat 64 (fld x 47 32)) d obj (fun y =>
        fld y 31 16 = fld x 31 16 ∧
        (if fld x 15 0 + 1 = fld x 31 16 then fld y 15 0 = 0 ∧ fld y 47 32 = (fld x 47 32 + 1) % 2 ^ 16
          else fld y 15 0 = (fld x 15 0 + 1) % 2 ^ 16 ∧ fld y 47 32 = fld x 47 32)) s t)

/-- YWAIT answers the object's status once its word satisfies the operand, and else waits; with POLL it answers the word. A
released waiter leaves its entry and its strand goes on. A word that is not resident is fetched. -/
def Obligations.WaitsEndWhenTheWordAllows : Prop :=
  ∀ (s : State),
    (∀ (w : Site) (gd ga gb : RegField) (h : BitVec 4),
      let hv := s.h w h.toNat
      let d := hSeal hv
      let obj := (s.g w ga).toNat
      let p := s.g w gb
      let x := s.objWord d obj
      s.ready w [.g gd.toNat, .g ga.toNat, .g gb.toNat, .h h.toNat] = true → SyncLocal s hv rWAIT obj →
      (∃ t, exec (.ywaitPoll w gd ga gb h) s = .next t ∧ Answers w gd x s t ∧ OtherStrands w s t ∧ t.mem = s.mem ∧
        t.sync.words = s.sync.words) ∧
      (((objType x = 1 ∧ p.toNat ≤ fld x 31 0) ∨ (objType x = 2 ∧ fld x 47 32 ≠ fld p 15 0) ∨ (objType x = 3 ∧ bit x 0 = true) ∨
          (objType x = 0 ∧ (fld x 31 0 + 2 ^ 32 - p.toNat % 2 ^ 32) % 2 ^ 32 < 2 ^ 31)) →
        ∃ t, exec (.ywait w gd ga gb h) s = .next t ∧ Answers w gd (BitVec.ofNat 64 (fld x 60 53)) s t ∧ OtherStrands w s t ∧
          t.sync.words = s.sync.words) ∧
      (((objType x = 1 ∧ fld x 31 0 < p.toNat) ∨ (objType x = 2 ∧ fld x 47 32 = fld p 15 0) ∨ (objType x = 3 ∧ bit x 0 = false)) →
        ∃ t, exec (.ywait w gd ga gb h) s = .next t ∧ Parks w (.sync d obj gd.toNat (.ywait p)) s t ∧ OtherStrands w s t ∧
          t.sync.waiters = s.sync.waiters ++ [⟨.strand w.core.val w.strand.val, d, obj, .ywait p⟩])) ∧
    (∀ (v : Site) (e : Waiter) (word : BitVec 64) (st d obj gd : Nat) (reset : Bool) (m : ErrMap),
      let p : WaitParty := .strand v.core.val v.strand.val
      s.waiterOf p = some e → e.wait = .released word st reset →
      let after (x : BitVec 64) : Prop := ∃ t, exec (.waiterRelease p m) s = .next t ∧ OtherStrands v s t ∧ (t.strand v).park = .none ∧
        Advanced (s.bank v) (t.bank v) ∧ (gd ≠ 0 → (t.bank v).readG gd = x) ∧ (∀ r, r ≠ gd → (t.bank v).readG r = (s.bank v).readG r) ∧
        t.waiterOf p = none ∧ t.sync.words = s.sync.words
      (∀ q, (s.strand v).park = .sync d obj gd (.ywait q) → after (BitVec.ofNat 64 st)) ∧
      (∀ n, (s.strand v).park = .sync d obj gd (.ydec n) → after word)) ∧
    (∀ (dom : DomId) (obj : BitVec 16),
      let die := obj.toNat / 16384
      let l := tget [] s.sync.resident die
      s.objExists dom.toNat obj.toNat = true → objKey dom.toNat obj.toNat ∉ l → l.length < 16384 →
      ∃ t, exec (.spillFetch dom obj) s = .next t ∧ tget [] t.sync.resident die = l ++ [objKey dom.toNat obj.toNat] ∧
        tget 0 t.sync.fills die = satInc (tget 0 s.sync.fills die) 1 ∧ t.sync.words = s.sync.words ∧
        Raised die 0x330 0 s t)

/-- A signal to an object of another module leaves as a SYNC packet and its strand goes on with 0 at once; its acknowledgement
ends it, and a failed one is reported in SYN_RERR with vector 37. The model's choices: log entry 38. -/
def Obligations.RemoteSignalsArePosted : Prop :=
  ∀ (s : State),
    (∀ (w : Site) (gd ga gb : RegField) (h : BitVec 4),
      let hv := s.h w h.toNat
      let c := w.core.val
      let obj := (s.g w ga).toNat
      let m := nfld (hBase hv) 27 16
      let l := tget [] s.sync.remote c
      s.ready w [.g gd.toNat, .g ga.toNat, .g gb.toNat, .h h.toNat] = true → s.owesStores w = false →
      hullCheck4 s hv 2 rSIGNAL = none → hHas hv rREMOTE = true → m ≠ s.moduleId.toNat → obj < 65536 → nfld (hBase hv) 15 0 ≤ obj →
      obj < nfld (hBase hv) 15 0 + hLen hv → (s.g w gb).toNat < 2 ^ 32 → s.canInject (c / 64) m = true → l.length < 16 →
      (∀ e, e ∈ l → e.2.2.2 = w.strand.val → e.2.2.1 = m) → s.epochHeld (c / 64) m 3 = false → s.tagFree = true →
      ∃ t tr, exec (.yinc w gd ga gb h) s = .next t ∧ Answers w gd 0 s t ∧ OtherStrands w s t ∧ t.mem = s.mem ∧
        t.sync.words = s.sync.words ∧ t.link.trackers = s.link.trackers ++ [tr] ∧ tr.op = .sync c obj m ∧ tr.dst = m ∧
        tget [] t.sync.remote c = l ++ [(tr.tag, obj, m, w.strand.val)]) ∧
    (∀ (c : Fin 256) (k : Fin 16) (status : BitVec 8) (before after : List (Nat × Nat × Nat × Nat)) (e : Nat × Nat × Nat × Nat),
      tget [] s.sync.remote c.val = before ++ e :: after → before.length = k.val →
      (∀ y, y ∈ before ∨ y ∈ after → y.1 ≠ e.1) →
      ∃ t, exec (.remoteSyncAck c k status) s = .next t ∧ SameStrands s t ∧ tget [] t.sync.remote c.val = before ++ after ∧
        (∀ r, r ∈ t.link.trackers → r.tag ≠ e.1) ∧
        (status = 0 → t.sync.rerr = s.sync.rerr ∧ t.cores = s.cores) ∧
        (status ≠ 0 → bit (t.core c.val).int.ipend 5 = true ∧ fld (tget 0 t.sync.rerr c.val) 7 0 = status.toNat ∧
          fld (tget 0 t.sync.rerr c.val) 23 8 = e.2.1 % 65536 ∧ fld (tget 0 t.sync.rerr c.val) 35 24 = e.2.2.1 % 4096 ∧
          bit (tget 0 t.sync.rerr c.val) 36 = true))

/-- A ring channel queues up to four descriptors; a good one starts, its acknowledged steps are counted, and when every step and
credit is done it completes; a credit goes to the previous member once the buffer half is used. The model's choices: log entry
104. -/
def Obligations.RingsStartStepAndComplete : Prop :=
  ∀ (c : Fin 4096) (s : State),
    let x := s.ring c.val
    (∀ (core : Fin 256) (v : BitVec 64), x.on = true →
      (x.queue.length < 4 → ∃ t, exec (.ringSubmit c core v) s = .next t ∧ t = { s with sync := t.sync } ∧
        t.ring c.val = { x with queue := x.queue ++ [RingItem.queued x.next (fld v 56 6 * 64) core.val], next := x.next + 1 }) ∧
      (4 ≤ x.queue.length → ∃ t, exec (.ringSubmit c core v) s = .next t ∧ t.ring c.val = { x with ovf := true } ∧
        Raised (c.val / 1024) 0x333 c.val s t)) ∧
    (∀ (it : RingItem) (rest : List RingItem), x.queue = it :: rest →
      (∀ (pa : Nat) (l : BitVec 64) (ps : List (Nat × Nat × BitVec 64)), it.started = false →
        hullCheck s x.hmem 1 rREAD it.addr 64 = none → s.trRange (hSeal x.hmem) it.addr 64 .read = .ok [(pa, 64, l)] →
        isMemory pa = true → isHbm pa = false → s.padWaits pa = false → ringDescOk x (memBytes s.mem pa 64) = true →
        leAt (memBytes s.mem pa 64) 16 1 % 4 = 0 →
        hullCheck s x.hmem 1 (rREAD + rUNIT) (leAt (memBytes s.mem pa 64) 0 8) (leAt (memBytes s.mem pa 64) 8 4) = none →
        s.trRange (hSeal x.hmem) (leAt (memBytes s.mem pa 64) 0 8) (leAt (memBytes s.mem pa 64) 8 4) .read = .ok ps →
        ∃ t y, exec (.ringStep c []) s = .next t ∧ t = { s with sync := t.sync } ∧ (t.ring c.val).queue = y :: rest ∧ y.started = true ∧
          y.seq = it.seq ∧ y.src = leAt (memBytes s.mem pa 64) 0 8 ∧ y.len = leAt (memBytes s.mem pa 64) 8 4 ∧
          y.steps = leAt (memBytes s.mem pa 64) 12 2 ∧ y.sent = it.sent) ∧
      (it.started = true → it.owed = 0 → it.rstat = 0 → it.acked < it.sent →
        ∀ e, ∃ t, exec (.ringStep c e) s = .next t ∧ t = { s with sync := t.sync } ∧
          (t.ring c.val).queue = { it with acked := it.sent } :: rest) ∧
      (it.started = true → it.owed = 0 → it.rstat = 0 → it.acked = it.sent → it.sent = it.steps → it.steps ≤ it.credits + 2 →
        (it.nosig = true ∨ it.sig.kind = 0) → (∀ y, y ∈ rest → y.seq ≠ it.seq) →
        ∀ e, ∃ t, exec (.ringStep c e) s = .next t ∧ t = { s with sync := t.sync } ∧ (t.ring c.val).queue = rest ∧
          (t.ring c.val).done = it.seq + 1 ∧ (t.ring c.val).err = x.err ∧ fld (t.ring c.val).rdone 31 0 = it.seq.toNat ∧
          fld (t.ring c.val).rdone 39 32 = 0 ∧ bit (t.ring c.val).rdone 40 = true) ∧
      (it.started = true → it.credits + 3 ≤ it.steps → it.credits + 1 < it.acked → s.waiterOf (.ringCredit c.val) = none →
        waitHolds (s.objWord x.dom x.used) (BitVec.ofNat 64 (it.credits + 1)) = true →
        s.canInject (c.val / 1024) x.prevmod = true → s.epochHeld (c.val / 1024) x.prevmod 3 = false → s.tagFree = true →
        ∃ t tr, exec (.ringCreditSend c) s = .next t ∧ SameStrands s t ∧ t.mem = s.mem ∧
          (t.ring c.val).queue = { it with credits := it.credits + 1 } :: rest ∧ t.link.trackers = s.link.trackers ++ [tr] ∧
          tr.op = .credit c.val it.seq ∧ tr.dst = x.prevmod))

/-! ### Chapter 15: the Prarik links -/

/-- A port that sends carries in each slot the flit it is replaying, else one cut from the queue the arbiter grants, else a
control flit. A block that decodes is accepted when it carries the expected SEQ, and any other is rejected; a NAK has every
unacknowledged flit sent again. The model's choices: log entries 33, 34. -/
def Obligations.FlitsAreSentAcceptedAndReplayed : Prop :=
  ∀ (port : Fin 36) (s : State),
    let k := port.val
    let p := s.port k
    p.sends = true →
    (∀ (f : FlitRec) (rest : List FlitRec), p.resend = f :: rest →
      ∃ t, exec (.flitSend port) s = .next t ∧ OnlyPort k s t ∧ Sends p (t.port k) f.seq.toNat false f.vc f.cls f.payload ∧
        (t.port k).resend = rest ∧ (t.port k).replay = p.replay ∧ (t.port k).tx = p.tx ∧ (t.port k).txSeq = p.txSeq) ∧
    (∀ (vc cls : Nat) (x : TxPkt) (rest : List TxPkt), p.resend = [] → p.replay.length < 2048 → p.grant = some (vc, cls) →
      tget [] p.tx (vcKey vc cls) = x :: rest →
      let b := (pktBytes x.pkt).drop x.sent
      (236 < b.length ∨ rest = []) →
      ∃ t, exec (.flitSend port) s = .next t ∧ OnlyPort k s t ∧ Sends p (t.port k) p.txSeq.toNat false vc cls (b.take 236) ∧
        (t.port k).replay = p.replay ++ [⟨p.txSeq, vc, cls, b.take 236⟩] ∧ (t.port k).txSeq = p.txSeq + 1 ∧
        tget [] (t.port k).tx (vcKey vc cls) = if 236 < b.length then { x with sent := x.sent + 236 } :: rest else []) ∧
    (p.resend = [] → (2048 ≤ p.replay.length ∨ p.grant = none) →
      ∃ t, exec (.flitSend port) s = .next t ∧ OnlyPort k s t ∧ Sends p (t.port k) p.txSeq.toNat true 0 0 [] ∧
        (t.port k).replay = p.replay ∧ (t.port k).tx = p.tx ∧ (t.port k).txSeq = p.txSeq) ∧
    (∀ (block bytes : List Byte) (fixed : List Nat), rsUnblock block = some (bytes, fixed) →
      let f := flitOf bytes
      let key := vcKey f.vc f.cls
      let c := tget RxChan.empty p.rx key
      let b := c.bytes ++ f.payload
      (f.bad = false → f.ctrl = true →
        ∃ t, exec (.flitReceive port block) s = .next t ∧ OnlyPort k s t ∧ (t.port k).rxSeq = p.rxSeq ∧ (t.port k).rx = p.rx ∧
          (t.port k).replay = p.replay.filter (fun r => decide (2048 ≤ (BitVec.ofNat 12 f.ackseq - r.seq).toNat)) ∧
          (t.port k).csym = satInc p.csym fixed.length) ∧
      (f.bad = false → f.ctrl = false → f.seq = p.rxSeq.toNat → b.length < 32 →
        ∃ t, exec (.flitReceive port block) s = .next t ∧ OnlyPort k s t ∧ (t.port k).rxSeq = p.rxSeq + 1 ∧ (t.port k).nak = false ∧
          (tget RxChan.empty (t.port k).rx key).bytes = b ∧ (tget RxChan.empty (t.port k).rx key).pkts = c.pkts) ∧
      (f.bad = false → f.ctrl = false → f.seq = p.rxSeq.toNat → pktLen b = some b.length → (pktOf b).hidx + 1 < (pktOf b).hops →
        ∃ t y, exec (.flitReceive port block) s = .next t ∧ OnlyPort k s t ∧ (t.port k).rxSeq = p.rxSeq + 1 ∧
          (tget RxChan.empty (t.port k).rx key).bytes = [] ∧ (tget RxChan.empty (t.port k).rx key).pkts = c.pkts ++ [y] ∧
          y.pkt = { pktOf b with hidx := (pktOf b).hidx + 1 }) ∧
      ((f.bad = true ∨ (f.ctrl = false ∧ f.seq ≠ p.rxSeq.toNat)) →
        ∃ t, exec (.flitReceive port block) s = .next t ∧ OnlyPort k s t ∧ (t.port k).rxSeq = p.rxSeq ∧ (t.port k).rx = p.rx ∧
          (t.port k).nak = true ∧ (t.port k).crcerr = satInc p.crcerr 1 ∧ Raised (k / 9) 0x340 k s t)) ∧
    (∀ block : List Byte, rsUnblock block = none →
      ∃ t, exec (.flitReceive port block) s = .next t ∧ OnlyPort k s t ∧ (t.port k).rxSeq = p.rxSeq ∧ (t.port k).rx = p.rx ∧
        (t.port k).nak = true ∧ (t.port k).uncorr = satInc p.uncorr 1 ∧ Raised (k / 9) 0x340 k s t) ∧
    (p.nakSeen = true → p.replay ≠ [] →
      ∃ t, exec (.replay port) s = .next t ∧ OnlyPort k s t ∧ (t.port k).resend = p.replay ∧ (t.port k).replay = p.replay ∧
        (t.port k).nakSeen = false ∧ (t.port k).retry = satInc p.retry 1 ∧ Raised (k / 9) 0x341 p.replay.length s t)

/-- A port retrains after eight rejections; its wavelengths are judged each window, dropped and added while eight stay; a failed
laser costs its wavelength on the group's four ports until the redundant laser takes over. A request turns a port on or off or
is latched while a sequence runs; a port that powers up lights its group and takes its lanes and far end, or stops DOWN at the
step that failed; one that is powering down goes OFF. -/
def Obligations.LanesLasersAndPortsChangeState : Prop :=
  (
    ∀ (port : Fin 36) (s : State),
      let k := port.val
      let p := s.port k
      let x := s.lasers (k / 4)
      (s.portUsable k = true →
        (∀ locked : BitVec 16, (8 ≤ p.rejects ∨ (p.replay ≠ [] ∧ p.progress.toNat + 100000 ≤ s.time.toNat)) →
          (8 ≤ p.rejects → p.rxmask &&& locked = p.rxmask → ∃ t, exec (.retrain port false locked) s = .next t ∧ OnlyPort k s t ∧
            t.port k = { p with retrain := satInc p.retrain 1, rejects := 0 }) ∧
          (p.rejects < 8 → p.txmask &&& locked = p.txmask → ∃ t, exec (.retrain port false locked) s = .next t ∧ OnlyPort k s t ∧
            t.port k = { p with retrain := satInc p.retrain 1, progress := s.time }) ∧
          (p.queued = [] → ∃ t, exec (.retrain port true locked) s = .next t ∧ OnlyPort k s t ∧ (t.port k).state = 5 ∧
            (t.port k).replay = [] ∧ (t.port k).txmask = p.txmask ∧ (t.port k).rxmask = p.rxmask)) ∧
        (∃ t, exec (.laneBerWindow port) s = .next t ∧ OnlyPort k s t ∧ (t.port k).lcur = [] ∧
          (∀ n, n < 16 → tget 0 (t.port k).lber n = tget 0 p.lcur n ∧
            bit (t.port k).berhi n = (bit p.berhi n || (bit p.rxmask n && decide (2125 ≤ (tget 0 p.lcur n).toNat)))) ∧
          ((∀ n, n < 16 → bit p.rxmask n = true → (tget 0 p.lcur n).toNat < 21250) → (t.port k).rxReq = p.rxReq) ∧
          ((∃ n, n < 16 ∧ bit p.rxmask n = true ∧ 21250 ≤ (tget 0 p.lcur n).toNat) →
            ∃ m, (t.port k).rxReq = some m ∧ ∀ n, n < 16 → bit m n = (bit p.rxmask n && decide ((tget 0 p.lcur n).toNat < 21250)))) ∧
        (∀ m : W16, p.txReq = some m → 8 ≤ maskCount m → ∃ t, exec (.laneMaskChange port true) s = .next t ∧ OnlyPort k s t ∧
          HasLanes (t.port k) m p.rxmask ∧ (t.port k).txReq = none) ∧
        (∀ m : W16, p.rxReq = some m → 8 ≤ maskCount m → ∃ t, exec (.laneMaskChange port false) s = .next t ∧ OnlyPort k s t ∧
          HasLanes (t.port k) p.txmask m ∧ (t.port k).rxReq = none) ∧
        (∀ m : W16, p.rxReq = some m → maskCount m < 8 → p.queued = [] →
          ∃ t, exec (.laneMaskChange port false) s = .next t ∧ OnlyPort k s t ∧ (t.port k).state = 5 ∧ (t.port k).rxmask = p.rxmask) ∧
        (∀ wl : Fin 16, bit p.rxmask wl.val = true → 8 ≤ maskCount (setBit p.rxmask wl.val false) →
          ∃ t, exec (.wavelengthLockLoss port wl) s = .next t ∧ OnlyPort k s t ∧
            HasLanes (t.port k) p.txmask (setBit p.rxmask wl.val false) ∧ Raised (k / 9) 0x343 wl.val s t) ∧
        (∀ wl : Fin 16, bit p.txmask wl.val = false → (bit x.failed wl.val = false ∨ x.serves = some wl) →
          8 ≤ maskCount (setBit p.txmask wl.val true) →
          ∃ t, exec (.laneAdd port true wl) s = .next t ∧ OnlyPort k s t ∧
            HasLanes (t.port k) (setBit p.txmask wl.val true) p.rxmask ∧ Raised (k / 9) 0x344 wl.val s t) ∧
        (∀ wl : Fin 16, bit p.txmask wl.val = false → bit x.failed wl.val = true → x.serves ≠ some wl →
          exec (.laneAdd port true wl) s = .next s) ∧
        (∀ wl : Fin 16, bit p.rxmask wl.val = false → 8 ≤ maskCount (setBit p.rxmask wl.val true) →
          ∃ t, exec (.laneAdd port false wl) s = .next t ∧ OnlyPort k s t ∧
            HasLanes (t.port k) p.txmask (setBit p.rxmask wl.val true) ∧ Raised (k / 9) 0x344 wl.val s t)) ∧
      (∀ group : Fin 9,
        let g := group.val
        let y := s.lasers g
        (∀ n : Fin 16, bit y.failed n.val = false → y.serves ≠ some n →
          (∀ i, i < 4 → s.portUsable (4 * g + i) = true → 8 ≤ maskCount (setBit (s.port (4 * g + i)).txmask n.val false)) →
          ∃ t, exec (.laserFail group (some n)) s = .next t ∧ SameStrands s t ∧ t.mem = s.mem ∧
            (t.lasers g).failed = setBit y.failed n.val true ∧ (t.lasers g).serves = y.serves ∧
            (t.lasers g).lost = (if y.serves ≠ none ∨ y.spareBad = true ∨ y.due ≠ none then setBit y.lost n.val true else y.lost) ∧
            (∀ i, i < 4 → (t.port (4 * g + i)).txmask =
              if s.portUsable (4 * g + i) = true then setBit (s.port (4 * g + i)).txmask n.val false else (s.port (4 * g + i)).txmask) ∧
            ∀ j, (j < 4 * g ∨ 4 * g + 4 ≤ j) → t.port j = s.port j) ∧
        (y.serves = none → y.spareBad = false → y.due = none →
          ∃ t, exec (.laserFail group none) s = .next t ∧ t.link.ports = s.link.ports ∧ (t.lasers g).spareBad = true ∧
            Raised (4 * g / 9) 0x348 0xF s t) ∧
        (∀ n, y.due = some n → y.serves = none → y.spareBad = false →
          ∃ t, exec (.laserTakeover group) s = .next t ∧ t.link.ports = s.link.ports ∧ (t.lasers g).serves.map Fin.val = some n ∧
            Raised (4 * g / 9) 0x347 n s t) ∧
        (y.due = none ∨ y.serves ≠ none ∨ y.spareBad = true → exec (.laserTakeover group) s = .next s))) ∧
  (
    ∀ (port : Fin 36) (s : State),
      let k := port.val
      let p := s.port k
      (∀ on : Bool,
        ((p.state = 1 ∨ p.state = 4) → ∃ t, exec (.pctlRequest port on) s = .next t ∧ OnlyPort k s t ∧
          t.port k = { p with req := on, latched := true, lreq := on } ∧ Raised (k / 9) 0x34D k s t) ∧
        (p.state ≠ 1 → p.state ≠ 4 → ∃ t, exec (.pctlRequest port on) s = .next t ∧ OnlyPort k s t ∧
          t.port k = { p with req := on, state :=
            if on = true ∧ p.state = 0 then 1 else if on = false ∧ (p.state = 2 ∨ p.state = 3 ∨ p.state = 5) then 4 else p.state })) ∧
      (∀ env : PortEnv, p.state = 1 → p.latched = false →
        let y := s.lasers (k / 4)
        let dead (n : Nat) : Bool := bit y.failed n && decide (y.serves.map Fin.val ≠ some n)
        (env.failStep = some 1 → ∃ t, exec (.portPowerUp port env) s = .next t ∧ OnlyPort k s t ∧ (t.port k).state = 5 ∧
          Raised (k / 9) 0x345 1 s t) ∧
        (env.failStep ≠ some 1 → maskCount env.rxLocked < 8 → ∃ t, exec (.portPowerUp port env) s = .next t ∧
          (t.port k).state = 5 ∧ Raised (k / 9) 0x345 2 s t) ∧
        ((env.failStep = none ∨ env.failStep = some 0) → 8 ≤ maskCount env.rxLocked →
          (env.farMod ≠ s.moduleId ∨ env.serial = s.link.serial) →
          ∀ m : W16, (∀ n, n < 16 → bit m n = (bit env.txLocked n && !dead n)) → 8 ≤ maskCount m →
          ∃ t, exec (.portPowerUp port env) s = .next t ∧ SameStrands s t ∧ t.mem = s.mem ∧ (t.lasers (k / 4)).lit = true ∧
            HasLanes (t.port k) m env.rxLocked ∧ (t.port k).farmod = env.farMod ∧ (t.port k).farport = env.farPort ∧
            (t.port k).farvalid = true ∧ (t.port k).txSeq = 0 ∧ (t.port k).rxSeq = 0 ∧ (t.port k).replay = [] ∧
            Raised (k / 9) 0x346 (maskCount m) s t ∧ ∀ j, j ≠ k → t.port j = s.port j)) ∧
      (p.state = 4 → p.latched = false →
        let off (t : State) : Prop := SameStrands s t ∧ t.mem = s.mem ∧ (t.port k).state = 0 ∧ (t.port k).txmask = 0 ∧
          (t.port k).rxmask = 0 ∧ (t.port k).farvalid = p.farvalid ∧ (t.port k).replay = [] ∧ (t.port k).tx = []
        (p.replay = [] → p.queued = [] → ∃ t, exec (.portPowerDown port) s = .next t ∧ off t ∧ ∀ j, j ≠ k → t.port j = s.port j) ∧
        (p.replay ≠ [] ∨ p.queued ≠ [] → exec (.portPowerDown port) s = .next s) ∧
        ∃ t, exec (.portQuietTimeout port) s = .next t ∧ off t))

/-- A packet with hops left goes on in the next hop class, or is discarded when it has been rerouted and cannot. At its
destination a read is answered from the landing window, writes, reductions and ring blocks land in it and are acknowledged, a
CLOSE signals its object, a SYNC performs its operation, and a management packet enters Luami's ring; a channel that does not
fit refuses, and what reaches a parked pod's scratchpad waits at that pod and frees its link buffer. -/
def Obligations.PacketsAreForwardedAndLand : Prop :=
  ∀ (port : Fin 36) (vc : Fin 8) (cls : Fin 4) (x : RxPkt) (s : State),
    let k := port.val
    let p := x.pkt
    let key := vcKey vc.val cls.val
    let ch := s.chan p.chan
    let after (t : State) : Prop := SameStrands s t ∧ TakesHead k key s t
    s.rxHead k vc.val cls.val = some x →
    (p.hidx < p.hops → p.dst ≠ s.moduleId.toNat → ∀ out, [p.port0, p.port1, p.port2][p.hidx]? = some out →
      (s.portUsable out = true → p.esc = false → ∃ t, exec (.packetForward port vc cls) s = .next t ∧ after t ∧ t.mem = s.mem ∧
        tget [] (t.port out).tx (vcKey vc.val (p.hidx + 1)) = tget [] (s.port out).tx (vcKey vc.val (p.hidx + 1)) ++ [⟨p, 0⟩]) ∧
      (s.portUsable out = false → p.esc = true → ∃ t, exec (.packetForward port vc cls) s = .next t ∧ after t ∧ t.mem = s.mem ∧
        Raised (k / 9) 0x34B p.kind s t)) ∧
    (p.hops ≤ p.hidx → ∀ (m : ErrMap) (e : Nat × Instr), e ∈ [(1, Instr.rdreq port vc cls m), (3, .write port vc cls m), (7, .ring port vc cls m)] →
      p.kind = e.1 → s.packetParked p = true → ∃ t, exec e.2 s = .next t ∧ after t ∧ t.mem = s.mem ∧
        t.link.atPods = s.link.atPods ++ [(k / 9, p)]) ∧
    (p.hops ≤ p.hidx → s.canInject (k / 9) p.src = true →
      (∀ (m : ErrMap) (e : Nat × Instr),
        e ∈ [(1, Instr.rdreq port vc cls m), (3, .write port vc cls m), (4, .reduce port vc cls m), (5, .close port vc cls)] →
        p.kind = e.1 → s.chanOk p = false → ∃ t, exec e.2 s = .next t ∧ after t ∧ t.mem = s.mem ∧ Acked p 0x52 s t) ∧
      (∀ (pa : Nat) (l : BitVec 64), p.kind = 1 → s.chanOk p = true → p.addr + p.rowlen ≤ ch.wlen → 0 < p.rowlen →
        s.trRange ch.dom (ch.wbase + p.addr) p.rowlen .read = .ok [(pa, p.rowlen, l)] → PlainWrite s pa p.rowlen → leafRet l ≠ 1 →
        ∃ t, exec (.rdreq port vc cls []) s = .next t ∧ after t ∧ t.mem = s.mem ∧
          Queued 1 (fun y => y.kind = 2 ∧ y.dst = p.src ∧ y.tag = p.tag ∧ y.data = memBytes s.mem pa p.rowlen) s t) ∧
      (∀ (pa : Nat) (l : BitVec 64), p.kind = 3 → s.landRefuses p false = none →
        s.trRange ch.dom (ch.wbase + p.addr) p.data.length .write = .ok [(pa, p.data.length, l)] → PlainWrite s pa p.data.length →
        ∃ t, exec (.write port vc cls []) s = .next t ∧ after t ∧ Stored s.mem t.mem pa p.data ∧ Acked p 0 s t) ∧
      (∀ (pa w : Nat) (l : BitVec 64) (op : RedOp), p.kind = 4 → s.landRefuses p true = none → redOpOf p.op = some op →
        s.trRange ch.dom (ch.wbase + p.addr) p.data.length .write = .ok [(pa, p.data.length, l)] → isHbm pa = true →
        pa % 128 + p.data.length ≤ 128 → pa % reducedSize op = 0 → p.data.length % reducedSize op = 0 → Calm s pa →
        (s.llcSet (llcKey pa)).waiting = [] → (s.llcSet (llcKey pa)).find (lineOf pa) = some w →
        ((s.llcSet (llcKey pa)).way w).run < 15 → s.lockedIn (llcKey pa / 2048) < 32 → Unmarked ((s.llcSet (llcKey pa)).way w) →
        ∃ t, exec (.reduce port vc cls []) s = .next t ∧ after t ∧ Acked p 0 s t ∧
          (∀ i, i < p.data.length / reducedSize op → leNat (memBytes t.mem (pa + reducedSize op * i) (reducedSize op)) =
            reduced op (leNat (memBytes s.mem (pa + reducedSize op * i) (reducedSize op)))
              (leAt p.data (reducedSize op * i) (reducedSize op)) % 2 ^ (8 * reducedSize op)) ∧
          ∀ a, a < pa ∨ pa + p.data.length ≤ a → tget memDefault t.mem a = tget memDefault s.mem a) ∧
      (p.kind = 5 → s.chanOk p = true → ch.early = [] → p.cseq = ch.cseqRx.toNat → QuietCounter s ch.dom ch.fobj →
        ∃ t, exec (.close port vc cls) s = .next t ∧ after t ∧ t.mem = s.mem ∧ Acked p 0 s t ∧
          (t.chan p.chan).cseqRx = ch.cseqRx + 1 ∧
          NewValue (s.objWord ch.dom ch.fobj) (fld (s.objWord ch.dom ch.fobj) 31 0 + if p.status = 0 then 1 else 0)
            (t.objWord ch.dom ch.fobj)) ∧
      (∀ e : Nat × Nat × Nat, p.kind = 6 → s.sync.peers.find? (fun e => decide (e.1 = p.src) && decide (e.2.1 = p.srcdom)) = some e →
        s.live e.2.2 = true → QuietCounter s e.2.2 p.addr → p.op = 0 →
        ∃ t, exec (.sync port vc cls) s = .next t ∧ after t ∧ t.mem = s.mem ∧ Acked p 0 s t ∧
          NewValue (s.objWord e.2.2 p.addr) (fld (s.objWord e.2.2 p.addr) 31 0 + leAt p.data 0 8 % 2 ^ 32) (t.objWord e.2.2 p.addr)) ∧
      (p.kind = 6 → s.sync.peers.find? (fun e => decide (e.1 = p.src) && decide (e.2.1 = p.srcdom)) = none →
        ∃ t, exec (.sync port vc cls) s = .next t ∧ after t ∧ t.mem = s.mem ∧ t.sync = s.sync ∧ Acked p 0x52 s t) ∧
      (∀ (pa : Nat) (l : BitVec 64),
        let r := s.ring p.chan
        p.kind = 7 → r.on = true → r.prevmod = p.src → r.prevdom = p.srcdom → s.live r.dom = true → p.op ≤ 1 →
        p.addr + p.data.length ≤ r.blen → p.last = false →
        s.trRange (hSeal r.hmem) (r.buf + p.op * r.blen + p.addr) p.data.length .write = .ok [(pa, p.data.length, l)] →
        PlainWrite s pa p.data.length →
        ∃ t, exec (.ring port vc cls []) s = .next t ∧ after t ∧ Stored s.mem t.mem pa p.data ∧ t.sync = s.sync ∧ Acked p 0 s t) ∧
      (p.kind = 10 → s.link.mgmt.length < 256 →
        ∃ t, exec (.mgmt port vc cls) s = .next t ∧ after t ∧ t.mem = s.mem ∧ t.link.mgmt = s.link.mgmt ++ [p]) ∧
      (p.kind = 10 → 256 ≤ s.link.mgmt.length →
        ∃ t, exec (.mgmt port vc cls) s = .next t ∧ after t ∧ t.link.mgmt = s.link.mgmt ∧ Acked p 0x52 s t))

/-- A reply ends the operation its tag names and a timeout ends it with FLT_LINK_FAIL. A claim of this id by another serial is a
conflict; a route epoch flips the table new packets use, and is retired once the old table's packets have gone. -/
def Obligations.RepliesClaimsAndRouteEpochs : Prop :=
  ∀ (s : State),
    (∀ (port : Fin 36) (vc : Fin 8) (cls : Fin 4) (x : RxPkt) (tr : Tracker),
      let p := x.pkt
      let key := vcKey vc.val cls.val
      let after (t : State) : Prop := SameStrands s t ∧ t.mem = s.mem ∧ TakesHead port.val key s t ∧ ∀ r, r ∈ t.link.trackers → r.tag ≠ tr.tag
      s.rxHead port.val vc.val cls.val = some x → p.hops ≤ p.hidx → tr.tag = p.tag →
      s.link.trackers.find? (fun t => decide (t.tag = p.tag)) = some tr →
      (∀ (e : Engine) (seq : BitVec 32) (off n : Nat) (it : CopyItem), p.kind = 2 → tr.op = .read e seq off n → s.copyOf e = some it →
        it.seq = seq → it.owed ≠ 0 →
        ∃ t y, exec (.rddata port vc cls) s = .next t ∧ after t ∧ t.copyOf e = some y ∧ y.owed = it.owed - 1 ∧ y.rstat = it.rstat ∧
          ∀ i, i < n → tget memDefault y.buf (off + i) = p.data.getD i 0) ∧
      (∀ c, p.kind = 9 → tr.op = .closeOnly c →
        ∃ t, exec (.ack port vc cls) s = .next t ∧ after t ∧ t.chan c = { s.chan c with broken := (s.chan c).broken || decide (p.status ≠ 0) })) ∧
    (∀ (tag : BitVec 16) (tr : Tracker) (c : Nat), s.link.trackers.find? (fun t => decide (t.tag = tag.toNat)) = some tr →
      tr.op = .closeOnly c →
      ∃ t, exec (.replyTimeout tag) s = .next t ∧ SameStrands s t ∧ t.mem = s.mem ∧ t.chan c = { s.chan c with broken := true } ∧
        ∀ r, r ∈ t.link.trackers → r.tag ≠ tag.toNat) ∧
    (∀ tag : BitVec 16, s.link.trackers.find? (fun t => decide (t.tag = tag.toNat)) = none →
      exec (.replyTimeout tag) s = .next s) ∧
    (∀ (id : BitVec 12) (serial : BitVec 64) (hops : Fin 4),
      let l := tget [] s.link.claims id.toNat
      (id ≠ s.moduleId → l = [] →
        ∃ t, exec (.idClaimReceive id serial hops) s = .next t ∧ t = { s with link := t.link } ∧ t.link.switches = s.link.switches ∧
          tget [] t.link.claims id.toNat = [serial] ∧
          t.link.floods = if hops.val < 3 then s.link.floods ++ [(id.toNat, serial, hops.val + 1)] else s.link.floods) ∧
      (id = s.moduleId → serial ≠ s.link.serial →
        ∃ t, exec (.idClaimReceive id serial hops) s = .next t ∧ SameStrands s t ∧ t.mem = s.mem ∧ t.alert = true ∧
          Raised 4 0x349 id.toNat s t ∧
          ∀ d, d < 4 → bit (tget 0 (t.switch d).rt0 id.toNat) 41 = true ∧ bit (tget 0 (t.switch d).rt1 id.toNat) 41 = true)) ∧
    (∀ die : Fin 4,
      let d := die.val
      let x := s.switch d
      (x.busy = false → ∃ t, exec (.routeEpochCommit die) s = .next t ∧ t = { s with link := t.link } ∧
        t.switch d = { x with busy := true } ∧ (t.switch d).newTable = !x.newTable) ∧
      (x.busy = true → exec (.routeEpochCommit die) s = .next s) ∧
      (x.busy = true → s.oldPkt d ≠ 0 → exec (.routeEpochRetire die) s = .next s) ∧
      (x.busy = true → s.oldPkt d = 0 → ∃ t, exec (.routeEpochRetire die) s = .next t ∧ SameStrands s t ∧ t.mem = s.mem ∧
        t.switch d = { x with active := !x.active, busy := false, done := true, retired := s.time + 1 } ∧ (t.switch d).newTable = x.newTable ∧
        ((∃ i, i < 4 ∧ i ≠ d ∧ (s.switch i).busy = true) → Raised d 0x34A d s t)))

/-! ### Chapter 16: mailboxes, domains, grants, power -/

/-- A doorbell captures the command of an idle mailbox, answers an opcode that is not listed with BADOP, and records an overrun
on a busy one. A command that a due reset cuts short is ABORTED, one with a reserved byte set is BADPARAM at that byte, and one
of the PF's from another mailbox is NOAUTH. The model's choices: log entries 62, 64. -/
def Obligations.MailboxesAcceptAndCheckCommands : Prop :=
  ∀ (m : Fin 320) (s : State),
    let x := s.mbx m.val
    (s.booted = false → exec (.mbxDoorbell m) s = .next s) ∧
    (s.booted = true → x.busy = true → ∃ t, exec (.mbxDoorbell m) s = .next t ∧ Kept s t ∧ t.mbx m.val = { x with ovr := true } ∧
      Raised 4 0x181 m.val s t) ∧
    (s.booted = true → x.busy = false → ∃ t, exec (.mbxDoorbell m) s = .next t ∧ Kept s t ∧
      let y := t.mbx m.val
      y.cap = (List.range 64).map (tget 0 x.cmd) ∧ y.since = s.timeOf 4 ∧ y.stage = 0 ∧
      (opcodeListed (leAt y.cap 0 2) = true → y.busy = true ∧ y.done = x.done ∧ y.rsp = x.rsp ∧ y.count = x.count) ∧
      (opcodeListed (leAt y.cap 0 2) = false → y.busy = false ∧ y.done = true ∧ y.count = x.count + 1 ∧ leAt y.rsp 4 1 = 1 ∧
        leAt y.rsp 0 4 = leAt y.cap 0 4)) ∧
    (∀ (us : BitVec 32) (img : Option FwImage) (i : Instr) (op : Nat) (pf : Bool) (used : List (Nat × Nat)),
      MbxCommand m us img i op pf used →
      (Holds s m.val op used → pf = true → m.val ≠ 0 → ∃ t, exec i s = .next t ∧ Kept s t ∧ Answered m.val 3 0 s t) ∧
      (x.busy = true → x.stage = 0 → x.arg = [] → x.opcode = op → x.drop = false → s.booted = true →
        (s.mgmt.boot.due ≠ none → ∃ t, exec i s = .next t ∧ Kept s t ∧ Answered m.val 7 0 s t) ∧
        (∀ o, s.mgmt.boot.due = none → s.turn m.val = true → 4 ≤ o → o < 64 → x.at o 1 ≠ 0 → (∀ r, r ∈ used → ¬(r.1 ≤ o ∧ o < r.2)) →
          (∀ p, 4 ≤ p → p < o → x.at p 1 = 0 ∨ ∃ r, r ∈ used ∧ r.1 ≤ p ∧ p < r.2) →
          ∃ t, exec i s = .next t ∧ Kept s t ∧ Answered m.val 2 o s t)))

/-- The commands that only read answer with the part name, TIME, power and alerts, registers, sensors, boot, the recorder's
records and notes, and the granary's figures; EVR_NOTES takes the entries it returns. The model's choices: log entries 62, 64.
-/
def Obligations.ReadCommandsAnswerWithTheState : Prop :=
  ∀ (m : Fin 320) (s : State),
    let n := m.val
    let x := s.mbx n
    let w := s.mgmt.pwr
    let b := s.mgmt.boot
    let g := s.mgmt.grn
    (Holds s n 0x0001 [] → ∃ t, exec (.identity m) s = .next t ∧ Kept s t ∧ Answered n 0 0 s t ∧
      (∀ i, i < 16 → t.rsp n (8 + i) 1 = (partName.getD i 0).toNat) ∧ t.rsp n 24 1 = 0x11 ∧ t.rsp n 25 1 = s.mgmt.lc.state.toNat ∧
      t.rsp n 26 2 = s.moduleId.toNat ∧ t.rsp n 40 8 = s.mgmt.lc.serial.toNat) ∧
    (Holds s n 0x0002 [] → ∃ t, exec (.timeCorrelate m) s = .next t ∧ Kept s t ∧ Answered n 0 0 s t ∧ t.rsp n 8 8 = x.since.toNat ∧
      t.rsp n 16 8 = (s.timeOf 4).toNat) ∧
    (Holds s n 0x0003 [] → ∃ t, exec (.moduleStatus m) s = .next t ∧ Kept s t ∧ Answered n 0 0 s t ∧ t.rsp n 8 2 = w.pwr.toNat ∧
      t.rsp n 10 2 = w.cap.toNat ∧ (∀ p, p < 32 → (t.rsp n 16 4).testBit p = decide ((s.pod p).state = 2)) ∧
      t.rsp n 28 4 = (w.causes ||| w.unacked).toNat) ∧
    (let a := x.at 8 8
     let k := x.at 16 1
     Holds s n 0x0004 [(8, 17)] → n = 0 → a % 8 = 0 → isRegister a = true → 1 ≤ k → k ≤ 6 → isRegister (a + 8 * (k - 1)) = true → (∀ i, i < k → s.padWaits (a + 8 * i) = false) →
      ∃ t, exec (.regRead m) s = .next t ∧ Kept s t ∧ Answered n 0 0 s t ∧
        ∀ i, i < k → t.rsp n (8 + 8 * i) 8 = (s.regRead (a + 8 * i)).toNat) ∧
    (Holds s n 0x0007 [] → ∃ t, exec (.epochStatus m) s = .next t ∧ Kept s t ∧ Answered n 0 0 s t ∧
      t.rsp n 8 2 = s.mgmt.epoch.gen.toNat ∧ t.rsp n 10 1 = (if s.mgmt.epoch.busy then 1 else 0) ∧
      t.rsp n 12 4 = s.mgmt.epoch.todo.length % 2 ^ 32) ∧
    (let a := x.at 8 2
     let k := x.at 10 1
     Holds s n 0x0008 [(8, 11)] → 1 ≤ k → k ≤ 24 → a + k ≤ 324 →
      ∃ t, exec (.sensorRead m) s = .next t ∧ Kept s t ∧ Answered n 0 0 s t ∧
        ∀ i, i < k → t.rsp n (8 + 2 * i) 2 = (s.sensor (a + i)).temp.toNat) ∧
    (Holds s n 0x0700 [] → ∃ t, exec (.bootStatus m) s = .next t ∧ Kept s t ∧ Answered n 0 0 s t ∧ t.rsp n 8 4 = b.bootn.toNat ∧
      t.rsp n 12 1 = b.cause.toNat ∧ t.rsp n 16 4 = b.bootms.toNat ∧ t.rsp n 20 4 = b.a.img.version.toNat ∧
      t.rsp n 24 4 = b.b.img.version.toNat ∧ t.rsp n 28 2 = b.roll.toNat ∧ t.rsp n 32 4 = b.runtime.version.toNat) ∧
    (Holds s n 0x0500 [(8, 11)] → n = 0 → x.at 8 2 ≤ 0xFFF →
      (x.at 10 1 = 0 → ∃ t, exec (.evrRead m) s = .next t ∧ Kept s t ∧ Answered n 0 0 s t ∧ t.rsp n 56 8 = (s.evrW7 (x.at 8 2)).toNat ∧
        ∀ i, i < 6 → t.rsp n (8 + 8 * i) 8 = (s.evrWord (x.at 8 2) i).toNat) ∧
      (x.at 10 1 = 1 → ∃ t, exec (.evrRead m) s = .next t ∧ Kept s t ∧ Answered n 0 0 s t ∧
        ∀ i, i < 14 → t.rsp n (8 + 4 * i) 4 = (tget 0 (s.evrRec (x.at 8 2)).bins i).toNat) ∧
      (x.at 10 1 = 2 → ∃ t, exec (.evrRead m) s = .next t ∧ Kept s t ∧ Answered n 0 0 s t ∧
        ∀ i, i < 2 → t.rsp n (8 + 4 * i) 4 = (tget 0 (s.evrRec (x.at 8 2)).bins (14 + i)).toNat)) ∧
    (let k := x.at 8 1
     Holds s n 0x0502 [(8, 9)] → n = 0 → 1 ≤ k → k ≤ 3 → ∃ t, exec (.evrNotes m) s = .next t ∧ Kept s t ∧ Answered n 0 0 s t ∧
      t.evr.notes = s.evr.notes.drop k ∧ t.rsp n 8 2 = (s.evr.notes.length - k) % 2 ^ 16 ∧
      ∀ i e, i < k → s.evr.notes[i]? = some e → t.rsp n (16 + 16 * i) 4 = e.code % 2 ^ 32 ∧
        t.rsp n (20 + 16 * i) 4 = e.delta.toNat ∧ t.rsp n (24 + 16 * i) 8 = e.last.toNat) ∧
    (Holds s n 0x0507 [(8, 10)] → n = 0 → x.at 8 1 ≤ 7 → x.at 9 1 ≤ 1 → ∃ t, exec (.evrAos m) s = .next t ∧ Kept s t ∧ Answered n 0 0 s t ∧
      (x.at 9 1 = 0 → t.evr.aos = s.evr.aos ∧ t.evr.aosNor = s.evr.aosNor) ∧ (x.at 9 1 = 1 → t.evr.aos = [] ∧ t.evr.aosNor = []) ∧
      (s.evr.aos[x.at 8 1]? = none → t.rsp n 36 1 = 0) ∧
      ∀ e, s.evr.aos[x.at 8 1]? = some e → t.rsp n 36 1 = 1 ∧ t.rsp n 8 2 = e.code % 2 ^ 16 ∧ t.rsp n 12 4 = e.value.toNat ∧
        t.rsp n 16 8 = e.time.toNat ∧ t.rsp n 24 8 = e.det.toNat ∧ t.rsp n 32 4 = e.bootn.toNat) ∧
    (∀ i op pf used, MbxCommand m 0 none i op pf used → 0x0600 ≤ op → op ≤ 0x060C → Holds s n op used → (pf = true → n = 0) →
      (op = 0x0602 ∨ op = 0x0605 ∨ (0x0604 ≤ op ∧ op ≤ 0x060A) → ∃ d, ActsFor s n 8 d) → g.ready = false →
      ∃ t, exec i s = .next t ∧ Kept s t ∧ Answered n 5 0 s t) ∧
    (g.ready = true →
      (Holds s n 0x0600 [] → ∃ t, exec (.grnInfo m) s = .next t ∧ Kept s t ∧ Answered n 0 0 s t ∧ t.rsp n 8 8 = userCapacity ∧
        t.rsp n 16 8 = g.free ∧ t.rsp n 26 2 = g.spare.toNat ∧ t.rsp n 28 4 = g.objs.length % 2 ^ 32) ∧
      (Holds s n 0x060B [] → ∃ t, exec (.grnHealth m) s = .next t ∧ Kept s t ∧ Answered n 0 0 s t ∧
        t.rsp n 8 8 = s.grnWear % 2 ^ 64 ∧ t.rsp n 16 8 = s.grnBlk % 2 ^ 64 ∧ t.rsp n 24 8 = s.grnErr % 2 ^ 64) ∧
      (let ids := ((g.objs.map Prod.fst).filter fun o => decide (x.at 8 4 ≤ o)).take 12
       Holds s n 0x060C [(8, 12)] → n = 0 → ∃ t, exec (.grnList m) s = .next t ∧ Kept s t ∧ Answered n 0 0 s t ∧
        t.rsp n 8 2 = ids.length ∧ ∀ i, i < ids.length → t.rsp n (16 + 4 * i) 4 = ids.getD i 0 % 2 ^ 32) ∧
      (∀ d, let o := x.at 12 4
        Holds s n 0x060A [(8, 10), (12, 16), (40, 48)] → ActsFor s n 8 d → s.grnAuth n d (x.at 40 8) o 1 = none → s.objThere o = true →
        ∃ t, exec (.grnObjstat m) s = .next t ∧ Kept s t ∧ Answered n 0 0 s t ∧ t.rsp n 8 1 = (s.obj o).kind % 2 ^ 8 ∧
          t.rsp n 10 2 = (s.obj o).key % 2 ^ 16 ∧ t.rsp n 16 8 = (s.obj o).cap % 2 ^ 64 ∧ t.rsp n 24 8 = (s.obj o).clen % 2 ^ 64 ∧
          t.rsp n 32 8 = (s.obj o).gen.toNat ∧ t.rsp n 48 8 = (s.obj o).ctime.toNat))

/-- A tick-bound command waits for the next tick and a staged one for its epoch; an epoch of configuration reaches its units one
by one, each at a quiescent point, and retires with the last. ROUTE_COMMIT, EVR_CLEAR and PMC_CAPTURE wait for what they start.
The model's choices: log entries 65, 67. -/
def Obligations.TickBoundAndStagedCommandsWait : Prop :=
  ∀ (m : Fin 320) (s : State),
    let n := m.val
    let x := s.mbx n
    (n = 0 →
      (Holds s n 0x0006 [] → ∃ t, exec (.moduleReset m) s = .next t ∧ AcceptedTick n [] s t) ∧
      (Holds s n 0x0100 [(8, 50), (52, 64)] → ∃ t, exec (.domainCreate m) s = .next t ∧ AcceptedTick n [] s t) ∧
      (∀ d, Holds s n 0x0109 [(8, 10), (16, 24)] → ActsFor s n 8 d → ∃ t, exec (.quotaSet m) s = .next t ∧ AcceptedTick n [] s t) ∧
      (Holds s n 0x0300 [(8, 13)] → 0x4B ≤ x.at 12 1 → x.at 12 1 ≤ 0xFA →
        ∃ t, exec (.podVoltage m) s = .next t ∧ AcceptedTick n [] s t) ∧
      (Holds s n 0x0301 [(8, 10)] → 1500 ≤ x.at 8 2 → x.at 8 2 ≤ 4200 → ∃ t, exec (.powerCap m) s = .next t ∧ AcceptedTick n [] s t) ∧
      (Holds s n 0x0302 [(8, 13)] → x.at 12 1 ≤ 1 → ∃ t, exec (.podPark m) s = .next t ∧ AcceptedTick n [] s t) ∧
      (∀ us : BitVec 32, Holds s n 0x0701 [(8, 9)] → x.at 8 1 ≤ 3 → ∃ t, exec (.dieReset m us) s = .next t ∧ AcceptedTick n [us.toNat] s t) ∧
      (∀ us : BitVec 32, Holds s n 0x0702 [(8, 9)] → x.at 8 1 ≤ 31 → ∃ t, exec (.podReset m us) s = .next t ∧ AcceptedTick n [us.toNat] s t) ∧
      (Holds s n 0x0206 [(8, 12)] → x.at 10 1 ≤ 12 → x.at 11 1 ≤ 1 → ∃ t, exec (.pinLimit m) s = .next t ∧
        AcceptedStaged n (.pinLimit (BitVec.ofNat 16 (x.at 8 2)) (BitVec.ofNat 4 (x.at 10 1)) (decide (x.at 11 1 = 1))) s t) ∧
      (Holds s n 0x0506 [(8, 12)] → 1 ≤ x.at 8 4 → x.at 8 4 ≤ 100000 → ∃ t, exec (.bwWindow m) s = .next t ∧
        AcceptedStaged n (.bwWindow (BitVec.ofNat 17 (x.at 8 4))) s t) ∧
      (Holds s n 0x0401 [] → s.epochRests = false → (∀ d, d < 4 → (s.switch d).busy = false) → ∃ t, exec (.routeCommit m) s = .next t ∧ Kept s t ∧
        (t.mbx n).busy = true ∧ (t.mbx n).stage = 1 ∧ ∀ d, d < 4 → t.switch d = { s.switch d with busy := true }) ∧
      (Holds s n 0x0501 [(8, 12)] → x.at 8 2 ≤ 0xFFF → x.at 10 2 ≤ 0xFFF → s.evr.clearing = none → ∃ t, exec (.evrClear m) s = .next t ∧
        Kept s t ∧ (t.mbx n).busy = true ∧ (t.mbx n).stage = 1 ∧ t.evr.clearing = some (some n) ∧
        (∀ c, x.at 8 2 ≤ c → c ≤ x.at 10 2 → t.evrRec c = EvrRec.reset) ∧
        (∀ c, c < x.at 8 2 ∨ x.at 10 2 < c → t.evrRec c = s.evrRec c) ∧
        Raised 4 0x001 (if x.at 10 2 < x.at 8 2 then 0 else x.at 10 2 - x.at 8 2 + 1) s t)) ∧
    (Holds s n 0x0504 [(8, 9)] → s.mayCapture n = true → x.at 8 1 ≤ 2 → s.available = true → s.pmc.capture = none →
      ∃ t c, exec (.pmcCapture m) s = .next t ∧ Kept s t ∧ (t.mbx n).stage = 1 ∧ t.pmc.capture = some c ∧ c.mode = x.at 8 1 ∧
        c.mbx = some n ∧ (s.time.toNat + 5000 < 2 ^ 64 → c.tc.toNat % 1000 = 0 ∧ s.time.toNat + 4000 ≤ c.tc.toNat ∧
          c.tc.toNat < s.time.toNat + 5000)) ∧
    (Holds s n 0x0504 [(8, 9)] → s.mayCapture n = false → ∃ t, exec (.pmcCapture m) s = .next t ∧ Kept s t ∧ Answered n 3 0 s t ∧
      t.pmc.capture = s.pmc.capture) ∧
    (∀ w, s.mgmt.epoch.shadow = some w → s.mgmt.epoch.busy = false → w.2.units ≠ [] →
      ∃ t, exec .configEpochCommit s = .next t ∧ t = { s with mgmt := t.mgmt } ∧
        t.mgmt.epoch = { s.mgmt.epoch with busy := true, todo := w.2.units }) ∧
    (s.mgmt.epoch.shadow = none ∨ s.mgmt.epoch.busy = true → exec .configEpochCommit s = .next s) ∧
    (∀ (k : Fin 128) (who : Option Nat) (mask : BitVec 16) (ways : BitVec 4) (cmp : Bool),
      let e := s.mgmt.epoch
      e.shadow = some (who, .pinLimit mask ways cmp) → e.busy = true → EpochUnit.slice k ∈ e.todo →
      (s.sliceQuiet k.val = false → exec (.epochUnitFlip (.slice k)) s = .next s) ∧
      (s.sliceQuiet k.val = true → ∃ t, exec (.epochUnitFlip (.slice k)) s = .next t ∧ Kept s t ∧
        t.slice k.val = { s.slice k.val with pinWays := ways, cmpEn := cmp } ∧ (∀ j, j ≠ k.val → t.slice j = s.slice j) ∧
        ((∃ v, v ∈ e.todo ∧ v ≠ .slice k) → t.mgmt.epoch = { e with todo := e.todo.filter fun v => decide (v ≠ .slice k) }) ∧
        ((∀ v, v ∈ e.todo → v = .slice k) → t.mgmt.epoch = { e with
          gen := e.gen + 1, busy := false, done := true, shadow := none, todo := [] } ∧
          (who = none → Raised 4 0x186 (e.gen + 1).toNat s t)))) ∧
    (∀ u : EpochUnit, (s.mgmt.epoch.busy = false ∨ u ∉ s.mgmt.epoch.todo) → exec (.epochUnitFlip u) s = .next s)

/-- A tick moves TIME to its boundary, samples sensors and power, applies the tick-bound command that waits, and leaves each
pod's target at the least of its requested, thermal and cap voltages. The model's choices: log entries 2, 48, 66. -/
def Obligations.TicksSampleAndApply : Prop :=
  ∀ (env : TickEnv) (s : State),
    let x := s.mbx 0
    let now := (s.mgmt.pwr.tick + 1) * 500000 % 2 ^ 64
    s.mgmt.boot.due = none → s.mgmt.boot.state = .running → tget none s.mgmt.stopped 4 = none →
    (∃ t, exec (.mgmtTick env) s = .next t ∧ t.mgmt.pwr.tick = s.mgmt.pwr.tick + 1 ∧
      (t.time.toNat = if s.time.toNat < now then now else s.time.toNat) ∧
      t.mgmt.pwr.pwr.toNat = min 8191 env.power ∧ t.mgmt.pwr.vin.toNat = min 1023 env.vin ∧
      (∀ i, i < 324 → (∀ e, e ∈ env.temps → e.1.val ≠ i) → (t.sensor i).temp = env.base ∧ (t.sensor i).valid = true)) ∧
    (s.mgmt.pwr.tcmds = [] → ∃ t, exec (.mgmtTick env) s = .next t ∧ Kept s t ∧
      ((∀ p, p < 32 → (s.pod p).state = 0) → ∀ p, p < 32 →
        (t.pod p).targetv.toNat = min ((t.pod p).reqv.toNat + 5 * (t.pod p).floorup.toNat) (min (t.pod p).thermv.toNat (t.pod p).capv.toNat))) ∧
    (s.mgmt.pwr.tcmds = [0] → x.busy = true → x.drop = false →
      (x.opcode = 0x0301 → ∃ t, exec (.mgmtTick env) s = .next t ∧ Answered 0 0 0 s t ∧ t.mgmt.pwr.cap = BitVec.ofNat 13 (x.at 8 2)) ∧
      (x.opcode = 0x0300 → ∃ t, exec (.mgmtTick env) s = .next t ∧ Answered 0 0 0 s t ∧ ∀ p, p < 32 →
        (t.pod p).reqv = if (x.at 8 4).testBit p then BitVec.ofNat 8 (x.at 12 1) else (s.pod p).reqv) ∧
      (x.opcode = 0x0109 → s.live (x.at 8 2) = true → ∃ t, exec (.mgmtTick env) s = .next t ∧ Answered 0 0 0 s t ∧
        (t.dom (x.at 8 2)).quota = x.at 16 8) ∧
      (x.opcode = 0x0006 → ∃ t, exec (.mgmtTick env) s = .next t ∧ Answered 0 0 0 s t ∧ t.mgmt.boot.due = some 3) ∧
      (x.opcode = 0x0302 → x.at 12 1 = 1 → ∃ t, exec (.mgmtTick env) s = .next t ∧
        ∀ p, p < 32 → (x.at 8 4).testBit p = true → (s.pod p).state = 0 → (t.pod p).state = 1) ∧
      (x.opcode = 0x0100 → ∃ t, exec (.mgmtTick env) s = .next t ∧ (t.mbx 0).busy = false ∧
        (t.rsp 0 4 1 = 0 → let d := t.rsp 0 8 2
          s.live d = false ∧ t.live d = true ∧ (t.dom d).cores = (List.range 256).filter (x.at 8 32).testBit ∧
          (∀ c, c ∈ (t.dom d).cores → (s.core c).domain = 0 ∧ (t.core c).domain = d ∧ ∀ i, (t.core c).strand i = Strand.reset) ∧
          (t.dom d).quota = x.at 56 8 ∧ (t.mbx (64 + t.rsp 0 10 2)).dom = d)) ∧
      (∀ us, x.opcode = 0x0702 → x.arg = [us] → s.mgmt.lc.trans = false → ∃ t, exec (.mgmtTick env) s = .next t ∧
        Answered 0 0 0 s t ∧ t.rsp 0 8 4 = us % 2 ^ 32 ∧ (∀ c i, c < 256 → c / 8 = x.at 8 1 → (t.core c).strand i = Strand.reset) ∧
        ∀ a c o, regionOf a = .scratch c o → c / 8 = x.at 8 1 → tget memDefault t.mem a = 0) ∧
      (∀ us, x.opcode = 0x0701 → x.arg = [us] → s.mgmt.lc.trans = false → (∀ d, d < 4 → (s.switch d).busy = false) →
        ∃ t, exec (.mgmtTick env) s = .next t ∧ Answered 0 0 0 s t ∧
        (∀ c i, c < 256 → c / 64 = x.at 8 1 → (t.core c).strand i = Strand.reset) ∧
        (∀ i, i < 9 → (t.port (9 * x.at 8 1 + i)).state = 0) ∧
        ∀ a k, regionOf a = .hbm k → k / 4 = x.at 8 1 → tget memDefault t.mem a = 0)) ∧
    (∀ (mon : Fin 37) (e : DMonEnv),
      let d := s.dmonOf mon.val
      (e.whole = true → e.powered = true → s.railRuns mon.val = true → ∃ t, exec (.dmonWindow mon e) s = .next t ∧ t = { s with mgmt := t.mgmt } ∧
        let y := t.dmonOf mon.val
        y.valid = true ∧ y.rate = e.rate ∧ y.vdd = e.vdd ∧ y.rmin.toNat = min d.rmin.toNat e.rate.toNat ∧
        y.rmax.toNat = max d.rmax.toNat e.rate.toNat ∧
        let low := s.belowFloor mon.val e.rate.toNat e.vdd.toNat
        y.below = low ∧ y.floor = (d.floor || (low && d.below))) ∧
      (e.whole = false ∨ e.powered = false ∨ s.railRuns mon.val = false →
        ∃ t, exec (.dmonWindow mon e) s = .next t ∧ t = { s with mgmt := t.mgmt } ∧
        let y := t.dmonOf mon.val
        y.valid = false ∧ y.rate = (if e.whole then e.rate else d.rate) ∧ y.below = d.below ∧ y.rmin = d.rmin ∧ y.rmax = d.rmax ∧ y.floor = d.floor)) ∧
    (∀ mask : BitVec 37, ∃ t, exec (.dmonClear mask) s = .next t ∧ t = { s with mgmt := t.mgmt } ∧ ∀ i, i < 37 →
      t.dmonOf i = if mask.getLsbD i then { s.dmonOf i with rmin := 0xFFFF, rmax := 0 } else s.dmonOf i)

/-- A pod's park and unpark sequences go on when its cores are quiet or its rail has settled, accesses to a parked pod's
scratchpads wait, and a park that is not quiet in time is abandoned. A pod at 105 °C is clamped. A lost reference halts the
module and costs its HBM; a lost PLL costs only its island. The model's choices: log entry 49. -/
def Obligations.PodsParkAndClocksFail : Prop :=
  ∀ (s : State),
    (∀ pod : Fin 32,
      let p := pod.val
      let x := s.pod p
      let only (y : PodReg) (t : State) : Prop := t = { s with mgmt := t.mgmt } ∧ t.pod p = y ∧ ∀ q, q ≠ p → t.pod q = s.pod q
      (x.state = 1 → (∀ c, c ∈ coresOfPod p → s.coreQuiet c = true) →
        ∃ t, exec (.podParkQuiesce pod) s = .next t ∧ only { x with ready := true } t) ∧
      ((∃ c, c ∈ coresOfPod p ∧ s.coreQuiet c = false) → exec (.podParkQuiesce pod) s = .next s) ∧
      (∀ (c o : Fin 256) (i : Fin 16) (e : StoreEntry) (off : Nat) (m : ErrMap), (s.core c.val).wbuf[i.val]? = some e →
        regionOf e.pa = .scratch o.val off → podOfCore o.val = p → x.state = 2 → exec (.storePerformed c i m) s = .next s) ∧
      (∀ (w : Site) (o : Fin 256) (k : Fin 4) (l : Miss) (off : Nat), (s.strand w).spLoads[k.val]? = some l →
        regionOf l.pa = .scratch o.val off → podOfCore o.val = p → x.state = 2 → exec (.scratchpadLoadReturn w k) s = .next s) ∧
      (∀ m, x.state = 3 → ∃ t, exec (.podUnparkSlew pod m) s = .next t ∧ t.pod p = { x with ready := true, vdd := x.targetv } ∧
        (s.link.atPods = [] → only { x with ready := true, vdd := x.targetv } t)) ∧
      (x.state = 1 → x.ready = false → x.forced = false → x.latched = false → (∀ m, m < 320 → (s.mbx m).stage ≠ 2) →
        ∃ t, exec (.parkAbandon pod) s = .next t ∧ Kept s t ∧ t.pod p = { x with state := 0 } ∧ Raised (p / 8) 0x14A p s t) ∧
      (x.state ≠ 1 ∨ x.ready = true ∨ x.forced = true → exec (.parkAbandon pod) s = .next s) ∧
      (∀ tj : BitVec 8, 105 ≤ tj.toNat → ∃ t y, exec (.podHotClamp pod tj) s = .next t ∧ only y t ∧ y.targetv.toNat = min 100 x.targetv.toNat ∧
        y.vdd = y.targetv ∧ y.hot105 = true ∧ y.tj = tj) ∧
      (∀ tj : BitVec 8, tj.toNat < 105 → exec (.podHotClamp pod tj) s = .next s)) ∧
    (s.mgmt.boot.state ≠ .lockout → ∃ t, exec .referenceLoss s = .next t ∧ SameStrands s t ∧ t.mgmt.boot.state = .halted ∧ t.alert = true ∧
      (∀ c, t.podRuns c = false) ∧ (∀ a, isHbm a = true → tget memDefault t.mem a = 0) ∧
      (∀ a, isHbm a = false → tget memDefault t.mem a = tget memDefault s.mem a) ∧
      ∃ e : AosEntry, t.evr.aos.getLast? = some e ∧ e.code = 0x141) ∧
    (∀ k : Fin 36, (s.port k.val).state ≠ 0 → (s.port k.val).queued = [] → ∃ t, exec (.pllLockLoss (.serdes k)) s = .next t ∧ Kept s t ∧
      (t.port k.val).state = 5 ∧ (∀ j, j ≠ k.val → t.port j = s.port j) ∧ Raised 4 0x142 2 s t) ∧
    (∀ x : Fin 16, ∃ t, exec (.pllLockLoss (.hbmPhy x)) s = .next t ∧ Kept s t ∧ (t.stack x.val).ready = false ∧
      (∀ j, j ≠ x.val → t.stack j = s.stack j) ∧ Raised 4 0x142 1 s t) ∧
    (∃ t, exec (.pllLockLoss .pcie) s = .next t ∧ t = { s with evr := t.evr, mgmt := { s.mgmt with pcieDown := true } } ∧ t.hostUp = false ∧
      Raised 4 0x142 0 s t) ∧
    (∀ d : Fin 5, ∃ t, exec (.pllLockLoss (.timeBase d)) s = .next t ∧
      t = { s with evr := t.evr, mgmt := { s.mgmt with stopped := t.mgmt.stopped } } ∧
      tget none t.mgmt.stopped d.val = some (s.timeOf d.val) ∧ (∀ j, j ≠ d.val → t.timeOf j = s.timeOf j) ∧ Raised 4 0x142 6 s t) ∧
    (∃ t, exec (.pllLockLoss .onfi) s = .next t ∧ Kept s t ∧ t.mgmt.grn = { s.mgmt.grn with ready := false } ∧ Raised 4 0x142 3 s t)

/-- A domain's first strand starts where it is told with the hulls of its start set; a page is mapped at the frame named and
unmapped with its cached translations; vectors, policy, windows and bindings take the values given; revocation first stops the
domain and then leaves nothing of it behind. The model's choices: log entries 70, 82. -/
def Obligations.DomainCommandsStartMapAndRevoke : Prop :=
  ∀ (m : Fin 320) (s : State),
    let n := m.val
    let x := s.mbx n
    (∀ d k l : Nat,
      let c := x.at 10 2
      let entry := x.at 16 8
      Holds s n 0x0101 [(8, 12), (16, 32)] → ActsFor s n 8 d → c ≤ 255 → c ∈ (s.dom d).cores →
      (∀ i, i < 8 → ((s.core c).strand i).running = false) → entry % 4 = 0 → entry < 2 ^ 57 → entry + x.at 24 8 ≤ 2 ^ 57 →
      canonLen entry (x.at 24 8) = some (k, l) → canonLen vaHull (vaHbm + (s.dom d).hbm - vaHull) ≠ none →
      ∃ t, exec (.domainStart m) s = .next t ∧ t.mem = s.mem ∧ Answered n 0 0 s t ∧
        ∀ v : Site, v.core.val = c → v.strand.val = 0 → (t.strand v).running = true ∧ (t.strand v).cur = .s0 ∧ (t.strand v).dom = d ∧
          (t.bank v).pc.toNat = entry ∧ (∀ r, (t.bank v).readG r = 0) ∧ (t.bank v).readH 15 = mkHull 1 (rEXEC + rREAD) d k l entry ∧
          (t.bank v).readH 11 = mailboxHull d (s.dom d).mbx ∧ (∀ r, r ≠ 11 → r ≠ 14 → r ≠ 15 → (t.bank v).readH r = 0) ∧
          OtherStrands v s t) ∧
    (∀ d : Nat,
      let level := sizeLevel (x.at 10 1)
      let fl := x.at 11 1
      let va := x.at 16 8
      let f := x.at 24 8
      Holds s n 0x0103 [(8, 12), (16, 32)] → ActsFor s n 8 d → x.at 10 1 ≤ 2 → fl < 32 → va % leafSize level = 0 → va < 2 ^ 57 →
      f ≠ 0 → s.refuseLeaf d level f (fl.testBit 1) (fl.testBit 2) (fl.testBit 3) = none → s.placeTaken d level va = false →
      s.frameTaken d f (leafSize level) = false → (fl.testBit 2 = true → s.hullPages < 4096) → Quiet s →
      WalkStands s d va level 0 0 → ((s.own d f (leafSize level)).makeTable d va level).isSome = true →
      ∃ t e, exec (.pageMap m) s = .next t ∧ SameStrands s t ∧ Answered n 0 0 s t ∧
        (∀ a, s.tableAt d va level = some a → Stored s.mem t.mem (a + 8 * pteIndex level va) (leBytes 8 e.toNat)) ∧ t.rsp n 8 8 = f ∧ t.walk d va = .leaf level e ∧
        pteAddr e = f ∧ bit e 2 = fl.testBit 0 ∧ bit e 3 = fl.testBit 1 ∧ bit e 4 = fl.testBit 2 ∧ bit e 5 = fl.testBit 3 ∧
        ∃ p, p ∈ (t.dom d).pages ∧ p.1 ≤ f ∧ f + leafSize level ≤ p.1 + p.2) ∧
    (∀ (d a : Nat) (e : BitVec 64),
      let level := sizeLevel (x.at 10 1)
      let va := x.at 16 8
      Holds s n 0x0104 [(8, 11), (16, 25)] → ActsFor s n 8 d → x.at 10 1 ≤ 2 → va < 2 ^ 57 → x.at 24 1 ≤ 1 → s.walk d va = .leaf level e →
      va % leafSize level = 0 → (bit e 5 = false ∨ bit e 6 = true) → Quiet s → WalkStands s d va level 0 0 →
      s.tableAt d va level = some a →
      let after (t : State) : Prop := SameStrands s t ∧ (∃ l, t.walk d va = .invalid l) ∧
        ∀ c y, y ∈ (t.core c).tlb → y.dom = d → overlaps va (leafSize level) y.base (leafSize y.level) = false
      (s.unitsHold d va (leafSize level) = true → ∃ t, exec (.pageUnmap m) s = .next t ∧ t.doms = s.doms ∧ t.mem = s.mem ∧ t.mbx n = s.mbx n) ∧
      (s.unitsHold d va (leafSize level) = false → s.pageQuiet (pteAddr e) (leafSize level) = true →
        ∃ t, exec (.pageUnmap m) s = .next t ∧ after t ∧ Answered n 0 0 s t ∧
        (x.at 24 1 = 0 → Stored s.mem t.mem (a + 8 * pteIndex level va) (List.replicate 8 0)) ∧
        (x.at 24 1 = 1 → ∀ b, pteAddr e ≤ b → b < pteAddr e + leafSize level → tget memDefault t.mem b = 0)) ∧
      (s.unitsHold d va (leafSize level) = false → s.pageQuiet (pteAddr e) (leafSize level) = false →
        ∃ t, exec (.pageUnmap m) s = .next t ∧ after t ∧ Stored s.mem t.mem (a + 8 * pteIndex level va) (List.replicate 8 0) ∧
        (t.mbx n).busy = true ∧ (t.mbx n).stage = 1)) ∧
    (∀ d : Nat,
      let word (a : Nat) : W64 := if a = 0 then 0 else BitVec.ofNat 64 (a % 2 ^ 57 + 1)
      Holds s n 0x0108 [(8, 10), (16, 32)] → ActsFor s n 8 d → x.at 16 8 % 512 = 0 → x.at 24 8 % 4 = 0 →
      ∃ t, exec (.vectorSet m) s = .next t ∧ Kept s t ∧ Answered n 0 0 s t ∧
        t.dom d = { s.dom d with vbase := word (x.at 16 8), dfpc := word (x.at 24 8) }) ∧
    (∀ d : Nat, Holds s n 0x010B [(8, 11)] → n = 0 → ActsFor s n 8 d → x.at 10 1 ≤ 1 →
      ∃ t, exec (.faultPolicy m) s = .next t ∧ Kept s t ∧ Answered n 0 0 s t ∧
        t.dom d = { s.dom d with revokeOn3 := decide (x.at 10 1 = 1) }) ∧
    (∀ d : Nat, Holds s n 0x0107 [(8, 12), (16, 32)] → ActsFor s n 8 d → x.at 10 1 ≤ 15 → x.at 11 1 ≤ 3 →
      ∃ t, exec (.hostWindow m) s = .next t ∧ Kept s t ∧ Answered n 0 0 s t ∧
        (tget HostWin.none (t.dom d).wins (x.at 10 1) = if x.at 24 8 = 0 then HostWin.none
          else ⟨x.at 16 8, x.at 24 8, (x.at 11 1).testBit 0, (x.at 11 1).testBit 1⟩) ∧
        ∀ i, i ≠ x.at 10 1 → tget HostWin.none (t.dom d).wins i = tget HostWin.none (s.dom d).wins i) ∧
    (Holds s n 0x0105 [(8, 9), (10, 12)] → n = 0 → 1 ≤ x.at 8 1 → x.at 8 1 ≤ 63 → x.at 10 2 ≤ 4095 →
      (x.at 10 2 = 0 ∨ s.live (x.at 10 2) = true) →
      ∃ t, exec (.funcBind m) s = .next t ∧ Kept s t ∧ Answered n 0 0 s t ∧
        t.func (x.at 8 1) = { s.func (x.at 8 1) with dom := x.at 10 2 }) ∧
    (∀ d : Nat, Holds s n 0x0106 [(8, 10), (16, 24)] → ActsFor s n 8 d → n < 64 → x.at 16 8 % 65536 = 0 → x.at 16 8 < 2 ^ 57 →
      ∃ t, exec (.bar2Window m) s = .next t ∧ Kept s t ∧ Answered n 0 0 s t ∧ (t.func n).dom = d ∧ (t.func n).win = some (x.at 16 8)) ∧
    (∀ d : Nat, Holds s n 0x0106 [(8, 10), (16, 24)] → ActsFor s n 8 d → n < 64 → x.at 16 8 = 2 ^ 64 - 1 →
      ∃ t, exec (.bar2Window m) s = .next t ∧ Kept s t ∧ Answered n 0 0 s t ∧ (t.func n).win = none) ∧
    (Holds s n 0x010A [(8, 13)] → n < 64 → (s.func n).dom ≠ 0 → 16 ≤ x.at 8 2 → x.at 8 2 ≤ 2047 → x.at 12 1 ≤ 1 →
      ∃ t, exec (.irqBind m) s = .next t ∧ Kept s t ∧ Answered n 0 0 s t ∧
        tget none (t.func n).irqs (x.at 8 2) = if x.at 12 1 = 1 then none else some (x.at 10 2)) ∧
    (∀ (d : Nat) (us : BitVec 32), Holds s n 0x0102 [(8, 10)] → ActsFor s n 8 d → (s.dom d).husking = false →
      ∃ t, exec (.domainRevoke m us) s = .next t ∧ Going d s t ∧
        (n < 64 → (t.mbx n).busy = true ∧ (t.mbx n).stage = 1 ∧ (t.mbx n).arg = [d]) ∧ (64 ≤ n → t.mbx n = Mbx.reset)) ∧
    (∀ (d : Nat) (us : BitVec 32), x.busy = true → x.stage = 1 → x.opcode = 0x0102 → x.arg = [d] → x.drop = false →
      (s.dom d).husking = true →
      ∃ t, exec (.domainRevoke m us) s = .next t ∧ Gone d s t ∧ Answered n 0 0 s t ∧ t.rsp n 8 4 = us.toNat) ∧
    (∀ (dom : DomId) (us : BitVec 32), dom.toNat ∈ s.revokeQ → s.live dom.toNat = true → (s.dom dom.toNat).husking = false →
      ∃ t, exec (.domainRevocation dom us) s = .next t ∧ Going dom.toNat s t) ∧
    (∀ (dom : DomId) (us : BitVec 32), (s.dom dom.toNat).husking = true →
      ∃ t, exec (.domainRevocation dom us) s = .next t ∧ Gone dom.toNat s t ∧ dom.toNat ∉ t.revokeQ) ∧
    (∀ (dom : DomId) (us : BitVec 32), dom.toNat ∉ s.revokeQ → (s.dom dom.toNat).husking = false →
      exec (.domainRevocation dom us) s = .next s) ∧
    (∀ dom : DomId, s.sweep.busy = false → ∃ t, exec (.sweepStart dom) s = .next t ∧ t.sweep.domain = dom ∧ t.sweep.done = true ∧
      ∀ (v : Site) (r : Nat), (t.bank v).readH r = if sealedBy dom.toNat ((s.bank v).readH r) then 0 else (s.bank v).readH r)

/-! ### Chapter 16: rights, objects, queues, mailboxes and channels granted to domains -/

/-- Luami lends a hull sealed with its source, grants device rights, objects, queues and mailboxes that nobody holds, pairs
peers and configures channels; each hull it places stands in the hull-page word named. What is granted already is refused. The
model's choices: log entries 44, 83. -/
def Obligations.RightsObjectsQueuesAndChannelsAreGranted : Prop :=
  ∀ (m : Fin 320) (s : State) (d : Nat),
    let n := m.val
    let x := s.mbx n
    let ok (t : State) : Prop := SameStrands s t ∧ Answered n 0 0 s t
    (∀ pa : Nat,
      let h : W128 := setFld (BitVec.ofNat 128 (x.at 24 16)) 107 96 d
      let b := x.at 10 2
      Holds s n 0x0200 [(8, 12), (16, 40)] → ActsFor s n 8 d → 0 < b → b ≤ 4095 → s.live b = true →
      (hType h = 1 ∨ hType h = 2 ∨ hType h = 3) → hMalformed h = false → (hType h = 3 → hLen h = 64 ∧ hBase h % 64 = 0) →
      (s.withinRoot d h = true → HullWord s b (x.at 16 8) pa →
        ∃ t, exec (.hullLend m) s = .next t ∧ ok t ∧ PlacesHull pa h s t ∧ hSeal h = d % 4096 ∧ b ∈ (t.dom d).lends) ∧
      (s.withinRoot d h = false → ∃ t, exec (.hullLend m) s = .next t ∧ Kept s t ∧ Answered n 6 477 s t)) ∧
    (∀ pa : Nat,
      let k := x.at 10 1
      let r := x.at 11 1
      let a := x.at 12 4
      let c := x.at 16 4
      let h (a : Nat) := mkHull 5 (r % 4 + rDERIVE + (if r.testBit 2 then rPASS else 0)) d 0 c (k * 2 ^ 48 + a)
      Holds s n 0x0201 [(8, 20), (24, 32)] → ActsFor s n 8 d → 1 ≤ k → k ≤ 8 → (k ≤ 4 → n = 0) → r ≤ 7 → 1 ≤ c →
      c ≤ kindInstances k →
      (a + c ≤ kindInstances k → s.rightTaken 0 k a c = false → HullWord s d (x.at 24 8) pa →
        ∃ t, exec (.rightGrant m) s = .next t ∧ ok t ∧ PlacesHull pa (h a) s t ∧ t.rsp n 8 4 = a ∧
          (t.dom d).rights = (s.dom d).rights ++ [h a]) ∧
      (a + c ≤ kindInstances k → s.rightTaken 0 k a c = true →
        ∃ t, exec (.rightGrant m) s = .next t ∧ Kept s t ∧ Answered n 5 12 s t) ∧
      (a = 0xFFFFFFFF → (∃ f, f + c ≤ kindInstances k ∧ s.rightTaken 0 k f c = false) → HullWord s d (x.at 24 8) pa →
        ∃ t f, exec (.rightGrant m) s = .next t ∧ ok t ∧ f + c ≤ kindInstances k ∧ s.rightTaken 0 k f c = false ∧
          PlacesHull pa (h f) s t ∧ t.rsp n 8 4 = f) ∧
      (a = 0xFFFFFFFF → (∀ f, f + c ≤ kindInstances k → s.rightTaken 0 k f c = true) →
        ∃ t, exec (.rightGrant m) s = .next t ∧ Kept s t ∧ Answered n 4 0 s t)) ∧
    (∀ pa e l : Nat,
      let a := x.at 12 4
      let c := x.at 16 4
      let h := mkHull 2 (0xF + rDERIVE + (if x.at 10 1 = 1 then rPASS else 0)) d e l (s.moduleId.toNat * 65536 + a)
      Holds s n 0x0203 [(8, 11), (12, 20), (24, 32)] → ActsFor s n 8 d → x.at 10 1 ≤ 1 → 1 ≤ c → a + c ≤ 65536 →
      (s.objTaken d a c = false → canonLen (s.moduleId.toNat * 65536 + a) c = some (e, l) → HullWord s d (x.at 24 8) pa →
        ∃ t, exec (.syncGrant m) s = .next t ∧ ok t ∧ PlacesHull pa h s t ∧ t.rsp n 8 4 = a ∧
          t.sync.grants = s.sync.grants ++ [(d, a, c)]) ∧
      (s.objTaken d a c = true → ∃ t, exec (.syncGrant m) s = .next t ∧ Kept s t ∧ Answered n 5 12 s t)) ∧
    (∀ (pa : Nat) (hs : List W128),
      let u := x.at 10 1
      let q := x.at 11 1
      Holds s n 0x0204 [(8, 12), (16, 32)] → ActsFor s n 8 d → u ≤ 15 → q ≤ 15 →
      (((s.updUnit u).queue q).bound = false → s.hullsFrom d 16 6 (x.at 16 8) = .inr hs → HullWord s d (x.at 24 8) pa →
        ∃ t, exec (.updqBind m) s = .next t ∧ ok t ∧ PlacesHull pa (mkHull 4 (rREAD + rWRITE) d 0 0x800 (queuePage u q)) s t ∧
          t.rsp n 8 1 = u ∧ t.rsp n 9 1 = q ∧ ((t.updUnit u).queue q).bound = true ∧ ((t.updUnit u).queue q).dom = d ∧
          (∀ i, i < 6 → tget 0 ((t.updUnit u).queue q).hs i = hs.getD i 0) ∧
          ((t.updUnit u).queue q).items = ((s.updUnit u).queue q).items ∧ ((t.updUnit u).queue q).done = ((s.updUnit u).queue q).done ∧
          ∀ u' q', u' ≠ u ∨ q' ≠ q → (t.updUnit u').queue q' = (s.updUnit u').queue q') ∧
      (((s.updUnit u).queue q).bound = true → ∃ t, exec (.updqBind m) s = .next t ∧ Kept s t ∧ Answered n 5 12 s t)) ∧
    (let u := x.at 10 1
      let q := x.at 11 1
      Holds s n 0x0205 [(8, 12)] → ActsFor s n 8 d → u ≤ 15 → q ≤ 15 → ((s.updUnit u).queue q).bound = true →
      ((s.updUnit u).queue q).dom = d →
        ∃ t, exec (.updqUnbind m) s = .next t ∧ ok t ∧ ((t.updUnit u).queue q).bound = false ∧ ((t.updUnit u).queue q).dom = 0 ∧
          ((t.updUnit u).queue q).hs = [] ∧ (((s.updUnit u).queue q).items = [] → t.mem = s.mem)) ∧
    (∀ pa : Nat, Holds s n 0x0207 [(8, 10), (16, 24)] → ActsFor s n 8 d →
      ((∃ i, i < 256 ∧ (s.mbx (64 + i)).dom = 0) → HullWord s d (x.at 16 8) pa →
        ∃ t i, exec (.mbxGrant m) s = .next t ∧ ok t ∧ i < 256 ∧ (s.mbx (64 + i)).dom = 0 ∧ (t.mbx (64 + i)).dom = d ∧
          t.rsp n 8 2 = i ∧ PlacesHull pa (mailboxHull d i) s t) ∧
      ((∀ i, i < 256 → (s.mbx (64 + i)).dom ≠ 0) → ∃ t, exec (.mbxGrant m) s = .next t ∧ Kept s t ∧ Answered n 4 0 s t)) ∧
    (let a := x.at 10 2
      let e := x.at 12 2
      Holds s n 0x0208 [(8, 14)] → n = 0 → x.at 8 2 ≤ 4095 → (x.at 8 2 = 0 ∨ s.live (x.at 8 2) = true) → a ≤ 4095 → 1 ≤ e → e ≤ 4095 →
        ∃ t, exec (.peerPair m) s = .next t ∧ Kept s t ∧ Answered n 0 0 s t ∧
          (∀ l, (a, e, l) ∈ t.sync.peers ↔ l = x.at 8 2 ∧ l ≠ 0) ∧
          ∀ p : Nat × Nat × Nat, p.1 ≠ a ∨ p.2.1 ≠ e → (p ∈ t.sync.peers ↔ p ∈ s.sync.peers)) ∧
    (let c := x.at 12 2
      let k := x.at 10 1
      Holds s n 0x0209 [(8, 64)] → ActsFor s n 8 d → c ≤ 4095 → k ≤ 2 → s.chanTaken d k c = false →
      x.at 14 2 ≤ 4095 → x.at 16 2 ≤ 4095 →
      (∀ pa : Nat, k = 0 → (∀ o, o = 11 ∨ (18 ≤ o ∧ o < 56) → x.at o 1 = 0) → HullWord s d (x.at 56 8) pa →
        ∃ t, exec (.chanConfig m) s = .next t ∧ ok t ∧ PlacesHull pa (chanHull d 7 c) s t ∧
          t.chan c = { s.chan c with
            tx := true, dom := d, farmod := x.at 14 2, fardom := x.at 16 2, cseqTx := 0, broken := false } ∧
          chanHull d 7 c ∈ (t.dom d).rights ∧ ∀ j, j ≠ c → t.chan j = s.chan j) ∧
      (k = 1 → (∀ o, (18 ≤ o ∧ o < 22) ∨ (24 ≤ o ∧ o < 28) ∨ 40 ≤ o → x.at o 1 = 0) → x.at 11 1 ≤ 1 → x.at 32 8 + x.at 28 4 ≤ 2 ^ 57 →
        (s.backedIn d (x.at 32 8) (x.at 28 4) = false →
          ∃ t, exec (.chanConfig m) s = .next t ∧ Kept s t ∧ Answered n 0 0 s t ∧
            t.chan c = { s.chan c with
              rx := true, dom := d, srcmod := x.at 14 2, srcdom := x.at 16 2, wbase := x.at 32 8, wlen := x.at 28 4,
              fobj := x.at 22 2, reduce := decide (x.at 11 1 = 1), cseqRx := 0, early := [], refused := [] } ∧
            ∀ j, j ≠ c → t.chan j = s.chan j) ∧
        (s.backedIn d (x.at 32 8) (x.at 28 4) = true →
          ∃ t, exec (.chanConfig m) s = .next t ∧ Kept s t ∧ Answered n 6 457 s t)) ∧
      (∀ (p1 p2 : Nat) (hm hs : W128), k = 2 → x.at 11 1 = 0 → x.at 18 2 ≤ 4095 → x.at 20 2 ≤ 4095 → x.at 28 4 % 64 = 0 →
        x.at 28 4 ≤ 2 ^ 30 → x.at 32 8 + 2 * x.at 28 4 ≤ 2 ^ 57 → s.backedIn d (x.at 32 8) (2 * x.at 28 4) = false →
        s.hullsFrom d 48 2 (x.at 48 8) = .inr [hm, hs] → HullWord s d (x.at 56 8) p1 → HullWord s d (x.at 56 8 + 16) p2 →
        (s.ring c).queue = [] →
        ∃ t mem, exec (.chanConfig m) s = .next t ∧ ok t ∧ Stored s.mem mem p1 (leBytes 16 (chanHull d 8 c).toNat) ∧
          Stored mem t.mem p2 (leBytes 16 (ringPage d c).toNat) ∧ chanHull d 8 c ∈ (t.dom d).rights ∧
          t.ring c = { s.ring c with
            on := true, dom := d, nextmod := x.at 14 2, nextdom := x.at 16 2, prevmod := x.at 18 2, prevdom := x.at 20 2,
            blen := x.at 28 4, buf := x.at 32 8, nextbuf := x.at 40 8, recv := x.at 22 2, used := x.at 24 2, credit := x.at 26 2,
            hmem := hm, hsync := hs } ∧ ∀ j, j ≠ c → t.ring j = s.ring j)) ∧
    (let c := x.at 12 2
      let k := x.at 10 1
      Holds s n 0x020A [(8, 11), (12, 14)] → ActsFor s n 8 d → c ≤ 4095 →
      (k = 0 → (s.chan c).dom = d → (s.chan c).tx = true → ∃ t, exec (.chanUnconfig m) s = .next t ∧ Kept s t ∧ Answered n 0 0 s t ∧
        (t.chan c).tx = false ∧ (t.chan c).farmod = 0 ∧ (t.chan c).fardom = 0 ∧ (t.chan c).rx = (s.chan c).rx ∧
        (t.chan c).wbase = (if (s.chan c).rx then (s.chan c).wbase else 0) ∧ ∀ j, j ≠ c → t.chan j = s.chan j) ∧
      (k = 1 → (s.chan c).dom = d → (s.chan c).rx = true → ∃ t, exec (.chanUnconfig m) s = .next t ∧ Kept s t ∧ Answered n 0 0 s t ∧
        (t.chan c).rx = false ∧ (t.chan c).wlen = 0 ∧ (t.chan c).srcmod = 0 ∧ (t.chan c).srcdom = 0 ∧ (t.chan c).tx = (s.chan c).tx ∧
        (t.chan c).farmod = (if (s.chan c).tx then (s.chan c).farmod else 0) ∧ ∀ j, j ≠ c → t.chan j = s.chan j) ∧
      (k = 2 → (s.ring c).on = true → (s.ring c).dom = d → ∃ t, exec (.chanUnconfig m) s = .next t ∧ Kept s t ∧ Answered n 0 0 s t ∧
        (t.ring c).on = false ∧ (t.ring c).queue = [] ∧ (t.ring c).dom = 0 ∧
        ((s.ring c).queue = [] → (t.ring c).done = (s.ring c).done ∧ (t.ring c).err = (s.ring c).err) ∧
        (∀ it, (s.ring c).queue.getLast? = some it → (t.ring c).done = it.seq + 1 ∧ (t.ring c).err = true ∧
          fld (t.ring c).rdone 39 32 = 0x50)))

/-! ### Chapters 15 and 17: routes, ports and alerts; the recorder, captures and monitors -/

/-- Routes enter the shadow tables, ports are asked on or off, a conflict and ALERT_N's causes are cleared by command; record
words and the trigger are loaded. -/
def Obligations.LinkAndRecorderCommandsTakeEffect : Prop :=
  ∀ (m : Fin 320) (s : State),
    let n := m.val
    let x := s.mbx n
    let ok (t : State) : Prop := Kept s t ∧ Answered n 0 0 s t
    n = 0 →
    (let f := x.at 8 2
      let c := x.at 10 1
      let e (j : Nat) : W64 := BitVec.ofNat 64 (x.at (16 + 8 * (j - f)) 8)
      let shadow (y : Switch) : Table W64 := if y.active then y.rt0 else y.rt1
      let live (y : Switch) : Table W64 := if y.active then y.rt1 else y.rt0
      Holds s n 0x0400 [(8, 11), (16, 64)] → 1 ≤ c → c ≤ 6 → f + c ≤ 4096 → (∀ j, f ≤ j → j < f + c → s.entryBad j (e j) = none) →
      ((∀ i, i < 4 → (s.switch i).busy = false) → ∃ t, exec (.routeWrite m) s = .next t ∧ ok t ∧ ∀ i, i < 4 →
        (t.switch i).active = (s.switch i).active ∧ (t.switch i).busy = false ∧ live (t.switch i) = live (s.switch i) ∧
        (∀ j, f ≤ j → j < f + c → tget 0 (shadow (t.switch i)) j =
          setBit (e j) 41 (bit (tget 0 (shadow (s.switch i)) j) 41 && !bit (e j) 41)) ∧
        ∀ j, j < f ∨ f + c ≤ j → tget 0 (shadow (t.switch i)) j = tget 0 (shadow (s.switch i)) j) ∧
      ((∃ i, i < 4 ∧ (s.switch i).busy = true) → ∃ t, exec (.routeWrite m) s = .next t ∧ Kept s t ∧ Answered n 5 0 s t ∧
        t.link = s.link)) ∧
    (Holds s n 0x0402 [(8, 17)] → x.at 8 8 < 2 ^ 36 → x.at 16 1 ≤ 1 → ∃ t, exec (.portPower m) s = .next t ∧ ok t ∧ ∀ k : Fin 36,
      ((x.at 8 8).testBit k.val = false → t.port k.val = s.port k.val) ∧
      ∀ u, (x.at 8 8).testBit k.val = true → exec (.pctlRequest k (decide (x.at 16 1 = 1))) s = .next u →
        t.port k.val = u.port k.val) ∧
    (let id := x.at 8 2
      let clean (y : Switch) : Prop := ∀ e, e ∈ y.rt0 ∨ e ∈ y.rt1 → e.1 ≠ id → bit e.2 41 = false
      Holds s n 0x0403 [(8, 10)] → id ≤ 4095 → ∃ t, exec (.conflictClear m) s = .next t ∧ ok t ∧
        (∀ i, i < 4 → tget 0 (t.switch i).rt0 id = setBit (tget 0 (s.switch i).rt0 id) 41 false ∧
          tget 0 (t.switch i).rt1 id = setBit (tget 0 (s.switch i).rt1 id) 41 false ∧
          ∀ j, j ≠ id → tget 0 (t.switch i).rt0 j = tget 0 (s.switch i).rt0 j ∧ tget 0 (t.switch i).rt1 j = tget 0 (s.switch i).rt1 j) ∧
        t.mgmt.pwr.unacked = s.mgmt.pwr.unacked ∧
        ((∀ i, i < 4 → clean (s.switch i) ∧ twf 0 (s.switch i).rt0 = true ∧ twf 0 (s.switch i).rt1 = true) →
          t.mgmt.pwr.causes = setBit s.mgmt.pwr.causes 3 false)) ∧
    (let q := BitVec.ofNat 32 (x.at 8 4);
      Holds s n 0x0005 [(8, 12)] → ∃ t, exec (.alertAck m) s = .next t ∧ ok t ∧ t.mgmt.pwr.causes = s.mgmt.pwr.causes ∧
        (∀ i, i < 6 → bit t.mgmt.pwr.unacked i = (bit s.mgmt.pwr.unacked i && !(bit q i && !bit s.mgmt.pwr.causes i))) ∧
        (t.alert = false ↔ t.mgmt.pwr.causes = 0 ∧ t.mgmt.pwr.unacked = 0)) ∧
    (let c := x.at 8 2;
      Holds s n 0x0503 [(8, 14), (16, 20)] → c ≤ 0xFFF → x.at 12 1 ≤ 7 → x.at 13 1 ≤ 31 →
        ∃ t w, exec (.evrConfig m) s = .next t ∧ ok t ∧ w = t.evrW7 c ∧ fld w 15 0 = x.at 10 2 ∧ fld w 18 16 = x.at 12 1 ∧
          fld w 23 19 = x.at 13 1 ∧ fld w 55 24 = x.at 16 4 ∧ t.evrRec c = s.evrRec c ∧ ∀ j, j ≠ c → t.evrW7 j = s.evrW7 j) ∧
    (Holds s n 0x0505 [(8, 14)] → x.at 10 2 ≤ 4095 → x.at 12 1 ≤ 2 → x.at 13 1 ≤ 1 →
      ∃ t, exec (.pmcTrigset m) s = .next t ∧ ok t ∧ fld t.pmc.trig 15 0 = x.at 8 2 ∧ fld t.pmc.trig 27 16 = x.at 10 2 ∧
        fld t.pmc.trig 29 28 = x.at 12 1 ∧ (bit t.pmc.trig 30 = true ↔ x.at 13 1 = 1))

/-- The earliest occurrence updates its record; a clear resets its codes and reports itself; the always-on store is copied. A
capture is taken at its instant, a counter that wraps carries, samples or overflows, and a monitor's window closes. The model's
choices: log entries 46, 68. -/
def Obligations.OccurrencesCountersAndWindowsAreRecorded : Prop :=
  ∀ s : State,
    (∀ (k : Nat) (o : Occ) (rest : List Occ), k < 5 → tget [] s.evr.collectors k = o :: rest → (o.code = 0x001 → s.evr.clearing = none) →
      (∀ (j : Nat) (p : Occ), j < 5 → j ≠ k → (tget [] s.evr.collectors j).head? = some p →
        o.time.toNat < p.time.toNat ∨ (o.time = p.time ∧ k < j)) →
      let r := s.evrRec o.code
      let w := s.evrW7 o.code
      let v := o.value.toNat
      let b := if bit w 18 then (if v = 0 then 0 else min 15 (Nat.log2 v + 1))
        else if v < fld w 55 24 then 0 else min 15 ((v - fld w 55 24) / 2 ^ fld w 23 19)
      ∃ t, exec .occurrenceApply s = .next t ∧ Kept s t ∧ tget [] t.evr.collectors k = rest ∧
        (∀ j, j ≠ k → tget [] t.evr.collectors j = tget [] s.evr.collectors j) ∧ (∀ c, c ≠ o.code → t.evrRec c = s.evrRec c) ∧
        let q := t.evrRec o.code
        q.first = (if r.count = 0 then o.time else r.first) ∧ q.last = o.time ∧ q.lastval = o.value ∧ q.det = o.det ∧
        q.count.toNat = min (r.count.toNat + o.n.toNat) (2 ^ 48 - 1) ∧ q.min.toNat = min r.min.toNat v ∧
        q.max.toNat = max r.max.toNat v ∧ q.folded = r.folded ∧
        (tget 0 q.bins b).toNat = min ((tget 0 r.bins b).toNat + o.n.toNat) (2 ^ 32 - 1) ∧ ∀ i, i ≠ b → tget 0 q.bins i = tget 0 r.bins i) ∧
    ((∀ j, j < 5 → tget [] s.evr.collectors j = []) → exec .occurrenceApply s = .next s) ∧
    (∀ (dom : DomId) (a b : BitVec 12),
      (s.evr.clearing = none → ∃ t, exec (.evrClrGo dom a b) s = .next t ∧ t = { s with evr := t.evr } ∧
        t.evr.clearing = some none ∧ (∀ c, a.toNat ≤ c → c ≤ b.toNat → t.evrRec c = EvrRec.reset) ∧
        (∀ c, c < a.toNat ∨ b.toNat < c → t.evrRec c = s.evrRec c) ∧ t.evr.w7 = s.evr.w7 ∧
        Raised 4 0x001 (if b.toNat < a.toNat then 0 else b.toNat - a.toNat + 1) s t) ∧
      (s.evr.clearing ≠ none → exec (.evrClrGo dom a b) s = .next s)) ∧
    (s.mgmt.boot.state ≠ .lockout → exec .aosNorCopy s = .next { s with evr := { s.evr with aosNor := s.evr.aos } }) ∧
    (∀ c : Capture, s.pmc.capture = some c →
      (∀ i, c.mbx = some i → (s.mbx i).drop = false ∧ bit (s.mbx i).cfg 9 = false) →
      ∃ t, exec .pmcCaptureTc s = .next t ∧ Kept s t ∧ t.pmc.capture = none ∧ c.tc.toNat ≤ t.time.toNat ∧
        (∀ i, c.mbx = some i → Answered i 0 0 s t ∧ t.rsp i 8 8 = c.tc.toNat) ∧
        (c.mode = 0 → t.pmc.snapgen = s.pmc.snapgen + 1 ∧
          (∀ i j, i < 256 → (tget PmcCnt.reset (t.core i).pmc.cnts j).snap = (tget PmcCnt.reset (s.core i).pmc.cnts j).count) ∧
          ∀ i j, i < 5 → (tget PmcCnt.reset (tget PmcSet.reset t.pmc.sets i).cnts j).snap =
            (tget PmcCnt.reset (tget PmcSet.reset s.pmc.sets i).cnts j).count) ∧
        (c.mode ≠ 0 → (∀ i, i < 256 → (t.core i).pmc.frozen = decide (c.mode = 1)) ∧
          (∀ i, i < 5 → (tget PmcSet.reset t.pmc.sets i).frozen = decide (c.mode = 1)) ∧ t.pmc.frozen = decide (c.mode = 1))) ∧
    (s.pmc.capture = none → exec .pmcCaptureTc s = .next s) ∧
    (∀ (set : Fin 261) (i : Fin 64) (wt : BitVec 16), set.val < 256 → i.val < 16 →
      let k := s.core set.val
      let c := tget PmcCnt.reset k.pmc.cnts i.val
      let sum := c.count.toNat + wt.toNat
      let chained := decide (i.val < 15) && bit (tget PmcCnt.reset k.pmc.cnts (i.val + 1)).sel 20
      let at_ (t : State) (j : Nat) : PmcCnt := tget PmcCnt.reset (t.core set.val).pmc.cnts j
      ((k.pmc.frozen = true ∨ sum < 2 ^ 48) → exec (.pmcWrap set i wt) s = .next s) ∧
      (k.pmc.frozen = false → 2 ^ 48 ≤ sum →
        (chained = false → bit c.sel 21 = true → ∃ t, exec (.pmcWrap set i wt) s = .next t ∧ OnlyCore set.val s t ∧
          at_ t i.val = { c with count := c.reload } ∧ bit (t.core set.val).int.ipend 8 = true ∧ ∀ j, j ≠ i.val → at_ t j = at_ s j) ∧
        (chained = false → bit c.sel 21 = false → ∃ t, exec (.pmcWrap set i wt) s = .next t ∧ OnlyCore set.val s t ∧
          at_ t i.val = { c with count := BitVec.ofNat 48 sum, sel := setBit c.sel 22 true } ∧
          bit (t.core set.val).int.ipend 9 = true ∧ ∀ j, j ≠ i.val → at_ t j = at_ s j) ∧
        (chained = true → (at_ s (i.val + 1)).count.toNat + 1 < 2 ^ 48 → ∃ t, exec (.pmcWrap set i wt) s = .next t ∧
          OnlyCore set.val s t ∧ (at_ t i.val).count = BitVec.ofNat 48 sum ∧ (at_ t (i.val + 1)).count = (at_ s (i.val + 1)).count + 1 ∧
          ∀ j, j ≠ i.val → j ≠ i.val + 1 → at_ t j = at_ s j))) ∧
    (∀ (set : Fin 261) (i : Fin 64) (wt : BitVec 16), 256 ≤ set.val →
      let st := tget PmcSet.reset s.pmc.sets (set.val - 256)
      let c := tget PmcCnt.reset st.cnts i.val
      let sum := c.count.toNat + wt.toNat
      st.frozen = false → 2 ^ 48 ≤ sum → (i.val = 63 ∨ bit (tget PmcCnt.reset st.cnts (i.val + 1)).sel 18 = false) →
        ∃ t, exec (.pmcWrap set i wt) s = .next t ∧ Kept s t ∧
          tget PmcCnt.reset (tget PmcSet.reset t.pmc.sets (set.val - 256)).cnts i.val =
            { c with count := BitVec.ofNat 48 sum, sel := setBit c.sel 19 true } ∧
          (bit c.sel 28 = true → bit (t.core (fld c.sel 27 20)).int.ipend 9 = true) ∧ (bit c.sel 28 = false → t.cores = s.cores)) ∧
    (∀ mon : Fin 65,
      let y := s.mon mon.val
      ∃ t, exec (.bwWindowEnd mon) s = .next t ∧ t = { s with pmc := t.pmc, freeCtr := t.freeCtr } ∧
        (∀ j, j ≠ mon.val → t.mon j = s.mon j) ∧
        let z := t.mon mon.val
        z.valid = true ∧ z.last0 = y.cur0 ∧ z.last1 = y.cur1 ∧ z.min0.toNat = min y.min0.toNat y.cur0.toNat ∧
        z.max0.toNat = max y.max0.toNat y.cur0.toNat ∧ z.min1.toNat = min y.min1.toNat y.cur1.toNat ∧
        z.max1.toNat = max y.max1.toNat y.cur1.toNat ∧ z.cur0 = 0 ∧ z.cur1 = 0 ∧
        (y.windows.toNat < 2 ^ 32 - 1 → z.windows = y.windows + 1))

/-! ### Chapter 18: the granary -/

/-- A key id is fresh, bound to a domain, and erased with every object under it. An object takes capacity under its domain's key
and a hull over it is granted only under that key. A delete removes the id at once. A block refresh only counts. A transfer is
accepted under its hull and the limits with a number, moves a page at a time between memory and the object's images, stops at a
page that fails, and signals when done. A commit waits for earlier writes, then makes the open image the committed one. The
model's choices: log entries 74, 75, 76. -/
def Obligations.GranaryObjectsAndTransfers : Prop :=
  (
    ∀ (m : Fin 320) (s : State) (d : Nat),
      let n := m.val
      let x := s.mbx n
      let g := s.mgmt.grn
      let ok (t : State) : Prop := SameStrands s t ∧ Answered n 0 0 s t
      g.ready = true →
      (Holds s n 0x0601 [(16, 24)] → n = 0 → g.keys.length < 65535 → ∃ t k, exec (.grnKeyCreate m) s = .next t ∧ Kept s t ∧ Answered n 0 0 s t ∧
        1 ≤ k ∧ k ≤ 65535 ∧ tget none g.keys k = none ∧ tget none t.mgmt.grn.keys k = some (x.at 16 8) ∧ t.rsp n 8 2 = k ∧
        ∀ j, j ≠ k → tget none t.mgmt.grn.keys j = tget none g.keys j) ∧
      (Holds s n 0x0602 [(8, 12)] → n = 0 → ActsFor s n 8 d → (x.at 10 2 = 0 ∨ tget none g.keys (x.at 10 2) ≠ none) →
        ((∀ z, z ∈ g.xfers → z.dom ≠ d) → ∃ t, exec (.grnKeyBind m) s = .next t ∧ Kept s t ∧ Answered n 0 0 s t ∧
          tget 0 t.mgmt.grn.binds d = x.at 10 2 ∧ ∀ e, e ≠ d → tget 0 t.mgmt.grn.binds e = tget 0 g.binds e) ∧
        ((∃ z, z ∈ g.xfers ∧ z.dom = d) → ∃ t, exec (.grnKeyBind m) s = .next t ∧ Kept s t ∧ Answered n 5 0 s t)) ∧
      (let k := x.at 8 2;
        Holds s n 0x0603 [(8, 10)] → n = 0 → k ≠ 0 → tget none g.keys k ≠ none → ∃ t, exec (.grnKeyErase m) s = .next t ∧ Kept s t ∧
          Answered n 0 0 s t ∧ t.rsp n 8 4 = (g.objs.filter fun e => decide (e.2.key = k)).length % 2 ^ 32 ∧
          tget none t.mgmt.grn.keys k = none ∧ (∀ o, (s.obj o).key = k → t.obj o = GrnObj.none) ∧
          (∀ o, (∀ e, e ∈ g.objs → e.1 = o → e.2.key ≠ k) → t.obj o = s.obj o) ∧
          (∀ e, tget 0 t.mgmt.grn.binds e = if tget 0 g.binds e = k then 0 else tget 0 g.binds e) ∧
          (∀ z, z ∈ t.mgmt.grn.xfers → z ∈ g.xfers ∧ (s.obj z.obj).key ≠ k) ∧ (g.xfers = [] → Raised 4 0x407 0 s t)) ∧
      (let k := tget 0 g.binds d
        let kind := x.at 10 1
        let cap := x.at 16 8
        Holds s n 0x0604 [(8, 11), (16, 32)] → ActsFor s n 8 d → 1 ≤ kind → kind ≤ 4 → (n ≠ 0 → kind ≤ 2) → cap % 4096 = 0 →
        4096 ≤ cap → cap ≤ 2 ^ 42 →
        (k ≠ 0 → g.createFail k cap = false → g.usedIds.length < 0xFFFFFFFE → ∀ pa : Nat, (kind ≠ 4 → HullWord s d (x.at 24 8) pa) →
          ∃ t o, exec (.grnCreate m) s = .next t ∧ ok t ∧ 1 ≤ o ∧ o ≤ 0xFFFFFFFE ∧ o ∉ g.usedIds ∧ t.rsp n 8 4 = o ∧
            t.obj o = { GrnObj.none with kind := kind, key := k, cap := cap } ∧ (∀ j, j ≠ o → t.obj j = s.obj j) ∧
            o ∈ t.mgmt.grn.usedIds ∧ (kind = 4 → t.mem = s.mem) ∧
            (kind ≠ 4 → PlacesHull pa (grnHull d o 7) s t ∧ grnHull d o 7 ∈ (t.dom d).rights)) ∧
        (k ≠ 0 → g.createFail k cap = true → ∃ t, exec (.grnCreate m) s = .next t ∧ Kept s t ∧ Answered n 4 0 s t) ∧
        (k = 0 → ∃ t, exec (.grnCreate m) s = .next t ∧ Kept s t ∧ Answered n 5 0 s t)) ∧
      (let o := x.at 12 4;
        Holds s n 0x0605 [(8, 11), (12, 16), (24, 32)] → n = 0 → ActsFor s n 8 d → x.at 10 1 ≤ 7 → s.objThere o = true → (s.obj o).kind < 4 →
        (∀ pa : Nat, tget 0 g.binds d ≠ 0 → tget 0 g.binds d = (s.obj o).key → HullWord s d (x.at 24 8) pa →
          ∃ t, exec (.grnGrant m) s = .next t ∧ ok t ∧ PlacesHull pa (grnHull d o (x.at 10 1)) s t ∧
            grnHull d o (x.at 10 1) ∈ (t.dom d).rights ∧ t.mgmt.grn = g) ∧
        ((tget 0 g.binds d = 0 ∨ tget 0 g.binds d ≠ (s.obj o).key) →
          ∃ t, exec (.grnGrant m) s = .next t ∧ Kept s t ∧ Answered n 6 522 s t)) ∧
      (let o := x.at 12 4;
        Holds s n 0x0609 [(8, 10), (12, 16), (40, 48)] → ActsFor s n 8 d → s.grnAuth n d (x.at 40 8) o 4 = none → s.objThere o = true →
        ((∀ e, e ∈ s.doms → e.2.backing = o → e.2.state = 0) →
          ∃ t, exec (.grnDelete m) s = .next t ∧ Kept s t ∧ Answered n 0 0 s t ∧ t.obj o = GrnObj.none ∧ (∀ j, j ≠ o → t.obj j = s.obj j) ∧
            t.mgmt.grn.usedIds = g.usedIds ∧ (∀ z, z ∈ t.mgmt.grn.xfers → z.obj = o → z.write = false) ∧
            ((∀ z, z ∈ g.xfers → z.obj = o → z.write = false) → t.mgmt.grn.xfers = g.xfers ∧
              ((∃ z, z ∈ g.xfers ∧ z.obj = o) → (o, (s.obj o).cap, (s.obj o).key) ∈ t.mgmt.grn.dying))) ∧
        ((∃ e, e ∈ s.doms ∧ e.2.backing = o ∧ e.2.state ≠ 0) →
          ∃ t, exec (.grnDelete m) s = .next t ∧ Kept s t ∧ Answered n 6 540 s t)) ∧
      (∀ (chan : Fin 32) (env : RefreshEnv), ∃ t, exec (.grnBlockRefresh chan env) s = .next t ∧ Kept s t ∧
        t.mgmt.grn.objs = g.objs ∧ t.mgmt.grn.xfers = g.xfers ∧ t.mgmt.grn.refresh = satInc g.refresh 1 ∧
        t.mgmt.grn.corrhi = (if env.corrected then satInc g.corrhi 1 else g.corrhi) ∧
        t.mgmt.grn.grownbad = (if env.retired then satInc g.grownbad 1 else g.grownbad) ∧
        t.mgmt.grn.avgpe.toNat = max g.avgpe.toNat env.avgpe.toNat ∧ t.mgmt.grn.spare.toNat = min g.spare.toNat env.spare.toNat ∧
        (env.retired = false → Raised 4 0x403 chan.val s t))) ∧
  (
    ∀ (m : Fin 320) (s : State) (d : Nat),
      let n := m.val
      let x := s.mbx n
      let g := s.mgmt.grn
      let o := x.at 12 4
      let y := s.obj o
      let hulled (mask : Nat) : Prop := s.grnAuth n d (x.at 40 8) o mask = none
      (∀ wr : Bool,
        let i : Instr := if wr then .grnWrite m else .grnRead m
        let fl := x.at 10 1
        let off := x.at 16 8
        let len := x.at 24 8
        let a := x.at 32 8
        g.ready = true → Holds s n (if wr then 0x0607 else 0x0606) [(8, 56)] → ActsFor s n 8 d → fl ≤ 3 →
        (fl.testBit 1 = true → n = 0 ∧ x.at 11 1 ≤ 15) → (fl.testBit 1 = false → x.at 11 1 = 0 ∧ a % 4096 = 0 ∧ a + len ≤ 2 ^ 57) →
        (fl.testBit 0 = true → badSignal (BitVec.ofNat 64 (x.at 48 8)) = false) → off % 4096 = 0 → len % 4096 = 0 → 4096 ≤ len → len ≤ 2 ^ 42 →
        hulled (if wr then 2 else 1) → s.objThere o = true → off + len ≤ y.cap → (wr = true → g.holdup = true ∧ g.readonly = false) →
        ((g.xfers.filter fun z => decide (z.dom = d)).length < 8 → g.xfers.length < 64 →
          ∃ t z, exec i s = .next t ∧ Kept s t ∧ Answered n 0 0 s t ∧ t.mgmt.grn.xfers = g.xfers ++ [z] ∧ t.rsp n 8 4 = z.num.toNat ∧
            z.dom = d ∧ z.write = wr ∧ z.win = (if fl.testBit 1 then some (x.at 11 1) else none) ∧ z.obj = o ∧ z.off = off ∧ z.len = len ∧
            z.addr = a ∧ z.sig = (if fl.testBit 0 then some (BitVec.ofNat 64 (x.at 48 8)) else none) ∧ z.moved = 0 ∧ z.status = none ∧
            (wr = false → z.clen = y.clen ∧ z.src = y.data) ∧ t.mgmt.grn.objs = g.objs) ∧
        ((8 ≤ (g.xfers.filter fun z => decide (z.dom = d)).length ∨ 64 ≤ g.xfers.length) →
          ∃ t, exec i s = .next t ∧ Kept s t ∧ Answered n 4 0 s t ∧ t.mgmt.grn.xfers = g.xfers)) ∧
      (∀ (num : BitVec 32) (z : GrnXfer), s.xfer num = some z → z.status = none →
        let k := min (z.len - z.moved) (65536 - (z.addr + z.moved) % 65536)
        (z.moved < z.len → z.win = none →
          (∀ (pa : Nat) (l : BitVec 64), z.write = false → (s.obj z.obj).paged = [] → xferBad z k .ok = none → Quiet s →
            s.translate z.dom (z.addr + z.moved) .write = .ok pa l → bit l 5 = false → s.padWaits pa = false →
            ∃ t, exec (.grnTransfer num .ok []) s = .next t ∧ SameStrands s t ∧ t.xfer num = some { z with moved := z.moved + k } ∧
              Stored s.mem t.mem pa ((List.range k).map fun i =>
                if z.clen ≤ z.off + z.moved + i then 0 else tget 0 z.src (z.off + z.moved + i)) ∧ t.mgmt.grn.objs = g.objs) ∧
          (∀ (pa : Nat) (l : BitVec 64), z.write = true → s.writeBlocked z = false → Quiet s → s.objThere z.obj = true →
            s.translate z.dom (z.addr + z.moved) .read = .ok pa l → bit l 5 = false → s.padWaits pa = false →
            ∃ t, exec (.grnTransfer num .ok []) s = .next t ∧ SameStrands s t ∧ t.mem = s.mem ∧
              t.xfer num = some { z with moved := z.moved + k } ∧ (t.obj z.obj).data = (s.obj z.obj).data ∧
              (∀ i, i < k → tget 0 (t.obj z.obj).opened (z.off + z.moved + i) = tget memDefault s.mem (pa + i)) ∧
              (∀ i, i < z.off + z.moved ∨ z.off + z.moved + k ≤ i → tget 0 (t.obj z.obj).opened i = tget 0 (s.obj z.obj).opened i) ∧
              (t.obj z.obj).written = (s.obj z.obj).written + k ∧ t.mgmt.grn.written = g.written + k) ∧
          (∀ c l : Nat, z.write = true → s.writeBlocked z = false → s.translate z.dom (z.addr + z.moved) .read = .fault c l → c ≠ 0x14 →
            ∃ t, exec (.grnTransfer num .ok []) s = .next t ∧ Kept s t ∧ t.xfer num = some { z with status := some c } ∧ t.mgmt.grn.objs = g.objs) ∧
          (∀ (pa : Nat) (l : BitVec 64) (ch : Fin 32) (u : Nat), z.write = false →
            s.translate z.dom (z.addr + z.moved) .write = .ok pa l → bit l 5 = false → s.padWaits pa = false → u ∈ unitsOf (z.off + z.moved) k →
            ∃ t, exec (.grnTransfer num (.flash ch u) []) s = .next t ∧ Kept s t ∧ t.xfer num = some { z with status := some 0x14 } ∧
              t.mgmt.grn.uncorr = satInc g.uncorr 1 ∧ Raised 4 0x404 ch.val s t)) ∧
        (∀ w : Nat, z.moved < z.len → z.win = some w →
          let q := min (z.len - z.moved) 65536
          let v := tget HostWin.none (s.dom z.dom).wins w
          (z.write = false → s.pcieStands = false → z.addr + z.moved + q ≤ v.len → v.wr = true → xferBad z q .ok = none →
            ∃ t, exec (.grnTransfer num .ok []) s = .next t ∧ Kept s t ∧ t.xfer num = some { z with moved := z.moved + q }) ∧
          (∀ b : List Byte, z.write = true → s.pcieStands = false → s.writeBlocked z = false → s.objThere z.obj = true → z.addr + z.moved + q ≤ v.len → v.rd = true →
            b.length = q → ∃ t, exec (.grnTransfer num (.hostData b) []) s = .next t ∧ Kept s t ∧
              t.xfer num = some { z with moved := z.moved + q } ∧
              ∀ i, i < q → tget 0 (t.obj z.obj).opened (z.off + z.moved + i) = b.getD i 0) ∧
          (z.write = false → v.len < z.addr + z.moved + q ∨ v.wr = false →
            ∃ t, exec (.grnTransfer num .ok []) s = .next t ∧ Kept s t ∧ t.xfer num = some { z with status := some 0x40 })) ∧
        (z.len ≤ z.moved → (∀ (env : GrnEnv) (e : ErrMap), exec (.grnTransfer num env e) s = .next s) ∧
          ∃ t, exec (.grnTransferDone num) s = .next t ∧ Kept s t ∧ t.xfer num = none ∧ t.mgmt.grn.objs = g.objs ∧
            (∀ v, v ∈ g.xfers → v.num ≠ num → v ∈ t.mgmt.grn.xfers) ∧ (z.sig = none → t.sync = s.sync) ∧
            ∀ w, z.sig = some w → fld w 1 0 = 1 → QuietCounter s z.dom (fld w 23 8) →
              NewValue (s.objWord z.dom (fld w 23 8)) (fld (s.objWord z.dom (fld w 23 8)) 31 0 + fld w 47 32) (t.objWord z.dom (fld w 23 8))) ∧
        (z.moved < z.len → exec (.grnTransferDone num) s = .next s)) ∧
      (let done (t : State) : Prop := Kept s t ∧ Answered n 0 0 s t ∧ (t.obj o).gen = y.gen + 1 ∧ t.rsp n 8 8 = (y.gen + 1).toNat ∧
          (t.obj o).clen = x.at 16 8 ∧ (t.obj o).ctime = s.timeOf 4 ∧ (t.obj o).written = 0 ∧ (t.obj o).kind = y.kind ∧ (t.obj o).cap = y.cap ∧
          (∀ i, tget 0 (t.obj o).data i = if i < x.at 16 8 then tget 0 y.opened i else 0) ∧ (t.obj o).opened = (t.obj o).data ∧
          (∀ j, j ≠ o → t.obj j = s.obj j) ∧ (n = 0 → x.at 16 8 < 2 ^ 32 → Raised 4 0x400 (x.at 16 8) s t);
        s.objThere o = true →
        (g.ready = true → Holds s n 0x0608 [(8, 10), (12, 24), (40, 48)] → ActsFor s n 8 d → hulled 2 → x.at 16 8 ≤ y.cap → g.holdup = true →
          g.readonly = false →
          ((∀ z, z ∈ g.xfers → z.write = true → z.obj ≠ o) → ∃ t, exec (.grnCommit m) s = .next t ∧ done t) ∧
          ((∃ z, z ∈ g.xfers ∧ z.write = true ∧ z.obj = o) → ∃ t, exec (.grnCommit m) s = .next t ∧ Kept s t ∧ (t.mbx n).busy = true ∧
            (t.mbx n).stage = 1 ∧ t.mgmt.grn = g ∧ ∀ z, z ∈ g.xfers → z.write = true → z.obj = o → z.num.toNat ∈ (t.mbx n).arg)) ∧
        (x.busy = true → x.stage = 1 → x.opcode = 0x0608 → x.drop = false →
          ((∃ z, z ∈ g.xfers ∧ z.num.toNat ∈ x.arg) → exec (.grnCommit m) s = .next s) ∧
          ((∀ z, z ∈ g.xfers → z.num.toNat ∉ x.arg) → ∃ t, exec (.grnCommit m) s = .next t ∧ done t))))

/-! ### Chapters 19 and 20: resets, boot and the input supply -/

/-- A reset pin, the watchdog, a lockstep mismatch, a trial that times out, a recovery image, a power loss, a lockout, a thermal
trip and a cold power-on all leave the module reset, each with its cause or state; causes 4, 5 and losses leave an entry in the
always-on store. A boot runs the image that passes: a trial's first, else the later version; with none it enters recovery. It
waits for V_IN and for a hot sensor, and stops where Luami stalls. The model's choices: log entries 50, 71, 85, 91. -/
def Obligations.ResetsAndBoots : Prop :=
  (
    ∀ s : State,
      let b := s.mgmt.boot
      let on := b.state = .running ∨ b.state = .waitCool ∨ b.state = .stalled
      let dark := b.state = .lockout ∨ b.state = .heldOff
      (b.state ≠ .lockout →
        (∃ t, exec .perstNAssert s = .next t ∧ AfterReset 1 .held s t ∧ t.mgmt.boot.perst = true ∧ t.evr.aos = s.evr.aos) ∧
        (∃ t, exec .modRstNAssert s = .next t ∧ AfterReset 2 .held s t ∧ t.mgmt.boot.modrst = true ∧ t.evr.aos = s.evr.aos) ∧
        (∀ ms : BitVec 8, ∃ t, exec (.powerLoss ms) s = .next t ∧ AfterReset b.cause.toNat .heldOff s t ∧ t.alert = true ∧
          t.mgmt.boot.lowVin = true ∧ (bit s.mgmt.pwr.causes 4 = false → LastAos 0x14E 79 s t) ∧
          (s.mgmt.grn.ready = true → t.mgmt.grn.heldMs = ms.toNat)) ∧
        (∃ t, exec .inputLockout s = .next t ∧ AfterReset b.cause.toNat .lockout s t ∧ t.evr.aos = s.evr.aosNor ∧ t.mgmt.jtag = 0x01 ∧
          t.mgmt.side = Sideband.reset)) ∧
      (b.state = .lockout →
        (∃ t, exec .perstNAssert s = .next t ∧ t = { s with mgmt := { s.mgmt with boot := { b with perst := true } } }) ∧
        (∃ t, exec .modRstNAssert s = .next t ∧ t = { s with mgmt := { s.mgmt with boot := { b with modrst := true } } }) ∧
        (∀ ms : BitVec 8, exec (.powerLoss ms) s = .next s) ∧ exec .inputLockout s = .next s) ∧
      (on → (∃ t, exec .watchdogExpiry s = .next t ∧ AfterReset 4 .held s t ∧ LastAos 0x185 0 s t) ∧
        ∃ t, exec .lockstepMismatch s = .next t ∧ AfterReset 5 .held s t ∧ LastAos 0x185 1 s t) ∧
      (¬on → exec .watchdogExpiry s = .next s ∧ exec .lockstepMismatch s = .next s) ∧
      (b.trial = true → ∃ t, exec .trialTimeout s = .next t ∧ AfterReset 7 .held s t ∧ t.mgmt.boot.trial = false ∧
        t.mgmt.boot.skip = some b.slot ∧ (t.mgmt.boot.slotOf b.slot).owed = false) ∧
      (b.trial = false → exec .trialTimeout s = .next s) ∧
      (∀ img : FwImage,
        let fit := b.state = .recovery ∧ img.formed = true ∧ img.signed = true ∧ b.roll.toNat ≤ img.rollIdx.toNat
        (fit → ∃ t cause, exec (.recoveryImage img) s = .next t ∧ AfterReset cause .held s t ∧ t.mgmt.boot.a.img = img) ∧
        (¬fit → exec (.recoveryImage img) s = .next s)) ∧
      (∀ k : Fin 324,
        (¬dark → ∃ t, exec (.thermalTrip k) s = .next t ∧ AfterReset b.cause.toNat .heldOff s t ∧ t.alert = true ∧ LastAos 0x14E k.val s t) ∧
        (dark → exec (.thermalTrip k) s = .next s)) ∧
      (b.state = .lockout → s.mgmt.opened = false → ∃ t, exec .coldPowerOn s = .next t ∧ AfterReset 0 .held s t ∧
        t.evr.aos = s.evr.aosNor ∧ t.mgmt.boot.lowVin = false ∧ t.mgmt.jtag = 0x01 ∧ t.mgmt.side = Sideband.reset) ∧
      (b.state ≠ .lockout ∨ s.mgmt.opened = true → exec .coldPowerOn s = .next s) ∧
      exec .inputSwitchOpen s = .next { s with mgmt := { s.mgmt with opened := true } } ∧
      exec .inputSwitchClose s = .next { s with mgmt := { s.mgmt with opened := false } }) ∧
  (
    ∀ (env : BootEnv) (s : State),
      let b := s.mgmt.boot
      let bad (x : Bool) : Prop := b.may x → (b.slotOf x).img.signed = false
      let good (x : Bool) : Prop := b.may x ∧ (b.slotOf x).img.signed = true
      let late := b.a.img.version.toNat < b.b.img.version.toNat
      let plain := b.a.owed = false ∧ b.b.owed = false ∧ b.skip = none
      (b.state = .held → b.due = none → b.lowVin = false →
        (bad false → bad true → ∃ t, exec (.boot env) s = .next t ∧ Kept s t ∧ t.mgmt.boot.state = .recovery ∧ t.mgmt.boot.perst = false ∧
          t.mgmt.boot.modrst = false ∧ t.mgmt.boot.bootn = b.bootn + 1) ∧
        (∀ x : Bool, good x → (∀ y, y ≠ x → bad y) ∨ (plain ∧ (x = true ↔ late)) ∨ ((b.slotOf x).owed = true ∧ (b.slotOf !x).owed = false) →
          (env.hot = false → env.stall = none → ∃ t, exec (.boot env) s = .next t ∧ Booted x env s t ∧ t.mgmt.boot.trial = false ∧
            t.mgmt.boot.perst = false ∧ t.mgmt.boot.modrst = false ∧
            ((b.slotOf x).owed = true → (b.slotOf !x).owed = false → (t.mgmt.boot.slotOf x).owed = false ∧
              t.mgmt.boot.roll.toNat = max b.roll.toNat (b.slotOf x).img.rollIdx.toNat) ∧
            (b.a.owed = false → b.b.owed = false → t.mgmt.boot.roll = b.roll)) ∧
          (env.hot = true → ∃ t, exec (.boot env) s = .next t ∧ Kept s t ∧ t.mgmt.boot.state = .waitCool ∧ t.mgmt.boot.phase = 4 ∧
            t.alert = true ∧ t.mgmt.boot.slot = x) ∧
          (∀ k, env.hot = false → env.stall = some k → ∃ t, exec (.boot env) s = .next t ∧ Kept s t ∧ t.mgmt.boot.state = .stalled ∧
            t.mgmt.boot.phase = BitVec.ofNat 4 k.val ∧ t.mgmt.boot.slot = x))) ∧
      (b.state = .held → b.due = none → b.lowVin = true → ∃ t, exec (.boot env) s = .next t ∧ Kept s t ∧ t.mgmt.boot =
        { b with perst := false, modrst := false, waitVin := true }) ∧
      (b.state ≠ .held → b.due = none → exec (.boot env) s = .next s) ∧
      (let u : State := { s with mgmt := { s.mgmt with boot := { b with lowVin := false } } };
        (b.state = .held → b.waitVin = true → b.due = none → exec (.vinReaches40v env) s = exec (.boot env) u) ∧
        (b.state ≠ .held ∨ b.waitVin = false → b.state ≠ .lockout → exec (.vinReaches40v env) s = .next u) ∧
        (b.state = .lockout → exec (.vinReaches40v env) s = .next s)) ∧
      (b.state = .waitCool → env.hot = false → env.stall = none → ∃ t, exec (.tripSensorClear env) s = .next t ∧
        t.mgmt.boot.state = .running ∧ t.mgmt.boot.done = true ∧ t.mgmt.boot.slot = b.slot ∧ t.mgmt.grn.ready = true ∧ t.mem = [] ∧
        bit t.mgmt.pwr.causes 0 = false) ∧
      (b.state ≠ .waitCool ∨ env.hot = true → exec (.tripSensorClear env) s = .next s))

/-- The runtime is loaded into a domain, an image that verifies is staged and activated in the slot that is not running, and the
life cycle moves by the allowed transitions only, destroying every key and object and every domain, and asking for a reset. The
model's choices: log entries 71, 92. -/
def Obligations.FirmwareAndLifeCycleCommandsTakeEffect : Prop :=
  ∀ (m : Fin 320) (s : State) (d : Nat),
    let n := m.val
    let x := s.mbx n
    let b := s.mgmt.boot
    let l := s.mgmt.lc
    let ok (t : State) : Prop := Kept s t ∧ Answered n 0 0 s t
    (∀ pas : List Nat,
      let img := b.runtime.bytes
      let at_ (i : Nat) : Nat := pas.getD (i / 65536) 0 + i % 65536
      Holds s n 0x0703 [(8, 10), (16, 32)] → ActsFor s n 8 d → x.at 16 8 % 65536 = 0 → x.at 16 8 < 2 ^ 57 →
      (img.length ≤ x.at 24 8 → s.loadPages d (x.at 16 8) ((img.length + 65535) / 65536) = .ok pas → Quiet s →
        pas.Pairwise (fun p q => p + 65536 ≤ q ∨ q + 65536 ≤ p) →
        ∃ t, exec (.runtimeLoad m) s = .next t ∧ SameStrands s t ∧ Answered n 0 0 s t ∧ t.rsp n 8 8 = img.length % 2 ^ 64 ∧
          t.rsp n 16 4 = b.runtime.version.toNat ∧ (∀ i, i < img.length → tget memDefault t.mem (at_ i) = img.getD i 0) ∧
          ∀ a, (∀ i, i < img.length → at_ i ≠ a) → tget memDefault t.mem a = tget memDefault s.mem a) ∧
      (x.at 24 8 < img.length → ∃ t, exec (.runtimeLoad m) s = .next t ∧ Kept s t ∧ Answered n 4 0 s t)) ∧
    (∀ img : Option FwImage,
      let c := x.at 8 1
      let len := x.at 24 8
      let w := tget HostWin.none (s.dom (x.at 10 2)).wins (x.at 12 1)
      Holds s n 0x0704 [(8, 9), (10, 13), (16, 32)] → n = 0 → ActsFor s n 10 (x.at 10 2) → c ≤ 1 → x.at 12 1 ≤ 15 → len ≤ 64 * 2 ^ 20 →
      (w.len < x.at 16 8 + len ∨ w.rd = false → ∃ t, exec (.fwStage m img) s = .next t ∧ Kept s t ∧ Answered n 6 311 s t) ∧
      (x.at 16 8 + len ≤ w.len → w.rd = true → s.mgmt.grn.ready = true →
        (∀ i, img = some i → s.pcieStands = false → i.bytes.length = len → i.formed = true → i.signed = true → b.roll.toNat ≤ i.rollIdx.toNat →
          (s.putStaged c len i).isSome = true → ∃ t, exec (.fwStage m img) s = .next t ∧ ok t ∧ t.rsp n 8 4 = i.version.toNat ∧
            t.rsp n 12 2 = i.rollIdx.toNat ∧ t.stagedImage c = some i ∧ t.mgmt.boot.a = b.a ∧ t.mgmt.boot.b = b.b) ∧
        (∀ i, img = some i → s.pcieStands = false → i.bytes.length = len → (i.formed = false ∨ i.signed = false ∨ i.rollIdx.toNat < b.roll.toNat) →
          ∃ t, exec (.fwStage m img) s = .next t ∧ Kept s t ∧ Answered n 6 560 s t ∧ t.mgmt.boot = b) ∧
        (img = none ∨ s.pcieStands = true → ∃ t, exec (.fwStage m img) s = .next t ∧ Kept s t ∧ Answered n 8 0 s t ∧ t.mgmt.boot = b))) ∧
    (let c := x.at 8 1;
      Holds s n 0x0705 [(8, 9)] → n = 0 → c ≤ 1 →
      (∀ i, s.stagedImage c = some i → ∃ t, exec (.fwActivate m) s = .next t ∧ ok t ∧ Raised 4 0x504 c s t ∧
        (c = 0 → t.mgmt.boot.slotOf (!b.slot) = ⟨i, true, true⟩ ∧ t.mgmt.boot.slotOf b.slot = b.slotOf b.slot ∧
          t.mgmt.boot.runtime = b.runtime) ∧
        (c = 1 → t.mgmt.boot = { b with runtime := i })) ∧
      (s.stagedImage c = none → ∃ t, exec (.fwActivate m) s = .next t ∧ Kept s t ∧ Answered n 5 8 s t ∧ t.mgmt.boot = b)) ∧
    (Holds s n 0x0706 [] → n = 0 → ∃ t v, exec (.lcChallenge m) s = .next t ∧ ok t ∧ v.length = 32 ∧ t.mgmt.lc.nonce = some v ∧
      t.mgmt.lc.token = [] ∧ t.mgmt.lc.state = l.state ∧ bytesAt (t.mbx n).rsp 8 32 = v) ∧
    (Holds s n 0x0707 [(8, 9), (16, 64)] → n = 0 → x.at 8 1 ≤ 1 →
      (l.nonce ≠ none → ∃ t, exec (.lcToken m) s = .next t ∧ ok t ∧ tget [] t.mgmt.lc.token (x.at 8 1) = bytesAt x.cap 16 48 ∧
        tget [] t.mgmt.lc.token (1 - x.at 8 1) = tget [] l.token (1 - x.at 8 1) ∧ t.mgmt.lc.nonce = l.nonce) ∧
      (l.nonce = none → ∃ t, exec (.lcToken m) s = .next t ∧ Kept s t ∧ Answered n 5 0 s t ∧ t.mgmt.lc = l)) ∧
    (let g := x.at 8 1
      let allowed := (l.state = 0 ∧ g = 1 ∧ l.tokenOk 1 = true) ∨ (l.state = 1 ∧ g = 2 ∧ l.modid ≠ none) ∨ (l.state = 2 ∧ g = 1) ∨
        (l.state = 2 ∧ g = 3 ∧ l.tokenOk 3 = true) ∨ (l.state = 3 ∧ g = 2) ∨ g = 4
      Holds s n 0x0708 [(8, 9)] → n = 0 → g ≤ 4 → l.state.toNat ≤ 4 →
      (allowed → ∃ t, exec (.lcTransition m) s = .next t ∧ Answered n 0 0 s t ∧ t.mgmt.lc.state.toNat = g ∧ t.mgmt.lc.trans = true ∧
        t.mgmt.lc.left = some l.state ∧ t.mgmt.lc.token = [] ∧ t.mgmt.boot.due = some 6 ∧ t.pmc.avail = false ∧
        (∀ e, s.live e = true → t.live e = false) ∧ (∀ k, tget none t.mgmt.grn.keys k = none) ∧ (∀ o, t.obj o = GrnObj.none) ∧
        (g = 4 → t.evr.aos = [])) ∧
      (¬allowed → ∃ t, exec (.lcTransition m) s = .next t ∧ Kept s t ∧ Answered n 6 557 s t ∧ t.mgmt.lc = l)) ∧
    (Holds s n 0x0709 [(8, 10)] → n = 0 → x.at 8 2 ≤ 4095 →
      (l.state = 1 → ∃ t, exec (.lcProvision m) s = .next t ∧ ok t ∧ t.mgmt.lc = { l with modid := some (BitVec.ofNat 12 (x.at 8 2)) } ∧
        t.moduleId = s.moduleId) ∧
      (l.state ≠ 1 → ∃ t, exec (.lcProvision m) s = .next t ∧ Kept s t ∧ Answered n 5 0 s t ∧ t.mgmt.lc = l))

/-! ### Chapters 16, 19 and 20: the host's BARs, the side-band endpoints and the TAP -/

/-- Through its window a function reads and writes its domain's memory; an access that fails reads zero or is discarded and is
recorded, as is one to a hole of BAR0. A function-level reset removes what the function holds but its domain. The model's
choices: log entry 47. -/
def Obligations.HostAccessesReachTheWindow : Prop :=
  ∀ (f : Fin 64) (s : State),
    let x := s.func f.val
    let lost (n : Nat) (t : State) : Prop := Kept s t ∧ Raised 4 0x183 f.val s t ∧ (t.func f.val).rdata = List.replicate n 0
    let drop (t : State) : Prop := Kept s t ∧ Raised 4 0x183 f.val s t ∧ t.mgmt = s.mgmt
    (s.hostUp = true →
      (∀ (base off n pa : Nat) (l : W64), x.win = some base → x.dom ≠ 0 →
        s.trRange x.dom (base + off) n .read = .ok [(pa, n, l)] → isMemory pa = true → PlainWrite s pa n →
        ∃ t, exec (.bar2Access f (.read off n) []) s = .next t ∧ Kept s t ∧ (t.func f.val).rdata = memBytes s.mem pa n ∧
          ∀ g, g ≠ f.val → t.func g = s.func g) ∧
      (∀ (base off pa : Nat) (b : List Byte) (l : W64), x.win = some base → x.dom ≠ 0 →
        s.trRange x.dom (base + off) b.length .write = .ok [(pa, b.length, l)] → isMemory pa = true → PlainWrite s pa b.length →
        ∃ t, exec (.bar2Access f (.write off b) []) s = .next t ∧ SameStrands s t ∧ Stored s.mem t.mem pa b ∧ t.func f.val = x) ∧
      (∀ (off n : Nat) (e : ErrMap), (x.win = none ∨ x.dom = 0 ∨ ∃ base c lv a, x.win = some base ∧
          s.trRange x.dom (base + off) n .read = .fault c lv a) →
        ∃ t, exec (.bar2Access f (.read off n) e) s = .next t ∧ lost n t) ∧
      (∀ (off : Nat) (b : List Byte) (e : ErrMap), (x.win = none ∨ x.dom = 0 ∨ ∃ base c lv a, x.win = some base ∧
          s.trRange x.dom (base + off) b.length .write = .fault c lv a) →
        ∃ t, exec (.bar2Access f (.write off b) e) s = .next t ∧ drop t) ∧
      (∀ (off : BitVec 26) (w : Option (BitVec 64)), off.toNat < (if f.val = 0 then 2 ^ 26 else 2 ^ 16) →
        let hole := ¬(off.toNat < 0x90) ∧ ¬(0x7000 ≤ off.toNat ∧ off.toNat < 0x7100) ∧ ¬(0x8000 ≤ off.toNat ∧ off.toNat < 0x10000)
        let fixed := ∃ v, w = some v ∧ bar0Fixed off.toNat &&& v ≠ 0
        (hole ∨ fixed → ∃ t, exec (.bar0HoleAccess f off w) s = .next t ∧ t = { s with evr := t.evr } ∧ Raised 4 0x182 f.val s t) ∧
        (¬hole → ¬fixed → exec (.bar0HoleAccess f off w) s = .next s))) ∧
    (s.hostUp = false → (∀ (acc : HostAcc) (e : ErrMap), exec (.bar2Access f acc e) s = .next s) ∧
      ∀ (off : BitVec 26) (w : Option (BitVec 64)), exec (.bar0HoleAccess f off w) s = .next s) ∧
    ∃ t, exec (.functionLevelReset f) s = .next t ∧ t = { s with mgmt := t.mgmt } ∧
      t.func f.val = { Func.reset with dom := x.dom } ∧ (t.mbx f.val).cfg = 0 ∧ (t.mbx f.val).drop = (s.mbx f.val).busy ∧
      (t.mbx f.val).busy = (s.mbx f.val).busy ∧ (∀ g, g ≠ f.val → t.func g = s.func g) ∧ ∀ g, g ≠ f.val → t.mbx g = s.mbx g

/-- A path that is up answers SPDM requests in their order, PLDM and MCTP requests; one that is not up answers nothing. Each TAP
instruction becomes current where its condition holds and is BYPASS elsewhere. The order of SPDM requests and the endpoint ids
refused are the model's choice (log entry 51), as is IDCODE after TRST_N (log entry 42). -/
def Obligations.SideBandAndTapAnswer : Prop :=
  ∀ (p : SidePath) (s : State),
    let up := s.mgmt.boot.state = .running ∧ (p = .i3c → s.mgmt.side.i3c ≠ none)
    let reply (t : State) : Option Reply := tget none t.mgmt.side.replies (sideNum p)
    let tells (i : Instr) (r : Reply) : Prop := ∃ t, exec i s = .next t ∧ Kept s t ∧ reply t = some r
    let stage := s.spdmAt p
    let tap (i : Instr) (c : BitVec 8) : Prop := exec i s = .next { s with mgmt := { s.mgmt with jtag := c } }
    (up →
      (∃ t, exec (.getVersion p) s = .next t ∧ Kept s t ∧ reply t = some (.version 2) ∧ t.spdmAt p = 1) ∧
      (1 ≤ stage → ∃ t, exec (.getCapabilities p) s = .next t ∧ Kept s t ∧ reply t = some .capabilities ∧ t.spdmAt p = 2) ∧
      (2 ≤ stage → ∃ t, exec (.negotiateAlgorithms p) s = .next t ∧ Kept s t ∧ reply t = some .algorithms ∧ t.spdmAt p = 3) ∧
      (stage < 1 → tells (.getCapabilities p) .error) ∧ (stage < 2 → tells (.negotiateAlgorithms p) .error) ∧
      (stage < 3 → tells (.getDigests p) .error ∧ (∀ o n, tells (.getCertificate p o n) .error) ∧ (∀ b, tells (.challenge p b) .error) ∧
        ∀ i b, tells (.getMeasurements p i b) .error) ∧
      (3 ≤ stage →
        (∀ c, s.chain = some c → tells (.getDigests p) (.digests (Config.sha384 [] c)) ∧
          (∀ o n : BitVec 16, o.toNat < c.length → tells (.getCertificate p o n) (.certificate ((c.drop o.toNat).take n.toNat))) ∧
          ∀ b : List Byte, b.length = 32 → ∃ g, tells (.challenge p b) (.challenge g)) ∧
        (s.mgmt.lc.state = 0 → tells (.getDigests p) .error ∧ (∀ o n, tells (.getCertificate p o n) .error) ∧
          ∀ b, tells (.challenge p b) .error) ∧
        tells (.getMeasurements p 0 none) (.measurement [(0, [5])] []) ∧
        (∀ (i : BitVec 8) (d : List Byte), 1 ≤ i.toNat → i.toNat ≤ 5 → s.measurement i.toNat = some d →
          tells (.getMeasurements p i none) (.measurement [(i.toNat, d)] []) ∧
          ∀ b : List Byte, b.length = 32 → s.mgmt.lc.state ≠ 0 → ∃ g, tells (.getMeasurements p i (some b)) (.measurement [(i.toNat, d)] g)) ∧
        (∀ i : BitVec 8, 5 < i.toNat → i.toNat < 255 → tells (.getMeasurements p i none) .error)) ∧
      (p ≠ .doe →
        (∀ k : PldmSensor, tells (.pldmMonitorRequest p k) (.sensor (s.pldmRead k))) ∧
        (∀ (c : Fin 2) (i : FwImage), s.stagedImage c.val = some i → ∃ t, exec (.pldmFirmwareUpdate p (.activate c)) s = .next t ∧ Kept s t ∧
          reply t = some (.firmware true) ∧ (c.val = 0 → t.mgmt.boot.slotOf (!s.mgmt.boot.slot) = ⟨i, true, true⟩) ∧
          (c.val = 1 → t.mgmt.boot.runtime = i)) ∧
        (∀ (c : Fin 2) (i : FwImage), s.mgmt.grn.ready = true → i.bytes.length ≤ 64 * 2 ^ 20 → s.imageOk i = true →
          (s.putStaged c.val i.bytes.length i).isSome = true → ∃ t, exec (.pldmFirmwareUpdate p (.stage c i)) s = .next t ∧ Kept s t ∧
            reply t = some (.firmware true) ∧ t.stagedImage c.val = some i) ∧
        (∀ (c : Fin 2) (i : FwImage), s.imageOk i = false → tells (.pldmFirmwareUpdate p (.stage c i)) (.firmware false)) ∧
        tells (.mctpControlMessage p none) (.control (tget 0 s.mgmt.side.eids (sideNum p))) ∧
        (∀ e : BitVec 8, e ≠ 0 → e ≠ 0xFF → ∃ t, exec (.mctpControlMessage p (some e)) s = .next t ∧ Kept s t ∧
          reply t = some (.control e) ∧ tget 0 t.mgmt.side.eids (sideNum p) = e) ∧
        tells (.mctpControlMessage p (some 0)) .error ∧ tells (.mctpControlMessage p (some 0xFF)) .error)) ∧
    (¬up → (∃ t, exec (.getVersion p) s = .next t ∧ Kept s t ∧ reply t = none) ∧
      ∃ t, exec (.getDigests p) s = .next t ∧ Kept s t ∧ reply t = none) ∧
    (p = .doe → (∀ k, exec (.pldmMonitorRequest p k) s = .next s) ∧ (∀ e, exec (.mctpControlMessage p e) s = .next s) ∧
      ∀ k, exec (.pldmFirmwareUpdate p k) s = .next s) ∧
    (∀ a : BitVec 7,
      (s.mgmt.boot.state ≠ .lockout → s.mgmt.boot.state ≠ .heldOff →
        exec (.entdaa a) s = .next { s with mgmt := { s.mgmt with side := { s.mgmt.side with i3c := some a } } }) ∧
      (s.mgmt.boot.state = .lockout ∨ s.mgmt.boot.state = .heldOff → exec (.entdaa a) s = .next s)) ∧
    (s.mgmt.boot.state ≠ .lockout →
      (∀ e, e ∈ [(0x00, Instr.extest), (0x04, .highz), (0x05, .clamp), (0x08, .extestPulse), (0x09, .extestTrain)] →
        tap e.2 (if s.mgmt.boot.perst then e.1 else 0xFF)) ∧
      tap .idcode 0x01 ∧ tap .samplePreload 0x02 ∧ tap .bypass 0xFF ∧
      ∀ c : BitVec 8, 0x80 ≤ c.toNat → c.toNat ≤ 0xFE → tap (.debugAccess c)
        (if (s.mgmt.lc.state = 0 ∨ s.mgmt.lc.state = 3) ∧ s.mgmt.boot.state ≠ .heldOff then c else 0xFF)) ∧
    (s.mgmt.boot.state = .lockout → ∀ i, i ∈ [Instr.extest, .highz, .clamp, .extestPulse, .extestTrain, .idcode, .samplePreload, .bypass] →
      exec i s = .next s) ∧
    tap .trstNAssert 0x01

/-! ### Memory-mapped registers (R14, R20, R23) -/

/-- A write of a register sets its RW fields, clears the flags written with 1 and leaves what is read-only; a strand's write
needs a hull that reaches the register, a function's its BAR0. Each clear zeroes its counts alone. The register windows of R20
and R22: the addresses of a register of each window, on every core and die that has it. The model's choices: log entries 98,
100. -/
def Obligations.RegistersLieInTheirWindowsAndTakeWrites : Prop :=
  (
    ∀ s : State,
      (∀ (pa c a n d q : Nat) (v : W64), c < 256 →
        let rw : List (Reg × W64) :=
          [(.flt c 1, fieldMask 63 0), (.flt c 2, fieldMask 63 0), (.flt c 3, fieldMask 63 0), (.flt c 4, fieldMask 63 0),
           (.flt c 6, fieldMask 63 0), (.accSeed c, fieldMask 63 0), (.pmcCnt c n, fieldMask 47 0), (.pmcReload c n, fieldMask 47 0),
           (.puuStage n q, fieldMask 63 0), (.pmcDcnt a n, fieldMask 47 0), (.pwrCap, fieldMask 12 0), (.pmcTrig, fieldMask 30 0),
           (.sch n 0, fieldMask 63 0), (.sch n 1, fieldMask 34 0), (.sch n 2, fieldMask 63 0), (.sch n 3, fieldMask 63 0),
           (.sch n 5, fieldMask 47 0), (.lmon n 0, fieldMask 63 0), (.spBase, fieldMask 51 16)]
        let w1c : List (Reg × Nat) :=
          [(.tileEcc c, 17), (.matStat c a, 21), (.accEcc c, 17), (.strEcc c, 17), (.cpySpecc c, 17), (.cpyChan c a, 39), (.cpyDe c, 39),
           (.cpyErr c, 43), (.llcEcc n, 17), (.mcEcc n, 33), (.puuQstat n q, 39), (.puuQstat n q, 40), (.plkPstat n, 32), (.synRerr n, 36),
           (.synRstat n, 53), (.synRstat n, 54), (.pwrDmon n, 59), (.pwrVmon n, 16), (.pwrVmon n, 17)]
        let ro : List Reg :=
          [.accMode c n, .accNf c, .accDstat c, .accTdq c n, .strStat c, .strNf c, .strDone c n, .cpyErrPos c, .cpyErrAddr c, .l1Pstat c n,
           .pmcSnap c n, .pmcStat c, .puuStat n, .puuRule n a, .puuQdone n q a, .plkLber n a, .synRdone n, .cpyEstat d n, .pmcDsnap a n,
           .pmcDstat a, .pmcGstat, .pwrMod, .pwrTime, .pwrTsens n, .evrStat, .grn 0, .grn 1, .grn 2, .bootStat, .bootImg n, .bootRoll,
           .lcState, .spStat]
        (∀ e, e ∈ rw → regAt pa = some e.1 →
          ∃ t, exec (.regWrite (.luami pa) v) s = .next t ∧ Kept s t ∧ t.readReg e.1 = v &&& e.2) ∧
        (∀ e, e ∈ w1c → regAt pa = some e.1 → ∃ t, exec (.regWrite (.luami pa) v) s = .next t ∧ Kept s t ∧
          bit (t.readReg e.1) e.2 = (bit (s.readReg e.1) e.2 && !bit v e.2)) ∧
        (∀ r, r ∈ ro → regAt pa = some r → exec (.regWrite (.luami pa) v) s = .next s) ∧
        (regAt pa = none → exec (.regWrite (.luami pa) v) s = .next s)) ∧
      (∀ (w : Site) (h : Fin 16) (pa : Nat) (v : W64),
        let i : Instr := .regWrite (.strand w h pa) v
        let u := s.h w h.val
        let acts := (s.strand w).running = true ∧ (s.strand w).park = .none ∧ s.podRuns w.core.val = true ∧ s.padWaits pa = false
        let faults (c a : Nat) : Prop := exec i s = .next (s.takeFault w (fltA c a h.val 0 true false))
        (acts → pa % 8 = 0 →
          (regHullFault s u pa true = none → (∀ x, regAt pa ≠ some (.synRsub x)) → (∀ x q, regAt pa ≠ some (.puuQsub x q)) →
            regAt pa ≠ some .evrClr → exec i s = exec (.regWrite (.luami pa) v) s) ∧
          (∀ c, regHullFault s u pa true = some c → faults c (if c = 0x0D then hullFailAt u pa else pa))) ∧
        (acts → pa % 8 ≠ 0 → faults 0x02 pa) ∧
        (¬acts → exec i s = .next s)) ∧
      (∀ (f : Fin 64) (off : BitVec 26) (v : W64),
        (s.hostUp = true → off.toNat < 0x40 → off.toNat % 8 = 0 → ∃ t, exec (.regWrite (.host f off) v) s = .next t ∧
          t = { s with mgmt := t.mgmt } ∧ (∀ i, i < 8 → tget 0 (t.mbx f.val).cmd (off.toNat + i) = (leBytes 8 v.toNat).getD i 0) ∧
          ∀ i, i < off.toNat ∨ off.toNat + 8 ≤ i → tget 0 (t.mbx f.val).cmd i = tget 0 (s.mbx f.val).cmd i) ∧
        (s.hostUp = true → off = 0x88 → v &&& 0xFFFFFFFFFFFFFFFE = 0 → ∃ t, exec (.regWrite (.host f off) v) s = .next t ∧
          t = { s with mgmt := t.mgmt } ∧ (t.mbx f.val).cfg = v) ∧
        (s.hostUp = true → 0x40 ≤ off.toNat → off.toNat < 0x80 → v ≠ 0 → ∃ t, exec (.regWrite (.host f off) v) s = .next t ∧
          t = { s with evr := t.evr } ∧ Raised 4 0x182 f.val s t) ∧
        (s.hostUp = false → exec (.regWrite (.host f off) v) s = .next s)) ∧
      (∀ c : Fin 256,
        let k := s.core c.val
        let only (i : Instr) (k' : Core) : Prop := ∃ t, exec i s = .next t ∧ OnlyCore c.val s t ∧ t.core c.val = k'
        only (.tileCeClr c) { k with tileEcc := setFld k.tileEcc 15 0 0 } ∧
        only (.accCeClr c) { k with acc := { k.acc with ecc := setFld k.acc.ecc 15 0 0 } } ∧
        only (.accNfClr c) { k with acc := { k.acc with nan := 0, infc := 0 } } ∧
        only (.strCeClr c) { k with str := { k.str with ecc := setFld k.str.ecc 15 0 0 } } ∧
        only (.strNfClr c) { k with str := { k.str with nan := 0, infc := 0 } } ∧
        only (.ixcntClr c) { k with str := { k.str with oob := 0, drop := 0 } } ∧
        only (.speccCeClr c) { k with cpy := { k.cpy with specc := setFld k.cpy.specc 15 0 0 } } ∧
        only (.l1EccClr c) { k with l1dCount := 0, l1iCount := 0 }) ∧
      (∀ n : Fin 128,
        (∃ t, exec (.llcCeClr n) s = .next t ∧ t = { s with slices := t.slices } ∧ t.slice n.val = { s.slice n.val with ce := 0 } ∧
          ∀ j, j ≠ n.val → t.slice j = s.slice j) ∧
        ∃ t, exec (.llcStatClr n) s = .next t ∧ t = { s with slices := t.slices } ∧ t.slice n.val = { s.slice n.val with demoted := 0 } ∧
          ∀ j, j ≠ n.val → t.slice j = s.slice j) ∧
      (∀ x : Fin 16,
        (∃ t, exec (.qfullClr x) s = .next t ∧ t = { s with hbmStacks := t.hbmStacks } ∧ t.stack x.val = { s.stack x.val with qfull := 0 } ∧
          ∀ j, j ≠ x.val → t.stack j = s.stack j) ∧
        (∃ t, exec (.mcCeClr x) s = .next t ∧ t = { s with hbmStacks := t.hbmStacks } ∧
          t.stack x.val = { s.stack x.val with ce := 0, odecc := 0 } ∧ ∀ j, j ≠ x.val → t.stack j = s.stack j) ∧
        ∃ t, exec (.puuNfClr x) s = .next t ∧ t = { s with upd := t.upd } ∧ t.updUnit x.val = { s.updUnit x.val with nan := 0, infc := 0 } ∧
          ∀ j, j ≠ x.val → t.updUnit j = s.updUnit j) ∧
      (∀ d : Fin 4,
        (∃ t, exec (.synStatClr d) s = .next t ∧ t = { s with sync := { s.sync with fills := t.sync.fills, spills := t.sync.spills } } ∧
          tget 0 t.sync.fills d.val = 0 ∧ tget 0 t.sync.spills d.val = 0 ∧
          ∀ j, j ≠ d.val → tget 0 t.sync.fills j = tget 0 s.sync.fills j ∧ tget 0 t.sync.spills j = tget 0 s.sync.spills j) ∧
        ∀ b : Fin 3, ∃ t, exec (.bstatClr d b) s = .next t ∧ t = { s with link := t.link } ∧ tget 0 (t.switch d.val).bretry b.val = 0 ∧
          (∀ j, j ≠ b.val → tget 0 (t.switch d.val).bretry j = tget 0 (s.switch d.val).bretry j) ∧
          ∀ j, j ≠ d.val → t.switch j = s.switch j) ∧
      (∀ k : Fin 36,
        (∃ t, exec (.plkErrClr k) s = .next t ∧ OnlyPort k.val s t ∧
          t.port k.val = { s.port k.val with crcerr := 0, uncorr := 0, retry := 0, retrain := 0 }) ∧
        ∃ t, exec (.feccClr k) s = .next t ∧ OnlyPort k.val s t ∧ t.port k.val = { s.port k.val with csym := 0 }) ∧
      (∃ t, exec .grnErrClr s = .next t ∧ t = { s with mgmt := { s.mgmt with grn := { s.mgmt.grn with corrhi := 0, uncorr := 0, refresh := 0 } } }) ∧
      ∀ m : Fin 65, ∃ t, exec (.bwstatClr m) s = .next t ∧ t = { s with pmc := t.pmc } ∧ (∀ j, j ≠ m.val → t.mon j = s.mon j) ∧
        t.mon m.val = { s.mon m.val with min0 := 0xFFFFFFFFFFFF, max0 := 0, min1 := 0xFFFFFFFFFFFF, max1 := 0, windows := 0 }) ∧
  (
    (∀ c, c < 256 →
      let b := 0x2000000000000 + c * 0x10000
      regAt b = some (.flt c 0) ∧ regAt (b + 0x1000) = some (.tileEcc c) ∧ regAt (b + 0x2018) = some (.matStat c 3) ∧
      regAt (b + 0x3100) = some (.accSeed c) ∧ regAt (b + 0x4010) = some (.strThr c) ∧ regAt (b + 0x5028) = some (.cpyErr c) ∧
      regAt (b + 0x6000) = some (.l1Ecc c) ∧ regAt (b + 0x7080) = some (.pmcSel c 0)) ∧
    (∀ d, d < 4 →
      let b := 0x2000001000000 + d * 0x1000000
      regAt b = some (.llcCfg (32 * d)) ∧ regAt (b + 0x80008) = some (.mcEcc (4 * d)) ∧ regAt (b + 0x108008) = some (.puuQstat (4 * d) 0) ∧
      regAt (b + 0x200008) = some (.plkPstat (9 * d)) ∧ regAt (b + 0x310000) = some (.synRsub (1024 * d)) ∧
      regAt (b + 0x400000) = some (.cpyEstat d 0) ∧ regAt (b + 0x500608) = some (.pmcBwwin d)) ∧
    (let b := 0x2000005000000;
      regAt b = some (.mbx 0 0) ∧ regAt (b + 0x100000) = some .pwrCap ∧ regAt (b + 0x200008) = some .evrClr ∧
      regAt (b + 0x300018) = some (.grn 3) ∧ regAt (b + 0x400000) = some .bootStat ∧ regAt (b + 0x480000) = some .lcState ∧
      regAt (b + 0x500000) = some (.sch 0 0) ∧ regAt (b + 0x600000) = some (.lmon 0 0) ∧ regAt (b + 0x700000) = some .spBase ∧
      regAt (b + 0x910000) = some .hulSweep))

/-! ### Reset and every step -/

/-- What is spec's of the module right after reset: every core is free, with every strand HALTED and every register zero; every
domain but none FREE; memory zero; every port OFF; the recorder and the queues empty; TIME 0; the delay monitors' least rate all
ones; HPPR, the granary and the mailboxes as their registers' reset columns say. Memory is in its canonical form. The model's
choices: log entries 21, 52. -/
def Obligations.ResetValues : Prop :=
  let s := State.reset
  s.time = 0 ∧ s.pending = [] ∧ (∀ w : Site, (s.strand w).running = false ∧ (s.bank w).pc = 0 ∧ (∀ r, (s.bank w).readG r = 0) ∧
    (∀ r, (s.bank w).readV r = 0) ∧ ∀ r, (s.bank w).readH r = 0) ∧
  (∀ c, (s.core c).domain = 0 ∧ (s.core c).wbuf = []) ∧ (∀ d, s.dom d = Domain.free) ∧ (∀ a, tget memDefault s.mem a = 0) ∧
  (∀ k, (s.port k).state = 0 ∧ (s.port k).replay = []) ∧ (∀ c, s.evrRec c = EvrRec.reset) ∧ (∀ i, (s.dmonOf i).rmin = 0xFFFF) ∧
  (∀ m, (s.mbx m).busy = false ∧ (s.mbx m).count = 0) ∧ (∀ d o, s.objWord d o = 0) ∧ (∀ x, (s.stack x).ready = false) ∧
  Memory.wf s.mem = true ∧ Memory.wf s.hbm = true ∧ s.mgmt.grn.ready = false ∧ s.mgmt.boot.done = false ∧ s.mgmt.boot.phase = 0 ∧ s.pmc.avail = false ∧ s.sweep.busy = false ∧ s.alert = false

/-- On an empty queue the block idles (the model's choice, log entry 2): a module reset that is due begins; else messages under
way to the host are delivered while the PCIe island runs, and TIME goes on by one while the time base runs. -/
def Obligations.EmptyQueueIdles : Prop :=
  ∀ s : State, s.pending = [] →
    let ticks := s.mgmt.boot.state = .running ∨ s.mgmt.boot.state = .waitCool ∨ s.mgmt.boot.state = .stalled
    (s.mgmt.boot.due = none → ∃ t, step s = .next t ∧ t = { s with mgmt := { s.mgmt with msgs := if s.pcieStands then s.mgmt.msgs else [] }, time := t.time } ∧
      (ticks → t.time = s.time + 1) ∧ (¬ticks → t.time = s.time)) ∧
    ∀ cause, s.mgmt.boot.due = some cause → ∃ t, step s = .next t ∧ AfterReset cause .held s t

/-- Every step keeps memory in its canonical form, at home and in the stacks. The model's choices: log entry 15. -/
def Obligations.EveryStepKeepsMemoryCanonical : Prop :=
  ∀ s t : State, step s = .next t → Memory.wf s.mem = true → Memory.wf s.hbm = true →
    Memory.wf t.mem = true ∧ Memory.wf t.hbm = true
end

