-- ==== Sys2Proof/Laws/Free.lean ====
section
/-! SUPPORT. What the searches among free instances find (log entry 44). -/

namespace Sys2Proof.Machine

/-- A search that meets an element that satisfies `p` among the next `fuel` finds one. -/
theorem findFrom_isSome {n : Nat} {p : Nat → Bool} : ∀ {fuel k i : Nat}, i < fuel → p ((k + i) % n) = true → (findFrom n p fuel k).isSome = true
  | 0, _, _, h, _ => absurd h (Nat.not_lt_zero _)
  | fuel + 1, k, i, h, hp => by
    unfold findFrom
    split
    · rfl
    · rename_i hn
      cases i with
      | zero => exact absurd hp hn
      | succ i => exact findFrom_isSome (k := k + 1) (i := i) (by omega) (by rw [show k + 1 + i = k + (i + 1) by omega]; exact hp)

/-- A search for an element that satisfies `p` finds one where there is one, wherever it starts. -/
theorem findFree_isSome {n : Nat} {start : W64} {p : Nat → Bool} {j : Nat} (h : j < n) (hp : p j = true) : (findFree n start p).isSome = true := by
  have hk : start.toNat % n < n := Nat.mod_lt _ (by omega)
  unfold findFree
  by_cases c : start.toNat % n ≤ j
  · refine findFrom_isSome (i := j - start.toNat % n) (by omega) ?_
    rw [show start.toNat % n + (j - start.toNat % n) = j by omega, Nat.mod_eq_of_lt h]; exact hp
  · refine findFrom_isSome (i := j + n - start.toNat % n) (by omega) ?_
    rw [show start.toNat % n + (j + n - start.toNat % n) = j + n by omega, Nat.add_mod_right, Nat.mod_eq_of_lt h]; exact hp

/-- A frame is found where one is free. -/
theorem pickFrame_isSome {s : State} {l : List Nat} {n : Nat} {start : W64} {j : Nat} (h : j < l.length * (stackBytes / n))
    (hf : s.frameFree (l.getD (j / (stackBytes / n)) 0 * 2 ^ 36 + j % (stackBytes / n) * n) n = true) :
    (s.pickFrame l n start).isSome = true := by
  unfold State.pickFrame
  rw [Option.isSome_map]
  exact findFree_isSome h hf

end Sys2Proof.Machine
end

