-- ==== Sys2Proof/Laws/Table.lean ====
section
/-! SUPPORT. The laws of sparse arrays: read after write, reads of other keys, and that every operation keeps
the canonical form. -/

namespace Sys2Proof.Machine

variable {α : Type}

theorem tget_tput (d : α) (t : Table α) (k j : Nat) (x : α) :
    tget d (tput k x t) j = if j = k then x else tget d t j := by
  induction t with
  | nil => simp only [tput, tget, eq_comm]
  | cons e t ih =>
    obtain ⟨i, y⟩ := e
    simp only [tput]
    split
    · simp only [tget, eq_comm]
    · split
      · subst_vars; simp only [tget]; grind
      · simp only [tget, ih]; grind

theorem tget_tdel (d : α) (t : Table α) (k j : Nat) : tget d (tdel k t) j = if j = k then d else tget d t j := by
  induction t with
  | nil => simp [tdel, tget]
  | cons e t ih =>
    obtain ⟨i, y⟩ := e
    simp only [tdel]
    split
    · subst_vars; simp only [ih, tget]; grind
    · simp only [tget, ih]; grind

/-- Read after write, of any key, in any table. -/
theorem tget_tset [DecidableEq α] (d : α) (t : Table α) (k j : Nat) (x : α) :
    tget d (tset d t k x) j = if j = k then x else tget d t j := by
  unfold tset
  split
  · subst_vars; exact tget_tdel _ _ _ _
  · exact tget_tput _ _ _ _ _

@[simp] theorem tget_tset_same [DecidableEq α] (d : α) (t : Table α) (k : Nat) (x : α) :
    tget d (tset d t k x) k = x := by simp [tget_tset]

theorem tget_tset_other [DecidableEq α] (d : α) (t : Table α) {k j : Nat} (x : α) (h : j ≠ k) :
    tget d (tset d t k x) j = tget d t j := by simp [tget_tset, h]

/-- The canonical form as a statement: keys rise strictly, and no value is the default. -/
theorem twf_iff [DecidableEq α] (d : α) (t : Table α) :
    twf d t = true ↔ t.Pairwise (fun a b => a.1 < b.1) ∧ ∀ e ∈ t, e.2 ≠ d := by
  induction t with
  | nil => simp [twf]
  | cons e t ih =>
    obtain ⟨i, y⟩ := e
    simp only [twf, Bool.and_eq_true, decide_eq_true_eq, List.all_eq_true, ih, List.pairwise_cons, List.mem_cons,
      forall_eq_or_imp]
    constructor
    · rintro ⟨⟨h1, h2⟩, h3, h4⟩; exact ⟨⟨h2, h3⟩, h1, h4⟩
    · rintro ⟨⟨h1, h2⟩, h3, h4⟩; exact ⟨⟨h3, h1⟩, h2, h4⟩

theorem mem_tput {t : Table α} {k : Nat} {x : α} {e : Nat × α} (h : e ∈ tput k x t) : e = (k, x) ∨ e ∈ t := by
  induction t with
  | nil => simpa [tput] using h
  | cons f t ih =>
    obtain ⟨i, y⟩ := f
    simp only [tput] at h
    grind

theorem mem_tdel {t : Table α} {k : Nat} {e : Nat × α} (h : e ∈ tdel k t) : e ∈ t := by
  induction t with
  | nil => simp [tdel] at h
  | cons f t ih =>
    obtain ⟨i, y⟩ := f
    simp only [tdel] at h
    grind

theorem tput_wf [DecidableEq α] {d : α} {t : Table α} {k : Nat} {x : α} (hx : x ≠ d) (h : twf d t = true) :
    twf d (tput k x t) = true := by
  rw [twf_iff] at *
  obtain ⟨hp, hd⟩ := h
  refine ⟨?_, fun e he => (mem_tput he).elim (fun h => h ▸ hx) (hd e)⟩
  clear hd
  induction t with
  | nil => simp [tput]
  | cons f t ih =>
    obtain ⟨i, y⟩ := f
    simp only [tput]
    rw [List.pairwise_cons] at hp
    split
    · simp only [List.pairwise_cons, List.mem_cons]; grind
    · split
      · simp only [List.pairwise_cons]; grind
      · rw [List.pairwise_cons]
        refine ⟨fun e he => ?_, ih hp.2⟩
        rcases mem_tput he with h | h
        · subst h; simp; omega
        · exact hp.1 e h

theorem tdel_wf [DecidableEq α] {d : α} {t : Table α} {k : Nat} (h : twf d t = true) : twf d (tdel k t) = true := by
  rw [twf_iff] at *
  refine ⟨?_, fun e he => h.2 e (mem_tdel he)⟩
  have hp := h.1
  clear h
  induction t with
  | nil => simp [tdel]
  | cons f t ih =>
    obtain ⟨i, y⟩ := f
    simp only [tdel]
    rw [List.pairwise_cons] at hp
    split
    · exact ih hp.2
    · exact List.pairwise_cons.2 ⟨fun e he => hp.1 e (mem_tdel he), ih hp.2⟩

/-- A write keeps the canonical form. -/
theorem tset_wf [DecidableEq α] {d : α} {t : Table α} {k : Nat} {x : α} (h : twf d t = true) :
    twf d (tset d t k x) = true := by
  unfold tset
  split
  · exact tdel_wf h
  · exact tput_wf ‹_› h

/-- Reading after dropping entries: the drop needs no order of the keys. -/
theorem tget_tfilter (d : α) (p : Nat → α → Bool) (t : Table α) (k : Nat) :
    tget d (tfilter p t) k = if p k (tget d t k) then tget d t k else d := by
  induction t with
  | nil => by_cases h : p k d = true <;> simp [tfilter, tget, h]
  | cons e t ih =>
    obtain ⟨j, y⟩ := e
    by_cases hk : j = k
    · subst hk; by_cases hp : p j y <;> simp [tfilter, tget, hp, tget_tdel]
    · by_cases hp : p j y <;> simp [tfilter, tget, hp, tget_tdel, hk, Ne.symm hk, ih]

/-- Reading after keeping keys. -/
theorem tget_tkeep (d : α) (p : Nat → Bool) (t : Table α) (k : Nat) :
    tget d (tkeep p t) k = if p k then tget d t k else d := by
  induction t with
  | nil => simp [tkeep, tget]
  | cons e t ih =>
    obtain ⟨j, y⟩ := e
    by_cases hk : j = k
    · subst hk; by_cases hp : p j <;> simp_all [tkeep, tget]
    · by_cases hp : p j <;> simp [tkeep, tget, hp, hk, ih]

/-- Reading after mapping every value by a function that keeps the default. -/
theorem tget_tmap [DecidableEq α] {d : α} {f : α → α} (hf : f d = d) (t : Table α) (k : Nat) :
    tget d (tmap d f t) k = f (tget d t k) := by
  induction t with
  | nil => simp [tmap, tget, hf]
  | cons e t ih =>
    obtain ⟨j, y⟩ := e
    by_cases hk : j = k
    · subst hk; by_cases hp : f y = d <;> simp [tmap, tget, hp, tget_tdel]
    · by_cases hp : f y = d <;> simp [tmap, tget, hp, tget_tdel, hk, Ne.symm hk, ih]

theorem mem_tfilter {p : Nat → α → Bool} {t : Table α} {e : Nat × α} (h : e ∈ tfilter p t) : e ∈ t := by
  induction t with
  | nil => simp [tfilter] at h
  | cons f t ih =>
    obtain ⟨i, y⟩ := f
    simp only [tfilter] at h
    split at h
    · grind
    · exact List.mem_cons_of_mem _ (ih (mem_tdel h))

/-- Dropping entries keeps the canonical form. -/
theorem tfilter_wf [DecidableEq α] {d : α} {p : Nat → α → Bool} {t : Table α} (h : twf d t = true) :
    twf d (tfilter p t) = true := by
  induction t with
  | nil => exact h
  | cons f t ih =>
    obtain ⟨i, y⟩ := f
    simp only [twf, Bool.and_eq_true, decide_eq_true_eq, List.all_eq_true] at h
    simp only [tfilter]
    split
    · simp only [twf, Bool.and_eq_true, decide_eq_true_eq, List.all_eq_true]
      exact ⟨⟨h.1.1, fun e he => h.1.2 e (mem_tfilter he)⟩, ih h.2⟩
    · exact tdel_wf (ih h.2)

theorem mem_tkeep {p : Nat → Bool} {t : Table α} {e : Nat × α} (h : e ∈ tkeep p t) : e ∈ t := by
  induction t with
  | nil => simp [tkeep] at h
  | cons f t ih => obtain ⟨i, y⟩ := f; simp only [tkeep] at h; grind

/-- Keeping keys keeps the canonical form. -/
theorem tkeep_wf [DecidableEq α] {d : α} {p : Nat → Bool} {t : Table α} (h : twf d t = true) : twf d (tkeep p t) = true := by
  induction t with
  | nil => exact h
  | cons f t ih =>
    obtain ⟨i, y⟩ := f
    simp only [twf, Bool.and_eq_true, decide_eq_true_eq, List.all_eq_true] at h
    simp only [tkeep]
    split
    · simp only [twf, Bool.and_eq_true, decide_eq_true_eq, List.all_eq_true]
      exact ⟨⟨h.1.1, fun e he => h.1.2 e (mem_tkeep he)⟩, ih h.2⟩
    · exact ih h.2

theorem mem_tmap [DecidableEq α] {d : α} {f : α → α} {t : Table α} {e : Nat × α} (h : e ∈ tmap d f t) :
    ∃ a ∈ t, e.1 = a.1 ∧ e.2 = f a.2 := by
  induction t with
  | nil => simp [tmap] at h
  | cons g t ih =>
    obtain ⟨i, y⟩ := g
    simp only [tmap] at h
    split at h
    · obtain ⟨a, ha, r⟩ := ih (mem_tdel h); exact ⟨a, List.mem_cons_of_mem _ ha, r⟩
    · rcases List.mem_cons.1 h with h | h
      · subst h; exact ⟨(i, y), List.mem_cons_self, rfl, rfl⟩
      · obtain ⟨a, ha, r⟩ := ih h; exact ⟨a, List.mem_cons_of_mem _ ha, r⟩

/-- Mapping the values keeps the canonical form. -/
theorem tmap_wf [DecidableEq α] {d : α} {f : α → α} {t : Table α} (h : twf d t = true) : twf d (tmap d f t) = true := by
  induction t with
  | nil => exact h
  | cons g t ih =>
    obtain ⟨i, y⟩ := g
    simp only [twf, Bool.and_eq_true, decide_eq_true_eq, List.all_eq_true] at h
    simp only [tmap]
    split
    · exact tdel_wf (ih h.2)
    · simp only [twf, Bool.and_eq_true, decide_eq_true_eq, List.all_eq_true]
      refine ⟨⟨‹_›, fun e he => ?_⟩, ih h.2⟩
      obtain ⟨a, ha, h1, _⟩ := mem_tmap he
      rw [h1]; exact h.1.2 a ha

end Sys2Proof.Machine
end

