-- ==== Sys2Proof/Laws/State.lean ====
section
/-! SUPPORT. The laws of the state's updates: one lemma for each field under each update, and what the accessors of
cores, strands, banks and registers read after a write. -/

namespace Sys2Proof.Machine

/-! ### setCore -/

@[simp] theorem State.setCore_moduleId (s : State) (c : Nat) (k : Core) : (s.setCore c k).moduleId = s.moduleId := rfl
@[simp] theorem State.setCore_time (s : State) (c : Nat) (k : Core) : (s.setCore c k).time = s.time := rfl
@[simp] theorem State.setCore_cores (s : State) (c : Nat) (k : Core) : (s.setCore c k).cores = tset Core.reset s.cores c k := rfl
@[simp] theorem State.setCore_doms (s : State) (c : Nat) (k : Core) : (s.setCore c k).doms = s.doms := rfl
@[simp] theorem State.setCore_sweep (s : State) (c : Nat) (k : Core) : (s.setCore c k).sweep = s.sweep := rfl
@[simp] theorem State.setCore_mem (s : State) (c : Nat) (k : Core) : (s.setCore c k).mem = s.mem := rfl
@[simp] theorem State.setCore_hbm (s : State) (c : Nat) (k : Core) : (s.setCore c k).hbm = s.hbm := rfl
@[simp] theorem State.setCore_llc (s : State) (c : Nat) (k : Core) : (s.setCore c k).llc = s.llc := rfl
@[simp] theorem State.setCore_slices (s : State) (c : Nat) (k : Core) : (s.setCore c k).slices = s.slices := rfl
@[simp] theorem State.setCore_stacks (s : State) (c : Nat) (k : Core) : (s.setCore c k).hbmStacks = s.hbmStacks := rfl
@[simp] theorem State.setCore_banks (s : State) (c : Nat) (k : Core) : (s.setCore c k).banks = s.banks := rfl
@[simp] theorem State.setCore_hbmWait (s : State) (c : Nat) (k : Core) : (s.setCore c k).hbmWait = s.hbmWait := rfl
@[simp] theorem State.setCore_sliceIn (s : State) (c : Nat) (k : Core) : (s.setCore c k).sliceIn = s.sliceIn := rfl
@[simp] theorem State.setCore_diePools (s : State) (c : Nat) (k : Core) : (s.setCore c k).diePools = s.diePools := rfl
@[simp] theorem State.setCore_sync (s : State) (c : Nat) (k : Core) : (s.setCore c k).sync = s.sync := rfl
@[simp] theorem State.setCore_link (s : State) (c : Nat) (k : Core) : (s.setCore c k).link = s.link := rfl
@[simp] theorem State.setCore_upd (s : State) (c : Nat) (k : Core) : (s.setCore c k).upd = s.upd := rfl
@[simp] theorem State.setCore_mgmt (s : State) (c : Nat) (k : Core) : (s.setCore c k).mgmt = s.mgmt := rfl
@[simp] theorem State.setCore_evr (s : State) (c : Nat) (k : Core) : (s.setCore c k).evr = s.evr := rfl
@[simp] theorem State.setCore_pmc (s : State) (c : Nat) (k : Core) : (s.setCore c k).pmc = s.pmc := rfl
@[simp] theorem State.setCore_revokeQ (s : State) (c : Nat) (k : Core) : (s.setCore c k).revokeQ = s.revokeQ := rfl
@[simp] theorem State.setCore_alert (s : State) (c : Nat) (k : Core) : (s.setCore c k).alert = s.alert := rfl
@[simp] theorem State.setCore_check (s : State) (c : Nat) (k : Core) : (s.setCore c k).check = s.check := rfl
@[simp] theorem State.setCore_freeCtr (s : State) (c : Nat) (k : Core) : (s.setCore c k).freeCtr = s.freeCtr := rfl
@[simp] theorem State.setCore_pending (s : State) (c : Nat) (k : Core) : (s.setCore c k).pending = s.pending := rfl

/-! ### setDom -/

@[simp] theorem State.setDom_moduleId (s : State) (d : DomNo) (x : Domain) : (s.setDom d x).moduleId = s.moduleId := rfl
@[simp] theorem State.setDom_time (s : State) (d : DomNo) (x : Domain) : (s.setDom d x).time = s.time := rfl
@[simp] theorem State.setDom_cores (s : State) (d : DomNo) (x : Domain) : (s.setDom d x).cores = s.cores := rfl
@[simp] theorem State.setDom_doms (s : State) (d : DomNo) (x : Domain) : (s.setDom d x).doms = tset Domain.free s.doms d x := rfl
@[simp] theorem State.setDom_sweep (s : State) (d : DomNo) (x : Domain) : (s.setDom d x).sweep = s.sweep := rfl
@[simp] theorem State.setDom_mem (s : State) (d : DomNo) (x : Domain) : (s.setDom d x).mem = s.mem := rfl
@[simp] theorem State.setDom_hbm (s : State) (d : DomNo) (x : Domain) : (s.setDom d x).hbm = s.hbm := rfl
@[simp] theorem State.setDom_llc (s : State) (d : DomNo) (x : Domain) : (s.setDom d x).llc = s.llc := rfl
@[simp] theorem State.setDom_slices (s : State) (d : DomNo) (x : Domain) : (s.setDom d x).slices = s.slices := rfl
@[simp] theorem State.setDom_stacks (s : State) (d : DomNo) (x : Domain) : (s.setDom d x).hbmStacks = s.hbmStacks := rfl
@[simp] theorem State.setDom_banks (s : State) (d : DomNo) (x : Domain) : (s.setDom d x).banks = s.banks := rfl
@[simp] theorem State.setDom_hbmWait (s : State) (d : DomNo) (x : Domain) : (s.setDom d x).hbmWait = s.hbmWait := rfl
@[simp] theorem State.setDom_sliceIn (s : State) (d : DomNo) (x : Domain) : (s.setDom d x).sliceIn = s.sliceIn := rfl
@[simp] theorem State.setDom_diePools (s : State) (d : DomNo) (x : Domain) : (s.setDom d x).diePools = s.diePools := rfl
@[simp] theorem State.setDom_sync (s : State) (d : DomNo) (x : Domain) : (s.setDom d x).sync = s.sync := rfl
@[simp] theorem State.setDom_link (s : State) (d : DomNo) (x : Domain) : (s.setDom d x).link = s.link := rfl
@[simp] theorem State.setDom_upd (s : State) (d : DomNo) (x : Domain) : (s.setDom d x).upd = s.upd := rfl
@[simp] theorem State.setDom_mgmt (s : State) (d : DomNo) (x : Domain) : (s.setDom d x).mgmt = s.mgmt := rfl
@[simp] theorem State.setDom_evr (s : State) (d : DomNo) (x : Domain) : (s.setDom d x).evr = s.evr := rfl
@[simp] theorem State.setDom_pmc (s : State) (d : DomNo) (x : Domain) : (s.setDom d x).pmc = s.pmc := rfl
@[simp] theorem State.setDom_revokeQ (s : State) (d : DomNo) (x : Domain) : (s.setDom d x).revokeQ = s.revokeQ := rfl
@[simp] theorem State.setDom_alert (s : State) (d : DomNo) (x : Domain) : (s.setDom d x).alert = s.alert := rfl
@[simp] theorem State.setDom_check (s : State) (d : DomNo) (x : Domain) : (s.setDom d x).check = s.check := rfl
@[simp] theorem State.setDom_freeCtr (s : State) (d : DomNo) (x : Domain) : (s.setDom d x).freeCtr = s.freeCtr := rfl
@[simp] theorem State.setDom_pending (s : State) (d : DomNo) (x : Domain) : (s.setDom d x).pending = s.pending := rfl

/-! ### setLlc -/

@[simp] theorem State.setLlc_moduleId (s : State) (key : Nat) (x : LlcSet) : (s.setLlc key x).moduleId = s.moduleId := rfl
@[simp] theorem State.setLlc_time (s : State) (key : Nat) (x : LlcSet) : (s.setLlc key x).time = s.time := rfl
@[simp] theorem State.setLlc_cores (s : State) (key : Nat) (x : LlcSet) : (s.setLlc key x).cores = s.cores := rfl
@[simp] theorem State.setLlc_doms (s : State) (key : Nat) (x : LlcSet) : (s.setLlc key x).doms = s.doms := rfl
@[simp] theorem State.setLlc_sweep (s : State) (key : Nat) (x : LlcSet) : (s.setLlc key x).sweep = s.sweep := rfl
@[simp] theorem State.setLlc_mem (s : State) (key : Nat) (x : LlcSet) : (s.setLlc key x).mem = s.mem := rfl
@[simp] theorem State.setLlc_hbm (s : State) (key : Nat) (x : LlcSet) : (s.setLlc key x).hbm = s.hbm := rfl
@[simp] theorem State.setLlc_llc (s : State) (key : Nat) (x : LlcSet) : (s.setLlc key x).llc = tset LlcSet.empty s.llc key x := rfl
@[simp] theorem State.setLlc_slices (s : State) (key : Nat) (x : LlcSet) : (s.setLlc key x).slices = s.slices := rfl
@[simp] theorem State.setLlc_stacks (s : State) (key : Nat) (x : LlcSet) : (s.setLlc key x).hbmStacks = s.hbmStacks := rfl
@[simp] theorem State.setLlc_banks (s : State) (key : Nat) (x : LlcSet) : (s.setLlc key x).banks = s.banks := rfl
@[simp] theorem State.setLlc_hbmWait (s : State) (key : Nat) (x : LlcSet) : (s.setLlc key x).hbmWait = s.hbmWait := rfl
@[simp] theorem State.setLlc_sliceIn (s : State) (key : Nat) (x : LlcSet) : (s.setLlc key x).sliceIn = s.sliceIn := rfl
@[simp] theorem State.setLlc_diePools (s : State) (key : Nat) (x : LlcSet) : (s.setLlc key x).diePools = s.diePools := rfl
@[simp] theorem State.setLlc_sync (s : State) (key : Nat) (x : LlcSet) : (s.setLlc key x).sync = s.sync := rfl
@[simp] theorem State.setLlc_link (s : State) (key : Nat) (x : LlcSet) : (s.setLlc key x).link = s.link := rfl
@[simp] theorem State.setLlc_upd (s : State) (key : Nat) (x : LlcSet) : (s.setLlc key x).upd = s.upd := rfl
@[simp] theorem State.setLlc_mgmt (s : State) (key : Nat) (x : LlcSet) : (s.setLlc key x).mgmt = s.mgmt := rfl
@[simp] theorem State.setLlc_evr (s : State) (key : Nat) (x : LlcSet) : (s.setLlc key x).evr = s.evr := rfl
@[simp] theorem State.setLlc_pmc (s : State) (key : Nat) (x : LlcSet) : (s.setLlc key x).pmc = s.pmc := rfl
@[simp] theorem State.setLlc_revokeQ (s : State) (key : Nat) (x : LlcSet) : (s.setLlc key x).revokeQ = s.revokeQ := rfl
@[simp] theorem State.setLlc_alert (s : State) (key : Nat) (x : LlcSet) : (s.setLlc key x).alert = s.alert := rfl
@[simp] theorem State.setLlc_check (s : State) (key : Nat) (x : LlcSet) : (s.setLlc key x).check = s.check := rfl
@[simp] theorem State.setLlc_freeCtr (s : State) (key : Nat) (x : LlcSet) : (s.setLlc key x).freeCtr = s.freeCtr := rfl
@[simp] theorem State.setLlc_pending (s : State) (key : Nat) (x : LlcSet) : (s.setLlc key x).pending = s.pending := rfl

/-! ### setSlice -/

@[simp] theorem State.setSlice_moduleId (s : State) (n : Nat) (r : SliceRegs) : (s.setSlice n r).moduleId = s.moduleId := rfl
@[simp] theorem State.setSlice_time (s : State) (n : Nat) (r : SliceRegs) : (s.setSlice n r).time = s.time := rfl
@[simp] theorem State.setSlice_cores (s : State) (n : Nat) (r : SliceRegs) : (s.setSlice n r).cores = s.cores := rfl
@[simp] theorem State.setSlice_doms (s : State) (n : Nat) (r : SliceRegs) : (s.setSlice n r).doms = s.doms := rfl
@[simp] theorem State.setSlice_sweep (s : State) (n : Nat) (r : SliceRegs) : (s.setSlice n r).sweep = s.sweep := rfl
@[simp] theorem State.setSlice_mem (s : State) (n : Nat) (r : SliceRegs) : (s.setSlice n r).mem = s.mem := rfl
@[simp] theorem State.setSlice_hbm (s : State) (n : Nat) (r : SliceRegs) : (s.setSlice n r).hbm = s.hbm := rfl
@[simp] theorem State.setSlice_llc (s : State) (n : Nat) (r : SliceRegs) : (s.setSlice n r).llc = s.llc := rfl
@[simp] theorem State.setSlice_slices (s : State) (n : Nat) (r : SliceRegs) : (s.setSlice n r).slices = tset SliceRegs.reset s.slices n r := rfl
@[simp] theorem State.setSlice_stacks (s : State) (n : Nat) (r : SliceRegs) : (s.setSlice n r).hbmStacks = s.hbmStacks := rfl
@[simp] theorem State.setSlice_banks (s : State) (n : Nat) (r : SliceRegs) : (s.setSlice n r).banks = s.banks := rfl
@[simp] theorem State.setSlice_hbmWait (s : State) (n : Nat) (r : SliceRegs) : (s.setSlice n r).hbmWait = s.hbmWait := rfl
@[simp] theorem State.setSlice_sliceIn (s : State) (n : Nat) (r : SliceRegs) : (s.setSlice n r).sliceIn = s.sliceIn := rfl
@[simp] theorem State.setSlice_diePools (s : State) (n : Nat) (r : SliceRegs) : (s.setSlice n r).diePools = s.diePools := rfl
@[simp] theorem State.setSlice_sync (s : State) (n : Nat) (r : SliceRegs) : (s.setSlice n r).sync = s.sync := rfl
@[simp] theorem State.setSlice_link (s : State) (n : Nat) (r : SliceRegs) : (s.setSlice n r).link = s.link := rfl
@[simp] theorem State.setSlice_upd (s : State) (n : Nat) (r : SliceRegs) : (s.setSlice n r).upd = s.upd := rfl
@[simp] theorem State.setSlice_mgmt (s : State) (n : Nat) (r : SliceRegs) : (s.setSlice n r).mgmt = s.mgmt := rfl
@[simp] theorem State.setSlice_evr (s : State) (n : Nat) (r : SliceRegs) : (s.setSlice n r).evr = s.evr := rfl
@[simp] theorem State.setSlice_pmc (s : State) (n : Nat) (r : SliceRegs) : (s.setSlice n r).pmc = s.pmc := rfl
@[simp] theorem State.setSlice_revokeQ (s : State) (n : Nat) (r : SliceRegs) : (s.setSlice n r).revokeQ = s.revokeQ := rfl
@[simp] theorem State.setSlice_alert (s : State) (n : Nat) (r : SliceRegs) : (s.setSlice n r).alert = s.alert := rfl
@[simp] theorem State.setSlice_check (s : State) (n : Nat) (r : SliceRegs) : (s.setSlice n r).check = s.check := rfl
@[simp] theorem State.setSlice_freeCtr (s : State) (n : Nat) (r : SliceRegs) : (s.setSlice n r).freeCtr = s.freeCtr := rfl
@[simp] theorem State.setSlice_pending (s : State) (n : Nat) (r : SliceRegs) : (s.setSlice n r).pending = s.pending := rfl

/-! ### setStack -/

@[simp] theorem State.setStack_moduleId (s : State) (n : Nat) (r : StackRegs) : (s.setStack n r).moduleId = s.moduleId := rfl
@[simp] theorem State.setStack_time (s : State) (n : Nat) (r : StackRegs) : (s.setStack n r).time = s.time := rfl
@[simp] theorem State.setStack_cores (s : State) (n : Nat) (r : StackRegs) : (s.setStack n r).cores = s.cores := rfl
@[simp] theorem State.setStack_doms (s : State) (n : Nat) (r : StackRegs) : (s.setStack n r).doms = s.doms := rfl
@[simp] theorem State.setStack_sweep (s : State) (n : Nat) (r : StackRegs) : (s.setStack n r).sweep = s.sweep := rfl
@[simp] theorem State.setStack_mem (s : State) (n : Nat) (r : StackRegs) : (s.setStack n r).mem = s.mem := rfl
@[simp] theorem State.setStack_hbm (s : State) (n : Nat) (r : StackRegs) : (s.setStack n r).hbm = s.hbm := rfl
@[simp] theorem State.setStack_llc (s : State) (n : Nat) (r : StackRegs) : (s.setStack n r).llc = s.llc := rfl
@[simp] theorem State.setStack_slices (s : State) (n : Nat) (r : StackRegs) : (s.setStack n r).slices = s.slices := rfl
@[simp] theorem State.setStack_stacks (s : State) (n : Nat) (r : StackRegs) : (s.setStack n r).hbmStacks = tset StackRegs.reset s.hbmStacks n r := rfl
@[simp] theorem State.setStack_banks (s : State) (n : Nat) (r : StackRegs) : (s.setStack n r).banks = s.banks := rfl
@[simp] theorem State.setStack_hbmWait (s : State) (n : Nat) (r : StackRegs) : (s.setStack n r).hbmWait = s.hbmWait := rfl
@[simp] theorem State.setStack_sliceIn (s : State) (n : Nat) (r : StackRegs) : (s.setStack n r).sliceIn = s.sliceIn := rfl
@[simp] theorem State.setStack_diePools (s : State) (n : Nat) (r : StackRegs) : (s.setStack n r).diePools = s.diePools := rfl
@[simp] theorem State.setStack_sync (s : State) (n : Nat) (r : StackRegs) : (s.setStack n r).sync = s.sync := rfl
@[simp] theorem State.setStack_link (s : State) (n : Nat) (r : StackRegs) : (s.setStack n r).link = s.link := rfl
@[simp] theorem State.setStack_upd (s : State) (n : Nat) (r : StackRegs) : (s.setStack n r).upd = s.upd := rfl
@[simp] theorem State.setStack_mgmt (s : State) (n : Nat) (r : StackRegs) : (s.setStack n r).mgmt = s.mgmt := rfl
@[simp] theorem State.setStack_evr (s : State) (n : Nat) (r : StackRegs) : (s.setStack n r).evr = s.evr := rfl
@[simp] theorem State.setStack_pmc (s : State) (n : Nat) (r : StackRegs) : (s.setStack n r).pmc = s.pmc := rfl
@[simp] theorem State.setStack_revokeQ (s : State) (n : Nat) (r : StackRegs) : (s.setStack n r).revokeQ = s.revokeQ := rfl
@[simp] theorem State.setStack_alert (s : State) (n : Nat) (r : StackRegs) : (s.setStack n r).alert = s.alert := rfl
@[simp] theorem State.setStack_check (s : State) (n : Nat) (r : StackRegs) : (s.setStack n r).check = s.check := rfl
@[simp] theorem State.setStack_freeCtr (s : State) (n : Nat) (r : StackRegs) : (s.setStack n r).freeCtr = s.freeCtr := rfl
@[simp] theorem State.setStack_pending (s : State) (n : Nat) (r : StackRegs) : (s.setStack n r).pending = s.pending := rfl

/-! ### modMgmt -/

@[simp] theorem State.modMgmt_moduleId (s : State) (f : Mgmt → Mgmt) : (s.modMgmt f).moduleId = s.moduleId := rfl
@[simp] theorem State.modMgmt_time (s : State) (f : Mgmt → Mgmt) : (s.modMgmt f).time = s.time := rfl
@[simp] theorem State.modMgmt_cores (s : State) (f : Mgmt → Mgmt) : (s.modMgmt f).cores = s.cores := rfl
@[simp] theorem State.modMgmt_doms (s : State) (f : Mgmt → Mgmt) : (s.modMgmt f).doms = s.doms := rfl
@[simp] theorem State.modMgmt_sweep (s : State) (f : Mgmt → Mgmt) : (s.modMgmt f).sweep = s.sweep := rfl
@[simp] theorem State.modMgmt_mem (s : State) (f : Mgmt → Mgmt) : (s.modMgmt f).mem = s.mem := rfl
@[simp] theorem State.modMgmt_hbm (s : State) (f : Mgmt → Mgmt) : (s.modMgmt f).hbm = s.hbm := rfl
@[simp] theorem State.modMgmt_llc (s : State) (f : Mgmt → Mgmt) : (s.modMgmt f).llc = s.llc := rfl
@[simp] theorem State.modMgmt_slices (s : State) (f : Mgmt → Mgmt) : (s.modMgmt f).slices = s.slices := rfl
@[simp] theorem State.modMgmt_stacks (s : State) (f : Mgmt → Mgmt) : (s.modMgmt f).hbmStacks = s.hbmStacks := rfl
@[simp] theorem State.modMgmt_banks (s : State) (f : Mgmt → Mgmt) : (s.modMgmt f).banks = s.banks := rfl
@[simp] theorem State.modMgmt_hbmWait (s : State) (f : Mgmt → Mgmt) : (s.modMgmt f).hbmWait = s.hbmWait := rfl
@[simp] theorem State.modMgmt_sliceIn (s : State) (f : Mgmt → Mgmt) : (s.modMgmt f).sliceIn = s.sliceIn := rfl
@[simp] theorem State.modMgmt_diePools (s : State) (f : Mgmt → Mgmt) : (s.modMgmt f).diePools = s.diePools := rfl
@[simp] theorem State.modMgmt_sync (s : State) (f : Mgmt → Mgmt) : (s.modMgmt f).sync = s.sync := rfl
@[simp] theorem State.modMgmt_link (s : State) (f : Mgmt → Mgmt) : (s.modMgmt f).link = s.link := rfl
@[simp] theorem State.modMgmt_upd (s : State) (f : Mgmt → Mgmt) : (s.modMgmt f).upd = s.upd := rfl
@[simp] theorem State.modMgmt_mgmt (s : State) (f : Mgmt → Mgmt) : (s.modMgmt f).mgmt = f s.mgmt := rfl
@[simp] theorem State.modMgmt_evr (s : State) (f : Mgmt → Mgmt) : (s.modMgmt f).evr = s.evr := rfl
@[simp] theorem State.modMgmt_pmc (s : State) (f : Mgmt → Mgmt) : (s.modMgmt f).pmc = s.pmc := rfl
@[simp] theorem State.modMgmt_revokeQ (s : State) (f : Mgmt → Mgmt) : (s.modMgmt f).revokeQ = s.revokeQ := rfl
@[simp] theorem State.modMgmt_alert (s : State) (f : Mgmt → Mgmt) : (s.modMgmt f).alert = s.alert := rfl
@[simp] theorem State.modMgmt_check (s : State) (f : Mgmt → Mgmt) : (s.modMgmt f).check = s.check := rfl
@[simp] theorem State.modMgmt_freeCtr (s : State) (f : Mgmt → Mgmt) : (s.modMgmt f).freeCtr = s.freeCtr := rfl
@[simp] theorem State.modMgmt_pending (s : State) (f : Mgmt → Mgmt) : (s.modMgmt f).pending = s.pending := rfl

/-! ### modEvr -/

@[simp] theorem State.modEvr_moduleId (s : State) (f : Recorder → Recorder) : (s.modEvr f).moduleId = s.moduleId := rfl
@[simp] theorem State.modEvr_time (s : State) (f : Recorder → Recorder) : (s.modEvr f).time = s.time := rfl
@[simp] theorem State.modEvr_cores (s : State) (f : Recorder → Recorder) : (s.modEvr f).cores = s.cores := rfl
@[simp] theorem State.modEvr_doms (s : State) (f : Recorder → Recorder) : (s.modEvr f).doms = s.doms := rfl
@[simp] theorem State.modEvr_sweep (s : State) (f : Recorder → Recorder) : (s.modEvr f).sweep = s.sweep := rfl
@[simp] theorem State.modEvr_mem (s : State) (f : Recorder → Recorder) : (s.modEvr f).mem = s.mem := rfl
@[simp] theorem State.modEvr_hbm (s : State) (f : Recorder → Recorder) : (s.modEvr f).hbm = s.hbm := rfl
@[simp] theorem State.modEvr_llc (s : State) (f : Recorder → Recorder) : (s.modEvr f).llc = s.llc := rfl
@[simp] theorem State.modEvr_slices (s : State) (f : Recorder → Recorder) : (s.modEvr f).slices = s.slices := rfl
@[simp] theorem State.modEvr_stacks (s : State) (f : Recorder → Recorder) : (s.modEvr f).hbmStacks = s.hbmStacks := rfl
@[simp] theorem State.modEvr_banks (s : State) (f : Recorder → Recorder) : (s.modEvr f).banks = s.banks := rfl
@[simp] theorem State.modEvr_hbmWait (s : State) (f : Recorder → Recorder) : (s.modEvr f).hbmWait = s.hbmWait := rfl
@[simp] theorem State.modEvr_sliceIn (s : State) (f : Recorder → Recorder) : (s.modEvr f).sliceIn = s.sliceIn := rfl
@[simp] theorem State.modEvr_diePools (s : State) (f : Recorder → Recorder) : (s.modEvr f).diePools = s.diePools := rfl
@[simp] theorem State.modEvr_sync (s : State) (f : Recorder → Recorder) : (s.modEvr f).sync = s.sync := rfl
@[simp] theorem State.modEvr_link (s : State) (f : Recorder → Recorder) : (s.modEvr f).link = s.link := rfl
@[simp] theorem State.modEvr_upd (s : State) (f : Recorder → Recorder) : (s.modEvr f).upd = s.upd := rfl
@[simp] theorem State.modEvr_mgmt (s : State) (f : Recorder → Recorder) : (s.modEvr f).mgmt = s.mgmt := rfl
@[simp] theorem State.modEvr_evr (s : State) (f : Recorder → Recorder) : (s.modEvr f).evr = f s.evr := rfl
@[simp] theorem State.modEvr_pmc (s : State) (f : Recorder → Recorder) : (s.modEvr f).pmc = s.pmc := rfl
@[simp] theorem State.modEvr_revokeQ (s : State) (f : Recorder → Recorder) : (s.modEvr f).revokeQ = s.revokeQ := rfl
@[simp] theorem State.modEvr_alert (s : State) (f : Recorder → Recorder) : (s.modEvr f).alert = s.alert := rfl
@[simp] theorem State.modEvr_check (s : State) (f : Recorder → Recorder) : (s.modEvr f).check = s.check := rfl
@[simp] theorem State.modEvr_freeCtr (s : State) (f : Recorder → Recorder) : (s.modEvr f).freeCtr = s.freeCtr := rfl
@[simp] theorem State.modEvr_pending (s : State) (f : Recorder → Recorder) : (s.modEvr f).pending = s.pending := rfl

/-! ### Core.setStrand -/

@[simp] theorem Core.setStrand_domain (k : Core) (i : Nat) (t : Strand) : (k.setStrand i t).domain = k.domain := rfl
@[simp] theorem Core.setStrand_strands (k : Core) (i : Nat) (t : Strand) : (k.setStrand i t).strands = tset Strand.reset k.strands i t := rfl
@[simp] theorem Core.setStrand_last (k : Core) (i : Nat) (t : Strand) : (k.setStrand i t).last = k.last := rfl
@[simp] theorem Core.setStrand_ibufs (k : Core) (i : Nat) (t : Strand) : (k.setStrand i t).ibufs = k.ibufs := rfl
@[simp] theorem Core.setStrand_wbuf (k : Core) (i : Nat) (t : Strand) : (k.setStrand i t).wbuf = k.wbuf := rfl
@[simp] theorem Core.setStrand_serial (k : Core) (i : Nat) (t : Strand) : (k.setStrand i t).serial = k.serial := rfl
@[simp] theorem Core.setStrand_l1d (k : Core) (i : Nat) (t : Strand) : (k.setStrand i t).l1d = k.l1d := rfl
@[simp] theorem Core.setStrand_l1i (k : Core) (i : Nat) (t : Strand) : (k.setStrand i t).l1i = k.l1i := rfl
@[simp] theorem Core.setStrand_l1dCount (k : Core) (i : Nat) (t : Strand) : (k.setStrand i t).l1dCount = k.l1dCount := rfl
@[simp] theorem Core.setStrand_l1iCount (k : Core) (i : Nat) (t : Strand) : (k.setStrand i t).l1iCount = k.l1iCount := rfl
@[simp] theorem Core.setStrand_tlb (k : Core) (i : Nat) (t : Strand) : (k.setStrand i t).tlb = k.tlb := rfl
@[simp] theorem Core.setStrand_int (k : Core) (i : Nat) (t : Strand) : (k.setStrand i t).int = k.int := rfl
@[simp] theorem Core.setStrand_tiles (k : Core) (i : Nat) (t : Strand) : (k.setStrand i t).tiles = k.tiles := rfl
@[simp] theorem Core.setStrand_tileEcc (k : Core) (i : Nat) (t : Strand) : (k.setStrand i t).tileEcc = k.tileEcc := rfl
@[simp] theorem Core.setStrand_ord (k : Core) (i : Nat) (t : Strand) : (k.setStrand i t).ord = k.ord := rfl
@[simp] theorem Core.setStrand_mats (k : Core) (i : Nat) (t : Strand) : (k.setStrand i t).mats = k.mats := rfl
@[simp] theorem Core.setStrand_vals (k : Core) (i : Nat) (t : Strand) : (k.setStrand i t).vals = k.vals := rfl
@[simp] theorem Core.setStrand_acc (k : Core) (i : Nat) (t : Strand) : (k.setStrand i t).acc = k.acc := rfl
@[simp] theorem Core.setStrand_str (k : Core) (i : Nat) (t : Strand) : (k.setStrand i t).str = k.str := rfl
@[simp] theorem Core.setStrand_cpy (k : Core) (i : Nat) (t : Strand) : (k.setStrand i t).cpy = k.cpy := rfl
@[simp] theorem Core.setStrand_pst (k : Core) (i : Nat) (t : Strand) : (k.setStrand i t).pst = k.pst := rfl
@[simp] theorem Core.setStrand_pfills (k : Core) (i : Nat) (t : Strand) : (k.setStrand i t).pfills = k.pfills := rfl
@[simp] theorem Core.setStrand_pmc (k : Core) (i : Nat) (t : Strand) : (k.setStrand i t).pmc = k.pmc := rfl

/-! ### Registers of a bank -/

@[simp] theorem Bank.writeV_pc (b : Bank) (r : Nat) (x : W128) : (b.writeV r x).pc = b.pc := rfl
@[simp] theorem Bank.writeV_g (b : Bank) (r : Nat) (x : W128) : (b.writeV r x).g = b.g := rfl
@[simp] theorem Bank.writeV_v (b : Bank) (r : Nat) (x : W128) : (b.writeV r x).v = tset 0 b.v r x := rfl
@[simp] theorem Bank.writeV_h (b : Bank) (r : Nat) (x : W128) : (b.writeV r x).h = b.h := rfl
@[simp] theorem Bank.writeV_lc (b : Bank) (r : Nat) (x : W128) : (b.writeV r x).lc = b.lc := rfl
@[simp] theorem Bank.writeV_lstart (b : Bank) (r : Nat) (x : W128) : (b.writeV r x).lstart = b.lstart := rfl
@[simp] theorem Bank.writeV_lend (b : Bank) (r : Nat) (x : W128) : (b.writeV r x).lend = b.lend := rfl
@[simp] theorem Bank.writeV_gprog (b : Bank) (r : Nat) (x : W128) : (b.writeV r x).gprog = b.gprog := rfl
@[simp] theorem Bank.writeH_pc (b : Bank) (r : Nat) (x : W128) : (b.writeH r x).pc = b.pc := rfl
@[simp] theorem Bank.writeH_g (b : Bank) (r : Nat) (x : W128) : (b.writeH r x).g = b.g := rfl
@[simp] theorem Bank.writeH_v (b : Bank) (r : Nat) (x : W128) : (b.writeH r x).v = b.v := rfl
@[simp] theorem Bank.writeH_h (b : Bank) (r : Nat) (x : W128) : (b.writeH r x).h = tset 0 b.h r x := rfl
@[simp] theorem Bank.writeH_lc (b : Bank) (r : Nat) (x : W128) : (b.writeH r x).lc = b.lc := rfl
@[simp] theorem Bank.writeH_lstart (b : Bank) (r : Nat) (x : W128) : (b.writeH r x).lstart = b.lstart := rfl
@[simp] theorem Bank.writeH_lend (b : Bank) (r : Nat) (x : W128) : (b.writeH r x).lend = b.lend := rfl
@[simp] theorem Bank.writeH_gprog (b : Bank) (r : Nat) (x : W128) : (b.writeH r x).gprog = b.gprog := rfl
@[simp] theorem Bank.writeG_pc (b : Bank) (r : Nat) (x : W64) : (b.writeG r x).pc = b.pc := by unfold Bank.writeG; split <;> rfl
@[simp] theorem Bank.writeG_v (b : Bank) (r : Nat) (x : W64) : (b.writeG r x).v = b.v := by unfold Bank.writeG; split <;> rfl
@[simp] theorem Bank.writeG_h (b : Bank) (r : Nat) (x : W64) : (b.writeG r x).h = b.h := by unfold Bank.writeG; split <;> rfl
@[simp] theorem Bank.writeG_lc (b : Bank) (r : Nat) (x : W64) : (b.writeG r x).lc = b.lc := by unfold Bank.writeG; split <;> rfl
@[simp] theorem Bank.writeG_lstart (b : Bank) (r : Nat) (x : W64) : (b.writeG r x).lstart = b.lstart := by unfold Bank.writeG; split <;> rfl
@[simp] theorem Bank.writeG_lend (b : Bank) (r : Nat) (x : W64) : (b.writeG r x).lend = b.lend := by unfold Bank.writeG; split <;> rfl
@[simp] theorem Bank.writeG_gprog (b : Bank) (r : Nat) (x : W64) : (b.writeG r x).gprog = b.gprog := by unfold Bank.writeG; split <;> rfl

/-- R85: g0 reads zero. -/
@[simp] theorem Bank.readG_zero (b : Bank) : b.readG 0 = 0 := rfl

/-- R85: a write of g_r is read back, and a write of g0 is discarded. -/
theorem Bank.readG_writeG (b : Bank) (r i : Nat) (x : W64) :
    (b.writeG r x).readG i = if i = r ∧ i ≠ 0 then x else b.readG i := by
  unfold Bank.writeG Bank.readG
  by_cases hr : r = 0
  · subst hr; simp
  · simp only [hr, if_false, tget_tset]; by_cases hi : i = 0 <;> by_cases h : i = r <;> simp_all

theorem Bank.readV_writeV (b : Bank) (r i : Nat) (x : W128) :
    (b.writeV r x).readV i = if i = r then x else b.readV i := by simp [Bank.readV, tget_tset]

theorem Bank.readH_writeH (b : Bank) (r i : Nat) (x : W128) :
    (b.writeH r x).readH i = if i = r then x else b.readH i := by simp [Bank.readH, tget_tset]

@[simp] theorem Bank.readV_writeG (b : Bank) (r i : Nat) (x : W64) : (b.writeG r x).readV i = b.readV i := by
  simp [Bank.readV]
@[simp] theorem Bank.readH_writeG (b : Bank) (r i : Nat) (x : W64) : (b.writeG r x).readH i = b.readH i := by
  simp [Bank.readH]
@[simp] theorem Bank.readG_writeV (b : Bank) (r i : Nat) (x : W128) : (b.writeV r x).readG i = b.readG i := rfl
@[simp] theorem Bank.readH_writeV (b : Bank) (r i : Nat) (x : W128) : (b.writeV r x).readH i = b.readH i := rfl
@[simp] theorem Bank.readG_writeH (b : Bank) (r i : Nat) (x : W128) : (b.writeH r x).readG i = b.readG i := rfl
@[simp] theorem Bank.readV_writeH (b : Bank) (r i : Nat) (x : W128) : (b.writeH r x).readV i = b.readV i := rfl

/-! ### Reading after a write -/

theorem State.core_setCore (s : State) (c j : Nat) (k : Core) :
    (s.setCore c k).core j = if j = c then k else s.core j := by simp [State.core, tget_tset]

@[simp] theorem State.core_setCore_same (s : State) (c : Nat) (k : Core) : (s.setCore c k).core c = k := by
  simp [State.core]

theorem Core.strand_setStrand (k : Core) (i j : Nat) (t : Strand) :
    (k.setStrand i t).strand j = if j = i then t else k.strand j := by simp [Core.strand, tget_tset]

@[simp] theorem Core.strand_setStrand_same (k : Core) (i : Nat) (t : Strand) : (k.setStrand i t).strand i = t := by
  simp [Core.strand]

@[simp] theorem Strand.bank_setBank (t : Strand) (b : Bank) : (t.setBank b).bank = b := by
  unfold Strand.setBank Strand.bank; cases h : t.cur <;> rfl

@[simp] theorem State.core_modCore_same (s : State) (c : Nat) (f : Core → Core) :
    (s.modCore c f).core c = f (s.core c) := by simp [State.modCore]

theorem State.core_modCore_other (s : State) {c j : Nat} (f : Core → Core) (h : j ≠ c) :
    (s.modCore c f).core j = s.core j := by simp [State.modCore, State.core_setCore, h]

@[simp] theorem State.strand_setStrand_same (s : State) (w : Site) (t : Strand) : (s.setStrand w t).strand w = t := by
  simp [State.strand, State.setStrand]

theorem State.strand_setStrand_other (s : State) {w v : Site} (t : Strand) (h : v ≠ w) :
    (s.setStrand w t).strand v = s.strand v := by
  unfold State.strand State.setStrand
  by_cases hc : v.core.val = w.core.val
  · rw [hc, State.core_modCore_same, Core.strand_setStrand, if_neg]
    intro hs
    exact h (by cases v; cases w; simp_all [Fin.ext_iff])
  · rw [State.core_modCore_other _ _ hc]

@[simp] theorem State.strand_modStrand_same (s : State) (w : Site) (f : Strand → Strand) :
    (s.modStrand w f).strand w = f (s.strand w) := by simp [State.modStrand]

@[simp] theorem State.bank_modBank_same (s : State) (w : Site) (f : Bank → Bank) :
    (s.modBank w f).bank w = f (s.bank w) := by simp [State.modBank, State.bank]

end Sys2Proof.Machine
end

