-- ==== Sys2Proof/Laws/Issue.lean ====
section
/-! SUPPORT. What issuing an instruction does around its effect: the counts, the issue itself, and the completion of
an instruction that writes the strand's running bank. -/

namespace Sys2Proof.Machine

/-- A property that every step of a fold keeps. -/
theorem foldl_keeps {α β : Type} {P : α → Prop} {f : α → β → α} (hf : ∀ a b, P a → P (f a b)) :
    ∀ (l : List β) (a : α), P a → P (l.foldl f a)
  | [], _, h => h
  | b :: l, a, h => foldl_keeps hf l (f a b) (hf a b h)

/-- `t` differs from `s` only in the event counters of strand `w`'s core, the interrupts these make pending, the strand that issued
last, the ages of L1I lines and what `w` has buffered of its instructions (R90, R94, R332, R509). -/
def Counted (w : Site) (s t : State) : Prop :=
  t = { s with cores := t.cores } ∧ (∀ j, j ≠ w.core.val → t.core j = s.core j) ∧
  (∃ k l p i q, t.core w.core.val =
    { s.core w.core.val with last := k, l1i := l, ibufs := q, pmc := p, int := { (s.core w.core.val).int with ipend := i } }) ∧
  ∀ j, j ≠ w.strand.val → (t.core w.core.val).ibuf j = (s.core w.core.val).ibuf j

theorem Counted.refl (w : Site) (s : State) : Counted w s s := ⟨rfl, fun _ _ => rfl, ⟨_, _, _, _, _, rfl⟩, fun _ _ => rfl⟩

theorem Counted.trans {w : Site} {s t u : State} (h : Counted w s t) (g : Counted w t u) : Counted w s u := by
  obtain ⟨h1, h2, ⟨k, l, p, i, q, h3⟩, h4⟩ := h
  obtain ⟨g1, g2, ⟨k', l', p', i', q', g3⟩, g4⟩ := g
  exact ⟨by rw [g1, h1], fun j hj => (g2 j hj).trans (h2 j hj), ⟨k', l', p', i', q', by rw [g3, h3]⟩, fun j hj => (g4 j hj).trans (h4 j hj)⟩

/-- What counting in a core can change (R507, R509). -/
theorem Core.count_changes (k : Core) (ev st n : Nat) :
    ∃ p i, k.count ev st n = { k with pmc := p, int := { k.int with ipend := i } } := by
  unfold Core.count
  split
  · exact ⟨_, _, rfl⟩
  · refine foldl_keeps (P := fun k' => ∃ p i, k' = { k with pmc := p, int := { k.int with ipend := i } }) ?_ _ _
      ⟨k.pmc, k.int.ipend, rfl⟩
    rintro _ b ⟨p, i, rfl⟩
    dsimp only
    split
    · refine foldl_keeps (P := fun k' => ∃ p i, k' = { k with pmc := p, int := { k.int with ipend := i } }) ?_ _ _
        ⟨(pmcAddChain true 16 p b (min n 65535)).1, i, rfl⟩
      rintro _ v ⟨p, i, rfl⟩
      exact ⟨_, _, rfl⟩
    · exact ⟨_, _, rfl⟩

/-- What counting an event of a core can change. -/
theorem State.count_changes (s : State) (w : Site) (ev st n : Nat) : Counted w s (s.count w.core.val ev st n) := by
  unfold State.count
  split
  · exact Counted.refl w s
  · obtain ⟨p, i, h⟩ := Core.count_changes (s.core w.core.val) ev st n
    refine ⟨rfl, fun j hj => State.core_modCore_other _ _ hj,
      ⟨(s.core w.core.val).last, (s.core w.core.val).l1i, p, i, (s.core w.core.val).ibufs, ?_⟩, fun j _ => ?_⟩
    · rw [State.core_modCore_same, h]
    · rw [State.core_modCore_same, h]; rfl

/-- What the bookkeeping of an issue can change (R90, R94). -/
theorem State.noteIssue_changes (s : State) (w : Site) (pa : Nat) : Counted w s (s.noteIssue w pa) := by
  unfold State.noteIssue
  refine Counted.trans ?_ (State.count_changes _ _ _ _ _)
  refine ⟨rfl, fun j hj => State.core_modCore_other _ _ hj, ⟨_, _, _, _, _, State.core_modCore_same _ _ _⟩, fun j hj => ?_⟩
  rw [State.core_modCore_same]
  simp [Core.ibuf, tget_tset, hj]

/-- What taking instructions into the buffer can change (R94). -/
theorem State.refill_changes (s : State) (w : Site) : Counted w s (s.refill w) := by
  unfold State.refill
  dsimp only
  split
  · exact Counted.refl w s
  · refine ⟨rfl, fun j hj => by simp [State.core_setCore, hj], ⟨_, _, _, _, _, State.core_setCore_same _ _ _⟩, fun j hj => ?_⟩
    rw [State.core_setCore_same]
    simp [Core.ibuf, tget_tset, hj]

namespace Counted

variable {u : Site} {s t : State}

theorem strand (h : Counted u s t) (v : Site) : t.strand v = s.strand v := by
  obtain ⟨_, h2, ⟨k, l, p, i, q, h3⟩, _⟩ := h
  unfold State.strand
  by_cases hv : v.core.val = u.core.val
  · rw [hv, h3]; rfl
  · rw [h2 _ hv]

theorem bank (h : Counted u s t) (v : Site) : t.bank v = s.bank v := by unfold State.bank; rw [h.strand]
theorem g (h : Counted u s t) (v : Site) (r : RegField) : t.g v r = s.g v r := by unfold State.g; rw [h.bank]
theorem v (h : Counted u s t) (w : Site) (r : RegField) : t.v w r = s.v w r := by unfold State.v; rw [h.bank]
theorem h (h : Counted u s t) (w : Site) (r : Nat) : t.h w r = s.h w r := by unfold State.h; rw [h.bank]
theorem pcOf (h : Counted u s t) (w : Site) : t.pcOf w = s.pcOf w := by unfold State.pcOf; rw [h.bank]
theorem time (h : Counted u s t) : t.time = s.time := by rw [h.1]

end Counted

/-- R90, R91: a strand that is ready issues: its instruction's own effect runs on the state the bookkeeping leaves. -/
theorem State.issue_ready {s : State} {w : Site} {uses : List RegRef} (h : s.ready w uses = true) (body : State → Res) :
    ∃ t, Counted w s t ∧ s.issue w uses body = s.settle w (body t) := by
  unfold State.ready State.canIssue at h
  simp only [Bool.and_eq_true, decide_eq_true_eq, Bool.not_eq_true'] at h
  obtain ⟨hp, ⟨⟨⟨hr, hk⟩, hv⟩, hf⟩, ha⟩ := h
  have hm : (s.strand w).awaitsMiss uses = false := by
    unfold Strand.awaits at ha; simp only [Bool.or_eq_false_iff] at ha; exact ha.1
  have hi : (s.nextVector w).isSome = false := by cases hn : s.nextVector w <;> simp_all
  unfold State.issue
  cases hfe : s.fetchAt w with
  | ok pa =>
    refine ⟨s.noteIssue w pa, State.noteIssue_changes s w pa, ?_⟩
    simp [hp, hr, hk, ha, hm, hi]
  | fault f => simp [hfe] at hf
  | park p => simp [hfe] at hf

/-- R99: the end-of-loop step, or the next address. -/
theorem Bank.advance_spec (b : Bank) : Advanced b b.advance := by
  have e : ¬b.lc = 1#64 → ¬b.lc - 1#64 = 0#64 := by intro h g; apply h; bv_omega
  unfold Bank.advance Advanced
  by_cases h1 : b.lc = 0#64
  · simp [h1]
  · by_cases h2 : b.pc = b.lend
    · by_cases h3 : b.lc = 1#64
      · simp [h2, h3]
      · simp [h1, h2, h3, e h3]
    · simp [h2]

@[simp] theorem Bank.advance_readG (b : Bank) (r : Nat) : b.advance.readG r = b.readG r := by
  unfold Bank.advance; split <;> (try split) <;> rfl
@[simp] theorem Bank.advance_readV (b : Bank) (r : Nat) : b.advance.readV r = b.readV r := by
  unfold Bank.advance; split <;> (try split) <;> rfl
@[simp] theorem Bank.advance_readH (b : Bank) (r : Nat) : b.advance.readH r = b.readH r := by
  unfold Bank.advance; split <;> (try split) <;> rfl
@[simp] theorem Bank.advance_gprog (b : Bank) : b.advance.gprog = b.gprog := by
  unfold Bank.advance; split <;> (try split) <;> rfl

/-! ### Instructions that write the running bank only -/

theorem Site.core_ne {v w : Site} (h : v ≠ w) (hc : v.core.val = w.core.val) : v.strand.val ≠ w.strand.val := by
  intro hs
  exact h (by cases v; cases w; simp_all [Fin.ext_iff])

theorem Elsewhere.of_counted {w : Site} {s t : State} (h : Counted w s t) : Elsewhere w s t := by
  refine ⟨h.1, h.2.1, ?_, fun v hv => ⟨h.strand v, ?_⟩⟩
  · obtain ⟨k, l, p, i, q, e⟩ := h.2.2.1
    exact ⟨k, by rw [e]⟩
  · by_cases hc : v.core.val = w.core.val
    · rw [hc]; exact h.2.2.2 _ (Site.core_ne hv hc)
    · rw [h.2.1 _ hc]

@[simp] theorem Strand.setBank_bank (t : Strand) : t.setBank t.bank = t := by
  unfold Strand.setBank Strand.bank
  cases h : t.cur <;> (cases t; simp_all)

theorem OnlyBank.of_counted {w : Site} {s t : State} (h : Counted w s t) : OnlyBank w s t := by
  refine ⟨.of_counted h, ?_⟩
  rw [h.strand, h.bank]
  exact (Strand.setBank_bank _).symm

/-- A change of strand `w` changes nothing elsewhere. -/
theorem Elsewhere.modStrand {w : Site} {s t : State} (h : Elsewhere w s t) (f : Strand → Strand) :
    Elsewhere w s (t.modStrand w f) := by
  obtain ⟨h1, h2, ⟨k, h3⟩, h4⟩ := h
  refine ⟨?_, fun c hc => ?_, ⟨k, ?_⟩, fun v hv => ?_⟩
  · unfold State.modStrand State.setStrand State.modCore State.setCore
    rw [h1]
  · unfold State.modStrand State.setStrand
    rw [State.core_modCore_other _ _ hc, h2 c hc]
  · unfold State.modStrand State.setStrand
    rw [State.core_modCore_same]
    unfold Core.setStrand
    rw [h3]
  · unfold State.modStrand
    rw [State.strand_setStrand_other _ _ hv]
    refine ⟨(h4 v hv).1, Eq.trans ?_ (h4 v hv).2⟩
    unfold State.setStrand
    by_cases hc : v.core.val = w.core.val
    · rw [hc, State.core_modCore_same]; rfl
    · rw [State.core_modCore_other _ _ hc]

@[simp] theorem Strand.setBank_setBank (t : Strand) (a b : Bank) : (t.setBank a).setBank b = t.setBank b := by
  cases h : t.cur <;> simp [Strand.setBank, h]

/-- A change of strand `w`'s running bank changes nothing but that bank. -/
theorem OnlyBank.modBank {w : Site} {s t : State} (h : OnlyBank w s t) (f : Bank → Bank) :
    OnlyBank w s (t.modBank w f) := by
  refine ⟨h.1.modStrand _, ?_⟩
  unfold State.modBank
  rw [State.strand_modStrand_same, h.2]
  simp [State.bank, State.strand_modStrand_same]

/-- What an issue's bookkeeping touches is no register. -/
theorem OnlyBank.counted {w : Site} {s t u : State} (h : OnlyBank w s t) (g : Counted w t u) : OnlyBank w s u := by
  obtain ⟨⟨h1, h2, ⟨k, h3⟩, h4⟩, h5⟩ := h
  refine ⟨⟨by rw [g.1, h1], fun c hc => (g.2.1 c hc).trans (h2 c hc), ?_, fun v hv => ⟨(g.strand v).trans (h4 v hv).1, ?_⟩⟩, ?_⟩
  · obtain ⟨k', l, p, i, q, e⟩ := g.2.2.1
    exact ⟨k', by rw [e, h3]⟩
  · refine Eq.trans ?_ (h4 v hv).2
    by_cases hc : v.core.val = w.core.val
    · rw [hc]; exact g.2.2.2 _ (Site.core_ne hv hc)
    · rw [g.2.1 _ hc]
  · rw [g.strand, g.bank, h5]

/-- The effect of writing g_d and going on. -/
theorem writesG_done {w : Site} {s t : State} (h : Counted w s t) (d : RegField) (x : W64) :
    WritesG w d x s (((t.setG w d x).retire w).refill w) := by
  have hf := State.refill_changes ((t.setG w d x).retire w) w
  have hb : (((t.setG w d x).retire w).refill w).bank w = ((s.bank w).writeG d.toNat x).advance := by
    rw [hf.bank]; simp [State.retire, State.setG, h.bank]
  unfold WritesG SameV SameH
  rw [hb]
  refine ⟨(((OnlyBank.of_counted h).modBank _).modBank _).counted hf, ?_, by simp, by simp, by simp, by simp, fun hd => ?_, fun r hr => ?_⟩
  · have := Bank.advance_spec ((s.bank w).writeG d.toNat x)
    simpa [Advanced] using this
  · have : d.toNat ≠ 0 := by intro h; apply hd; exact BitVec.eq_of_toNat_eq (by simpa using h)
    simp [Bank.readG_writeG, this]
  · simp [Bank.readG_writeG, hr]

end Sys2Proof.Machine
end

