-- ==== Sys2Proof/Laws/Memory.lean ====
section
/-! SUPPORT. Memory: what reading after writing gives, and that every operation on memory keeps its canonical form, in both
views (what the homes serve and what the stacks hold). -/

namespace Sys2Proof.Machine

/-- Writing bytes changes those addresses and no other. -/
theorem tget_memPut (m : List Host.Cell) (a : Nat) (b : List Byte) (k : Nat) :
    tget memDefault (memPut m a b) k = if a ≤ k ∧ k < a + b.length then b.getD (k - a) 0 else tget memDefault m k := by
  induction b generalizing m a with
  | nil =>
    have : ¬(a ≤ k ∧ k < a + ([] : List Byte).length) := by simp
    rw [if_neg this, memPut]
  | cons x t ih =>
    simp only [memPut, ih, tget_tset, List.length_cons]
    by_cases h : k = a
    · subst h
      have h1 : ¬(k + 1 ≤ k ∧ k < k + 1 + t.length) := by omega
      have h2 : k ≤ k ∧ k < k + (t.length + 1) := by omega
      rw [if_neg h1, if_pos h2, if_pos rfl, Nat.sub_self, List.getD_cons_zero]
    · by_cases h' : a + 1 ≤ k ∧ k < a + 1 + t.length
      · obtain ⟨j, hj⟩ : ∃ j, k - a = j + 1 := ⟨k - a - 1, by omega⟩
        have e : k - (a + 1) = j := by omega
        have h2 : a ≤ k ∧ k < a + (t.length + 1) := by omega
        rw [if_pos h', if_pos h2, hj, e, List.getD_cons_succ]
      · have h2 : ¬(a ≤ k ∧ k < a + (t.length + 1)) := by omega
        rw [if_neg h', if_neg h2, if_neg h]

/-- Reading back the bytes just written. -/
theorem memBytes_memPut_same (m : List Host.Cell) (a : Nat) (b : List Byte) : memBytes (memPut m a b) a b.length = b := by
  apply List.ext_getElem
  · simp [memBytes]
  · intro i h1 h2
    have h3 : i < b.length := h2
    simp [memBytes, tget_memPut, h3]

/-- Bytes outside the written ones read as before. -/
theorem memBytes_memPut_other (m : List Host.Cell) (a : Nat) (b : List Byte) (x n : Nat) (h : x + n ≤ a ∨ a + b.length ≤ x) :
    memBytes (memPut m a b) x n = memBytes m x n := by
  unfold memBytes
  apply List.map_congr_left
  intro i hi
  have hi : i < n := by simpa using hi
  have : ¬(a ≤ x + i ∧ x + i < a + b.length) := by omega
  simp [tget_memPut, this]

/-- Writing bytes keeps the canonical form. -/
theorem memPut_wf {m : List Host.Cell} (a : Nat) (b : List Byte) (h : Memory.wf m = true) : Memory.wf (memPut m a b) = true := by
  induction b generalizing m a with
  | nil => exact h
  | cons x t ih => exact ih (a + 1) (tset_wf h)

/-- Copying a line keeps the canonical form of the memory it goes to. -/
theorem copyLine_wf {dst : List Host.Cell} (src : List Host.Cell) (line : Nat) (h : Memory.wf dst = true) :
    Memory.wf (copyLine src dst line) = true := memPut_wf _ _ h

/-- Both views of memory are in their canonical form. -/
def MemOk (s : State) : Prop := Memory.wf s.mem = true ∧ Memory.wf s.hbm = true

/-- The reset memory is in its canonical form. -/
theorem reset_memOk : MemOk State.reset := ⟨rfl, rfl⟩

/-- A state with the same memory. -/
theorem MemOk.of_eq {s t : State} (h : MemOk s) (hm : t.mem = s.mem) (hh : t.hbm = s.hbm) : MemOk t := by
  unfold MemOk; rw [hm, hh]; exact h

@[simp] theorem MemOk.setLlc {s : State} {k : Nat} {x : LlcSet} : MemOk (s.setLlc k x) ↔ MemOk s := Iff.rfl
@[simp] theorem MemOk.setStack {s : State} {k : Nat} {x : StackRegs} : MemOk (s.setStack k x) ↔ MemOk s := Iff.rfl
@[simp] theorem MemOk.setSlice {s : State} {k : Nat} {x : SliceRegs} : MemOk (s.setSlice k x) ↔ MemOk s := Iff.rfl
@[simp] theorem MemOk.setCore {s : State} {k : Nat} {x : Core} : MemOk (s.setCore k x) ↔ MemOk s := Iff.rfl
@[simp] theorem MemOk.modCore {s : State} {k : Nat} {f : Core → Core} : MemOk (s.modCore k f) ↔ MemOk s := Iff.rfl
@[simp] theorem MemOk.setDom {s : State} {k : Nat} {x : Domain} : MemOk (s.setDom k x) ↔ MemOk s := Iff.rfl
@[simp] theorem MemOk.modMgmt {s : State} {f : Mgmt → Mgmt} : MemOk (s.modMgmt f) ↔ MemOk s := Iff.rfl
@[simp] theorem MemOk.modEvr {s : State} {f : Recorder → Recorder} : MemOk (s.modEvr f) ↔ MemOk s := Iff.rfl
@[simp] theorem MemOk.withBanks {s : State} {x : Table (List HbmReq)} : MemOk { s with banks := x } ↔ MemOk s := Iff.rfl
@[simp] theorem MemOk.withCheck {s : State} {x : ErrMap} : MemOk { s with check := x } ↔ MemOk s := Iff.rfl
@[simp] theorem MemOk.withWait {s : State} {x : Table (List HbmReq)} : MemOk { s with hbmWait := x } ↔ MemOk s := Iff.rfl
@[simp] theorem MemOk.withPmc {s : State} {x : DiePmc} : MemOk { s with pmc := x } ↔ MemOk s := Iff.rfl

/-- Both branches keep the canonical form. -/
theorem MemOk.ite {p : Prop} [Decidable p] {s t : State} (hs : MemOk s) (ht : MemOk t) : MemOk (if p then s else t) := by
  split <;> assumption

/-- A fold keeps the canonical form when each of its steps does. -/
theorem MemOk.foldl {β : Type} {f : State → β → State} (hf : ∀ s b, MemOk s → MemOk (f s b)) (l : List β) {s : State} (h : MemOk s) :
    MemOk (l.foldl f s) := foldl_keeps (P := MemOk) hf l s h

@[simp] theorem MemOk.pendVec {s : State} {c v : Nat} : MemOk (s.pendVec c v) ↔ MemOk s := Iff.rfl

@[simp] theorem MemOk.raiseN {s : State} {code : Nat} {src : Src} {v n : Nat} {d : DomNo} {arg : Nat} :
    MemOk (s.raiseN code src v n d arg) ↔ MemOk s := Iff.rfl

@[simp] theorem MemOk.raise {s : State} {code : Nat} {src : Src} {v : Nat} {d : DomNo} {arg : Nat} :
    MemOk (s.raise code src v d arg) ↔ MemOk s := Iff.rfl

theorem MemOk.countDie {s : State} (d ev i w : Nat) (h : MemOk s) : MemOk (s.countDie d ev i w) := by
  unfold State.countDie
  dsimp only
  split
  · exact h
  · refine MemOk.foldl (fun s n hs => ?_) _ h
    split
    · refine MemOk.foldl (fun s v hs => ?_) _ (by simpa using hs)
      split
      · simpa using hs
      · exact hs
    · exact hs

/-- Wanting a revocation changes no memory. -/
theorem MemOk.wantRevoke {s : State} (d : DomNo) (h : MemOk s) : MemOk (s.wantRevoke d) := by
  unfold State.wantRevoke
  split <;> exact h

/-- A request that enters its bank queue, its slice's overflow or the slice's input changes no memory. -/
theorem MemOk.hbmOffer {s : State} (r : HbmReq) (h : MemOk s) : MemOk (s.hbmOffer r) := by
  unfold State.hbmOffer
  dsimp only
  repeat' split
  all_goals exact h

theorem MemOk.hbmEnqueue {s : State} (line : Nat) (w : Bool) (h : MemOk s) : MemOk (s.hbmEnqueue line w) := by
  unfold State.hbmEnqueue
  dsimp only
  split
  · exact MemOk.countDie _ _ _ _ (MemOk.hbmOffer _ h)
  · exact MemOk.hbmOffer _ h

theorem MemOk.modLine {s : State} (line : Nat) (f : LineSt → LineSt) (h : MemOk s) : MemOk (s.modLine line f) := by
  unfold State.modLine
  dsimp only
  split <;> exact h

/-- Poisoning a line keeps the canonical form. -/
theorem MemOk.poisonLine {s : State} (line : Nat) (h : MemOk s) : MemOk (s.poisonLine line) := by
  have g := MemOk.modLine line (fun st => { st with poisoned := true }) h
  unfold State.poisonLine
  generalize List.replicate 128 (0 : Byte) = z
  exact MemOk.wantRevoke _ ⟨memPut_wf _ _ g.1, g.2⟩

theorem MemOk.dropLine {s : State} (line : Nat) (h : MemOk s) : MemOk (s.dropLine line) := by
  unfold State.dropLine
  dsimp only
  split <;> exact h

theorem MemOk.fillCheck {s : State} (line : Nat) (h : MemOk s) : MemOk (s.fillCheck line) :=
  MemOk.ite h (MemOk.ite (MemOk.poisonLine _ h) (MemOk.dropLine _ h))

/-- The check of a slot keeps the canonical form. -/
theorem MemOk.slotErr {s : State} (line : Nat) (e : MemErr) (h : MemOk s) : MemOk (s.slotErr line e) := by
  unfold State.slotErr
  dsimp only
  repeat' split
  all_goals first
    | exact h
    | exact MemOk.poisonLine _ h
    | exact MemOk.fillCheck _ (MemOk.hbmEnqueue _ _ h)

theorem MemOk.slotCheck {s : State} (line : Nat) (h : MemOk s) : MemOk (s.slotCheck line) := by
  have g : MemOk ((s.lineErrs line isArrayErr).foldl (fun s e => if e = .corrected then s.slotErr line e else s) s) :=
    MemOk.foldl (fun _ _ hs => MemOk.ite (MemOk.slotErr _ _ hs) hs) _ h
  exact MemOk.ite (MemOk.slotErr _ _ g) g

/-- An eviction keeps the canonical form. -/
theorem MemOk.evictLine {s : State} (line : Nat) (l : LineSt) (h : MemOk s) : MemOk (s.evictLine line l) := by
  unfold State.evictLine
  extract_lets u
  have g : MemOk u := MemOk.ite (MemOk.slotCheck _ h) h
  refine MemOk.ite ⟨copyLine_wf _ _ g.1, g.2⟩ (MemOk.ite ?_ g)
  exact MemOk.hbmEnqueue _ _ (MemOk.countDie _ _ _ _ ⟨g.1, copyLine_wf _ _ g.2⟩)

theorem MemOk.evictWay {s : State} (key w : Nat) (h : MemOk s) : MemOk (s.evictWay key w) := by
  unfold State.evictWay
  dsimp only
  repeat' split
  all_goals first | exact h | exact MemOk.evictLine _ _ h | exact MemOk.evictLine _ _ (MemOk.evictLine _ _ h)

theorem MemOk.fillWait {s : State} (key : Nat) (f : WaitFill) (h : MemOk s) : MemOk (s.fillWait key f) :=
  MemOk.raise.2 (MemOk.countDie _ _ _ _ h)

theorem MemOk.pinLine {s : State} (line : Nat) (h : MemOk s) : MemOk (s.pinLine line) := by
  unfold State.pinLine
  dsimp only
  repeat' split
  all_goals first | exact h | exact MemOk.raise.2 (MemOk.countDie _ _ _ _ h) | exact MemOk.modLine _ _ h

theorem MemOk.enterWay {s : State} (key w line : Nat) (st : LineSt) (age : Nat) (h : MemOk s) :
    MemOk (s.enterWay key w line st age) := MemOk.setLlc.2 (MemOk.evictWay _ _ h)

/-- Filling a line keeps the canonical form. -/
theorem MemOk.place {s : State} (line : Nat) (st : LineSt) (age : Nat) (keep : Bool) (h : MemOk s) :
    MemOk (s.place line st age keep) := by
  unfold State.place
  extract_lets key x u
  have g : MemOk u := by
    simp only [u]
    repeat' split
    · exact MemOk.countDie _ _ _ _ h
    · exact MemOk.enterWay _ _ _ _ _ h
    · exact MemOk.fillWait _ _ h
  exact MemOk.ite (MemOk.pinLine _ g) g

/-- A chaff drop keeps the canonical form. -/
theorem MemOk.chaffDrop {s : State} (line : Nat) (h : MemOk s) : MemOk (s.chaffDrop line) := by
  have g := MemOk.dropLine line h
  exact MemOk.countDie _ _ _ _ ⟨copyLine_wf _ _ g.1, g.2⟩

theorem MemOk.splitSlot {s : State} (line way : Nat) (h : MemOk s) : MemOk (s.splitSlot line way) := by
  unfold State.splitSlot
  dsimp only
  repeat' split
  all_goals first | exact h | exact MemOk.fillWait _ _ h | exact MemOk.enterWay _ _ _ _ _ h

theorem MemOk.fillInto {s : State} (key w : Nat) (f : WaitFill) (h : MemOk s) : MemOk (s.fillInto key w f) := by
  unfold State.fillInto
  dsimp only
  repeat' split
  all_goals first
    | exact h
    | exact MemOk.enterWay _ _ _ _ _ h
    | exact MemOk.pinLine _ (MemOk.enterWay _ _ _ _ _ h)

theorem MemOk.resumeFill {s : State} (key w : Nat) (h : MemOk s) : MemOk (s.resumeFill key w) := by
  unfold State.resumeFill
  split
  · exact h
  · exact MemOk.fillInto _ _ _ h

/-- Releasing a lock keeps the canonical form. -/
theorem MemOk.unlockSlot {s : State} (key way : Nat) (h : MemOk s) : MemOk (s.unlockSlot key way) := by
  unfold State.unlockSlot
  extract_lets x sl u drop v
  have hd (a : State) (l : Option LineSt) (n : Nat) (g : MemOk a) : MemOk (drop a l n) := MemOk.ite (MemOk.chaffDrop _ g) g
  have g : MemOk v := hd _ _ _ (hd _ _ _ h)
  exact MemOk.ite h (MemOk.ite g (MemOk.resumeFill _ _ g))

theorem MemOk.awaitLock {s : State} (key line : Nat) (h : MemOk s) : MemOk (s.awaitLock key line) := by
  unfold State.awaitLock
  split
  · exact MemOk.unlockSlot _ _ h
  · exact h

theorem MemOk.llcArrive {s : State} (line : Nat) (last : Bool) (h : MemOk s) : MemOk (s.llcArrive line last) :=
  MemOk.slotCheck _ (MemOk.ite h (MemOk.awaitLock _ _ h))

theorem MemOk.chaffMark {s : State} (line : Nat) (h : MemOk s) : MemOk (s.chaffMark line) := by
  unfold State.chaffMark
  dsimp only
  split
  · exact MemOk.ite (MemOk.modLine _ _ h) (MemOk.chaffDrop _ h)
  · exact h

/-- An access at a home slice keeps the canonical form. -/
theorem MemOk.llcTouch {s : State} (pa : Nat) (w : Bool) (hint : Nat) (pin chaff : Bool) (h : MemOk s) :
    MemOk (s.llcTouch pa w hint pin chaff) := by
  unfold State.llcTouch
  extract_lets line key last hint' keep x u1 u2 src v srcL
  have hc (a b c d : Nat) : MemOk (s.countDie a b c d) := MemOk.countDie _ _ _ _ h
  split
  · extract_lets sl st src' z0 y z
    have g2 : MemOk y := MemOk.ite (MemOk.splitSlot _ _ (MemOk.setLlc.2 (hc _ _ _ _))) (MemOk.setLlc.2 (hc _ _ _ _))
    have g3 : MemOk z := MemOk.ite (MemOk.pinLine _ g2) g2
    exact MemOk.ite (MemOk.chaffMark _ g3) g3
  · have g : MemOk u2 := hc _ _ _ _
    split
    · extract_lets rest f'
      exact MemOk.ite (MemOk.countDie _ _ _ _ ⟨copyLine_wf _ _ g.1, g.2⟩) g
    · have g2 : MemOk v := MemOk.hbmEnqueue _ _ g
      exact MemOk.ite (MemOk.ite (MemOk.wantRevoke _ g2) g2) (MemOk.fillCheck _ (MemOk.place _ _ _ _ g2))

/-! ### Accesses at home -/

theorem MemOk.scratchErr {s : State} (pa : Nat) (e : MemErr) (h : MemOk s) : MemOk (s.scratchErr pa e) := by
  unfold State.scratchErr
  dsimp only
  repeat' split
  all_goals first | exact h | exact MemOk.wantRevoke _ h

theorem MemOk.homeReadLine {s : State} (pa n hint : Nat) (pin chaff : Bool) (h : MemOk s) :
    MemOk (s.homeReadLine pa n hint pin chaff).1 := by
  unfold State.homeReadLine
  repeat' split
  · exact MemOk.foldl (fun _ _ hs => MemOk.scratchErr _ _ hs) _ h
  · exact MemOk.llcTouch _ _ _ _ _ (MemOk.llcArrive _ _ h)
  · exact h

/-- Reading at home keeps the canonical form. -/
theorem MemOk.homeRead {s : State} (pa n hint : Nat) (pin chaff : Bool) (h : MemOk s) : MemOk (s.homeRead pa n hint pin chaff).1 := by
  unfold State.homeRead
  generalize n / 128 + 2 = fuel
  induction fuel generalizing s pa n with
  | zero => exact h
  | succ f ih =>
    unfold State.homeReadFuel
    split
    · exact h
    · exact ih _ _ (MemOk.homeReadLine _ _ _ _ _ h)

theorem MemOk.homeWriteLine {s : State} (pa : Nat) (b : List Byte) (hint : Nat) (pin chaff : Bool) (h : MemOk s) :
    MemOk (s.homeWriteLine pa b hint pin chaff) := by
  unfold State.homeWriteLine
  have h0 := MemOk.awaitLock (llcKey pa) (lineOf pa) h
  refine MemOk.ite (MemOk.ite h0 (MemOk.ite (MemOk.llcTouch _ _ _ _ _ h0) (MemOk.llcTouch _ _ _ _ _ ⟨memPut_wf _ _ h0.1, h0.2⟩))) ?_
  exact ⟨memPut_wf _ _ h.1, h.2⟩

/-- Writing at home keeps the canonical form. -/
theorem MemOk.homeWrite {s : State} (pa : Nat) (b : List Byte) (hint : Nat) (pin chaff : Bool) (h : MemOk s) :
    MemOk (s.homeWrite pa b hint pin chaff) := by
  unfold State.homeWrite
  generalize b.length / 128 + 2 = fuel
  induction fuel generalizing s pa b with
  | zero => exact h
  | succ f ih =>
    unfold State.homeWriteFuel
    split
    · exact h
    · exact ih _ _ (MemOk.homeWriteLine _ _ _ _ _ h)

theorem MemOk.writeMem {s : State} (pa : Nat) (b : List Byte) (h : MemOk s) : MemOk (s.writeMem pa b) :=
  MemOk.homeWrite _ _ _ _ _ h

/-- A command's effect under what its reads find keeps the canonical form when the effect does. -/
theorem MemOk.finding {s : State} (e : ErrMap) {f : State → State} (hf : ∀ u, MemOk u → MemOk (f u)) (h : MemOk s) :
    MemOk (s.finding e f) := hf _ h

/-- Husking keeps the canonical form. -/
theorem MemOk.huskRange {s : State} (pa n : Nat) (h : MemOk s) : MemOk (s.huskRange pa n) :=
  ⟨tkeep_wf h.1, tkeep_wf h.2⟩

/-- The loss of HBM's contents keeps the canonical form. -/
theorem dropHbm_wf {m : List Host.Cell} (h : Memory.wf m = true) : Memory.wf (dropHbm m) = true := tkeep_wf h

end Sys2Proof.Machine
end

