-- ==== Sys2Proof/WellFormed.lean ====
section
/-! DEFINITION. Which commands are well formed: an instruction whose fields spell no reserved form (R107, R108 and the rules of
each unit), an event whose environment can occur (an address that exists, a block, a nonce or a line of its stated size). The
machine runs every command: a reserved form takes the fault the spec gives it, an event that cannot occur changes nothing,
and an access at an address that does not exist stops (Fault.addressHole). -/

namespace Sys2Proof

/-- R107: a hull register field of a scalar format: bit 4 is zero. -/
def RegField.isHull (h : RegField) : Bool := decide (h.toNat < 16)

/-- R107, R113: a hull register that an instruction may write: h15 is not a destination. -/
def RegField.isHullDest (h : RegField) : Bool := decide (h.toNat < 15)

/-- R20, R22: an address of HBM: 16 stacks at a spacing of 64 GiB, each of 64,000,000,000 bytes. -/
def inHbm (a : Nat) : Bool := decide (a < 0x10000000000 ∧ a % 0x1000000000 < 64000000000)

/-- R107: AMO sizes: 0b10 word, 0b11 double word. -/
def amoSized (z : BitVec 2) : Bool := decide (2 ≤ z.toNat)

/-- R108: a lane format other than the reserved 3. -/
def laneFmt (lf : BitVec 2) : Bool := decide (lf ≠ 3)

/-- Lanes of a width code (R101). -/
def laneIdx (lw : BitVec 2) (i : BitVec 4) : Bool := decide (i.toNat < 16 / 2 ^ lw.toNat)

/-- R312: the size of an element of a reduction. -/
def redElem : RedOp → Nat
  | .addWx => 16
  | _ => 4

/-- R330: bytes at `a` that lie in one line of HBM. -/
def inLine (a n : Nat) : Bool := inHbm a && decide (0 < n) && decide (a % 128 + n ≤ 128)

/-- R482: an access of a host is of 1 to 4,096 bytes. -/
def HostAcc.wf : HostAcc → Bool
  | .read _ n => decide (0 < n ∧ n ≤ 4096)
  | .write _ b => decide (0 < b.length ∧ b.length ≤ 4096)

/-- R23, R470: register addresses are multiples of 8. -/
def RegPath.wf : RegPath → Bool
  | .luami a => decide (a % 8 = 0)
  | .host _ off => decide (off.toNat % 8 = 0)
  | .strand _ h a => decide (h.toNat < 16) && decide (a % 8 = 0)

/-- A well-formed command. Every other command admits every value of its operands' types. -/
def Instr.wf : Instr → Bool
  | .slli _ _ _ imm | .srli _ _ _ imm | .srai _ _ _ imm => decide (imm.toNat < 64)
  | .ldb _ _ _ h _ _ | .ldbu _ _ _ h _ _ | .ldh _ _ _ h _ _ | .ldhu _ _ _ h _ _ | .ldw _ _ _ h _ _ | .ldwu _ _ _ h _ _
  | .ldd _ _ _ h _ _ | .ldv _ _ _ h _ _ => h.isHull
  | .stb _ _ _ h _ | .sth _ _ _ h _ | .stw _ _ _ h _ | .std _ _ _ h _ | .stv _ _ _ h _ => h.isHull
  | .amoAdd _ _ _ _ _ z | .amoSwap _ _ _ _ _ z | .amoAnd _ _ _ _ _ z | .amoOr _ _ _ _ _ z | .amoXor _ _ _ _ _ z
  | .amoMax _ _ _ _ _ z | .amoMin _ _ _ _ _ z | .amoMaxu _ _ _ _ _ z | .amoMinu _ _ _ _ _ z | .amoCas _ _ _ _ _ z => amoSized z
  | .loop _ _ len => decide (len ≠ 0)
  | .lbrk _ d _ => decide (d = 0)
  | .rdsr _ _ a imm => decide (a = 0 ∧ imm.toNat < 256)
  | .wrsr _ d _ imm => decide (d = 0 ∧ imm.toNat < 256)
  | .halt _ d a b => decide (d = 0 ∧ a = 0 ∧ b = 0)
  | .fadd _ lf _ _ _ | .fsub _ lf _ _ _ | .fmul _ lf _ _ _ | .fma _ lf _ _ _ | .fmin _ lf _ _ _ | .fmax _ lf _ _ _
  | .fabs _ lf _ _ _ | .fneg _ lf _ _ _ | .fcmpeq _ lf _ _ _ | .fcmplt _ lf _ _ _ | .fcmple _ lf _ _ _ => laneFmt lf
  | .fdiv _ lf _ _ _ | .fsqrt _ lf _ _ _ => decide (lf = 2)
  | .vmulw _ lw _ sg _ _ _ => decide (lw ≠ 3 ∧ sg ≠ 3)
  | .vdot _ form _ _ _ => decide (form.toNat < 5)
  | .vgather _ vd _ vb _ size count _ =>
    decide (count.toNat < 16 / 2 ^ size.toNat ∧ vd ≠ vb ∧ (size = 0 → vd ≠ vb + 1 ∧ vb.toNat % 2 = 0))
  | .vsplat _ _ idx _ _ => decide (idx = 0)
  | .vperm _ idx _ _ _ => decide (idx = 0)
  | .vins _ lw idx _ _ => laneIdx lw idx
  | .vext _ lw idx _ _ => laneIdx lw idx
  | .vcvt _ src dst _ _ _ => [1, 2, 3, 4, 5, 10, 11, 13].contains src.toNat && [1, 2, 3, 4, 5, 10, 11, 13].contains dst.toNat
  | .hderive _ hd ha _ _ _ => hd.isHullDest && ha.isHull
  | .hseal _ hd ha | .hmov _ hd ha => hd.isHullDest && ha.isHull
  | .hcall _ ha => ha.isHull
  | .hld _ hd _ hb _ => hd.isHullDest && hb.isHull
  | .hst _ hd _ hb _ => hd.isHull && hb.isHull
  | .hchk _ _ ha _ _ => ha.isHull
  | .hclr _ hd => hd.isHullDest
  | .tcfg _ d _ b _ z _ => decide (d = 0 ∧ b = 0 ∧ z = 0)
  | .tld _ tile _ gb _ hint tbl _ z _ => decide (tile.toNat < 16 ∧ z = 0 ∧ hint ≠ 3 ∧ (tbl = true → gb = 0))
  | .tst _ tile _ gb _ hint tbl noalloc z _ =>
    decide (tile.toNat < 16 ∧ z = 0 ∧ hint ≠ 3 ∧ noalloc = false ∧ (tbl = true → gb = 0))
  | .tzero _ td a b _ sg z => decide (td.toNat < 16 ∧ a = 0 ∧ b = 0 ∧ sg = false ∧ z = 0)
  | .tmov _ td ts b _ _ z _ => decide (td.toNat < 16 ∧ ts.toNat < 16 ∧ b = 0 ∧ z = 0)
  | .mwld _ d a b _ xmask _ z => decide (d = 0 ∧ a = 0 ∧ b = 0 ∧ xmask ≠ 0 ∧ z = false)
  | .mma _ _ gb b _ _ nomask _ z => decide (b = 0 ∧ z = false ∧ (nomask = true → gb = 0))
  | .mmaq _ _ vb h _ _ nomask _ z => decide (h.toNat < 16 ∧ vb.toNat % 2 = 0 ∧ z = false ∧ (nomask = true → vb = 0))
  | .manch _ d _ _ z => decide (d = 0 ∧ z = 0)
  | .mord _ d _ b _ z => decide (d = 0 ∧ b = 0 ∧ z = 0)
  | .mdrain _ _ _ gb _ _ z => decide (gb.toNat % 2 = 0 ∧ z = false)
  | .msave _ _ _ h _ z | .mrestore _ _ _ h _ z => decide (h.toNat < 16 ∧ z = 0)
  | .ssub _ _ _ z _ _ _ z2 _ => decide (z = false ∧ z2 = 0)
  | .swait _ _ _ z => decide (z = 0)
  | .cpy _ _ _ _ eng _ | .cpwait _ _ _ eng => decide (eng.toNat < 5)
  | .llcAccess r => inLine r.addr (match r.kind with | .read => 1 | .write b => b.length)
  | .reductionRequest a op b _ _ => inLine a b.length && decide (a % redElem op = 0 ∧ b.length % redElem op = 0)
  | .patrolScrub _ unit _ => decide (unit < 250000000)
  | .pageIn _ va _ _ => decide (va < 2 ^ 57)
  | .pageOut _ va _ => decide (va < 2 ^ 57)
  | .flitReceive _ block => decide (block.length = 272)
  | .bar2Access _ acc _ => acc.wf
  | .challenge _ nonce => decide (nonce.length = 32)
  | .getMeasurements _ _ nonce => match nonce with | none => true | some n => decide (n.length = 32)
  | .debugAccess code => decide (128 ≤ code.toNat ∧ code.toNat < 255)
  | .regWrite p _ => p.wf
  | _ => true

end Sys2Proof
end

