-- ==== Sys2Proof/Tests/Slice0.lean ====
section
/-! SUPPORT. Tests: the well-formedness checks, worked examples of single commands whose expected values come from the spec's
text, and for every statement of the obligations a state and operands that meet its hypotheses. -/

namespace Sys2Proof.Tests

-- Each of these small proofs runs on its own thread otherwise, and the threads' stacks exceed the memory a check may use.
set_option Elab.async false

open Sys2Proof.Machine

/-! ### Small states -/

/-- Strand 0 of core 0. -/
abbrev w0 : Site := ⟨0, 0⟩

/-- A hull of domain 1 over the addresses below 2^36 with every right of a type. -/
abbrev allHull (typ rights : Nat) : W128 := mkHull typ rights 1 5 0x80000000 0

/-- A bank with its pc, g registers, v registers and hulls. -/
abbrev bankOf (pc : VAddr) (g : Table W64) (v h : Table W128) : Bank := { Bank.reset with pc := pc, g := g, v := v, h := h }

/-- A page of 16 GiB: level 2 leaf at `pa`, with the bits `perms` (W 4, X 8, hull 16). -/
abbrev leaf2 (pa perms : Nat) : W64 := BitVec.ofNat 64 (pa / 4096 * 4096 + perms + 3)

/-- The leaf of the code and data page of HBM, of the scratchpad page and of the hull page. -/
abbrev leafs : List W64 := [leaf2 0 12, leaf2 0x1000000000000 4, leaf2 0x400000000 20]

/-- Strand 0 of core 0 runs domain 1 from 0x1000. -/
abbrev strandOf (b : Bank) : Strand := { Strand.reset with running := true, dom := 1, b0 := b }

/-- Core 0 of domain 1 with one strand, its instruction line and its translations. -/
abbrev coreOf (t : Strand) : Core :=
  { Core.reset with
    domain := 1, strands := [(0, t)],
    l1i := [(l1Set 0x1000 * 4, ⟨true, lineOf 0x1000, 0, []⟩)],
    tlb := [⟨1, 0, 2, leaf2 0 12⟩, ⟨1, 0x400000000, 2, leaf2 0x1000000000000 4⟩, ⟨1, 0x800000000, 2, leaf2 0x400000000 20⟩] }

/-- Domain 1, LIVE, on core 0. -/
abbrev dom1 : Domain :=
  { Domain.free with
    state := 1, cores := [0], pages := [(0, 0x800000000)], hbm := 0x800000000, ptroot := 0x200000,
    tables := [(0x800000000, 16384), (0x800008000, 32768)] }

/-- The page tables of domain 1: the entry of the level-1 table at 0x800000000, and the leaves `leafs` in the level-2 table. -/
abbrev mem1 : List Host.Cell :=
  [(0x800000000, 1), (0x800000001, 0x80), (0x800000004, 8), (0x800008000, 0x0F), (0x800008008, 7), (0x80000800E, 1),
   (0x800008010, 0x17), (0x800008014, 4)]

/-- A module whose strand 0 of core 0 has the given bank. -/
abbrev demoB (b : Bank) : State :=
  { State.reset with cores := [(0, coreOf (strandOf b))], doms := [(1, dom1)], mem := mem1 }

/-- The hulls of the demo strand: h1 and h15 cover all memory of domain 1. -/
abbrev hulls : Table W128 := [(1, allHull 1 0xC1FF), (2, allHull 1 0xC1FF), (3, allHull 1 0xC1FF), (15, allHull 1 0xC1FF)]

/-- The demo bank: g1 = 5, g2 = 0x2000 in HBM, g3 = 0x400000040 in the scratchpad, g4 = 0x800000040 on the hull page, g5 = -3. -/
abbrev demoBank : Bank :=
  bankOf 0x1000 [(1, 5), (2, 0x2000), (3, 0x400000040), (4, 0x800000040), (5, 0xFFFFFFFFFFFFFFFD)] [] hulls

/-- The demo state. -/
abbrev demo : State := demoB demoBank

/-! ### Witnesses: chapter 4 -/

theorem witness_StepRunsFrontCommand : step { demo with pending := [.add w0 6 1 5] } = exec (.add w0 6 1 5) demo := rfl

theorem witness_StrandsIntegerAndVector :
    (∃ o, gOp (.add w0 6 1 5) = some o ∧ demo.ready o.w o.uses = true) ∧
    ∃ o, vOp (.vintAdd w0 0 1 2 3) = some o ∧ demo.ready o.w o.uses = true := ⟨⟨_, rfl, by decide⟩, _, rfl, by decide⟩

theorem witness_ReservedFormsFault :
    (∃ u, badForm (.slli w0 6 1 64) = some (w0, u, 0x01) ∧ demo.ready w0 u = true) ∧
    ∃ u, badForm (.fdiv w0 0 1 2 3) = some (w0, u, 0x20) ∧ demo.ready w0 u = true := ⟨⟨_, rfl, by decide⟩, _, rfl, by decide⟩

theorem witness_BranchesJumpsAndLoops :
    (∃ o, jOp (.beq w0 1 1 2) = some o ∧ demo.ready o.w o.uses = true ∧ o.taken demo = true) ∧
    (∃ o, jOp (.bne w0 1 1 2) = some o ∧ demo.ready o.w o.uses = true ∧ o.taken demo = false) ∧
    (demo.ready w0 [.g 1] = true ∧ (demo.bank w0).lc = 0 ∧ demo.g w0 0 = 0 ∧ demo.g w0 1 ≠ 0) ∧
    (let s := demoB { demoBank with lc := 2 }; s.ready w0 [.g 1] = true ∧ (s.bank w0).lc ≠ 0) := by
  refine ⟨⟨_, rfl, by decide, by decide⟩, ⟨_, rfl, by decide, by decide⟩, by decide, by decide⟩

/-- A strand in S1. -/
abbrev shadowStrand : Strand := { strandOf demoBank with cur := .s1, live1 := true, b1 := demoBank, r1 := { FaultRec.reset with fpc := 8 } }

/-- A module whose strand 0 of core 0 is given. -/
abbrev demoT (t : Strand) : State := { demo with cores := [(0, coreOf t)] }

theorem witness_StrandRegisters :
    demo.ready w0 [.g 6] = true ∧ (demo.strandReg w0 0).isSome = true ∧ demo.strandReg w0 0xFF = none ∧
    demo.strandReg w0 0x83 = some 0 ∧ (demoT shadowStrand).ready w0 [.g 6] = true ∧ (demoT shadowStrand).strandReg w0 0x83 = some 8 := by
  decide

theorem witness_StrandsStartAndHalt :
    (demo.ready w0 ([.g 1, .g 2] ++ (List.range 16).map RegRef.h) = true ∧ (⟨0, 5⟩ : Site).strand.val = (demo.g w0 1).toNat % 8 ∧ demo.inCallee w0 = false ∧
      (demo.strand ⟨0, 5⟩).running = false) ∧
    (demo.ready w0 ([.g 0, .g 2] ++ (List.range 16).map RegRef.h) = true ∧ (demo.strand w0).running = true) ∧
    (let s := demoT { strandOf demoBank with dom := 2 }; s.ready w0 ([.g 1, .g 2] ++ (List.range 16).map RegRef.h) = true ∧ s.inCallee w0 = true) ∧
    (demo.ready w0 [] = true ∧ (demo.strand w0).owesData = false) := by decide

/-- The demo core with an L1D line at 0x2000. -/
abbrev demoHit : State :=
  { demo with cores := [(0, { coreOf (strandOf demoBank) with l1d := [(l1Set 0x2000 * 8, ⟨true, lineOf 0x2000, 0, [(0, 7)]⟩)] })] }

theorem allowed_of {s : State} {h : RegField} {addr size : Nat} {wr : Bool} {pa : Nat} {leaf : W64}
    (a : h.toNat < 16 ∧ addr % size = 0 ∧ hullCheck s (s.h w0 h.toNat) 1 (if wr then rWRITE else rREAD) addr size = none)
    (b : s.strandTr w0.core.val (hSeal (s.h w0 h.toNat)) addr (if wr then .write else .read) = .ok pa leaf) :
    allowed s w0 h addr size wr pa := ⟨a.1, a.2.1, a.2.2, leaf, b⟩

theorem witness_LoadsDeliverOrMiss :
    (∃ o, ldOp (.ldd w0 6 2 1 0 .none) = some o ∧ demoHit.ready o.w [o.use, .g o.a.toNat, .h o.h.toNat] = true ∧
      allowed demoHit o.w o.h (o.addr demoHit) o.size false 0x2000 ∧ isHbm 0x2000 = true ∧
      l1Find (demoHit.core 0).l1d 8 0x2000 = some (l1Set 0x2000 * 8) ∧ l1Find (demo.core 0).l1d 8 0x2000 = none ∧
      allowed demo o.w o.h (o.addr demo) o.size false 0x2000 ∧ (demo.strand w0).miss = none) ∧
    ∃ o, ldOp (.ldd w0 6 3 1 0 .none) = some o ∧ demo.ready o.w [o.use, .g o.a.toNat, .h o.h.toNat] = true ∧
      allowed demo o.w o.h (o.addr demo) o.size false 0x1000000000040 ∧ regionOf 0x1000000000040 = .scratch 0 64 :=
  ⟨⟨_, rfl, by decide, allowed_of (leaf := leaf2 0 12) (by decide) (by decide), by decide, by decide, by decide,
    allowed_of (leaf := leaf2 0 12) (by decide) (by decide), by decide⟩,
   ⟨_, rfl, by decide, allowed_of (leaf := leaf2 0x1000000000000 4) (by decide) (by decide), by decide⟩⟩

/-- The demo state with an outstanding access. -/
abbrev demoMiss (m : Miss) : State := demoT { strandOf demoBank with miss := some m }

/-- Nothing in the last-level cache is locked or poisoned. -/
theorem calm_of {s : State} {pa : Nat} (h : s.llc = []) : Calm s pa := by
  intro w _
  have e : (s.llcSet (llcKey pa)).way w = Slot.empty := by unfold State.llcSet; rw [h]; rfl
  rw [e]
  exact ⟨rfl, fun l hl => by
    have n : Slot.empty.line l = none := by simp [Slot.line, Slot.empty]
    rw [n] at hl; cases hl⟩

theorem witness_Stores :
    (∃ o, stOp (.std w0 1 2 1 0) = some o ∧ demo.ready o.w [o.use, .g o.a.toNat, .h o.h.toNat] = true ∧
      allowed demo o.w o.h (o.addr demo) o.size true 0x2000 ∧ canBuffer demo o.w) ∧
    ∃ s : State, ∃ e : StoreEntry, (s.core 0).wbuf[0]? = some e ∧
      ((s.core 0).wbuf.take 0).any (fun o => decide (lineOf o.pa = lineOf e.pa)) = false ∧ (s.core 0).olderMiss e = false ∧
      PlainWrite s e.pa e.bytes.length :=
  ⟨⟨_, rfl, by decide, allowed_of (leaf := leaf2 0 12) (by decide) (by decide), by decide, by decide⟩,
   { demo with cores := [(0, { coreOf (strandOf demoBank) with wbuf := [⟨0, 0, 0x2000, [1, 2], 1, false⟩] })] }, _, rfl, by decide, by decide,
   by decide, by decide, by decide, fun _ => calm_of rfl⟩

theorem witness_MissesDeliverAndAtomics :
    (amoForm (.amoAdd w0 6 2 5 1 3) = some (0, w0, 6, 2, 5, 1, 3) ∧ demo.ready w0 [.g 6, .g 2, .g 5, .h 1] = true ∧
      allowed demo w0 1 (demo.g w0 2).toNat 8 true 0x2000) ∧
    (let s := demoMiss ⟨0x2000, 8, .amo 6 8 0 5 0, [], 0, false, false⟩; (s.core 0).olderStore ⟨0x2000, 8, .amo 6 8 0 5 0, [], 0, false, false⟩ = false ∧
      PlainWrite s 0x2000 8) ∧
    ((demoMiss ⟨0x2000, 8, .greg 6 8 false, [], 0, true, false⟩).strand w0).miss = some ⟨0x2000, 8, .greg 6 8 false, [], 0, true, false⟩ ∧
    isMemory 0x2000 = true ∧ PlainWrite (demoMiss ⟨0x2000, 8, .greg 6 8 false, [], 0, true, false⟩) 0x2000 8 ∧
    ((demoMiss ⟨0x2000, 8, .greg 6 8 false, [], 0, true, false⟩).core 0).pfills = [] ∧
    ((demoT { strandOf demoBank with spLoads := [⟨scratchBase 3, 8, .greg 6 8 false, [], 0, false, false⟩] }).strand w0).spLoads[0]? =
      some ⟨scratchBase 3, 8, .greg 6 8 false, [], 0, false, false⟩ ∧ demo.padWaits (scratchBase 3) = false :=
  ⟨⟨rfl, by decide, allowed_of (leaf := leaf2 0 12) (by decide) (by decide)⟩,
   ⟨by decide, by decide, by decide, by decide, fun _ => calm_of rfl⟩, rfl, by decide, ⟨by decide, by decide, by decide, fun _ => calm_of rfl⟩, rfl, rfl, by decide⟩

theorem witness_GathersLoadEveryElement :
    demo.ready w0 [.v 4, .g 3, .v 6, .h 1] = true ∧ (demo.core 0).gatherBusy 0 = false ∧ (demo.g w0 3).toNat % 4 = 0 ∧ bit (demo.bank w0).gprog 5 = false ∧
    ∀ i, i < 2 → allowed demo w0 1 (((demo.g w0 3).toNat + 0 * 4) % 2 ^ 64) 4 false 0x1000000000040 ∧
      demo.padWaits 0x1000000000040 = false ∧ regionOf 0x1000000000040 = .scratch 0 64 :=
  ⟨by decide, by decide, by decide, by decide, fun _ _ => ⟨allowed_of (leaf := leaf2 0x1000000000000 4) (by decide +kernel) (by decide +kernel),
    by decide, by decide⟩⟩

theorem witness_FillsAndWalks :
    ((demoT { strandOf demoBank with park := .l1i 0x1000 }).strand w0).park = .l1i 0x1000 ∧ demo.llc = [] ∧
    (demo.walk 1 0x2000 = .leaf 2 (leaf2 0 12) ∧ leafCheck 2 (leaf2 0 12) 0x2000 .read = .ok 0x2000 (leaf2 0 12)) ∧
    demo.walk 2 0x2000 = .invalid 1 := by decide +kernel

/-! ### Witnesses: chapters 5 and 6 -/

/-- A sealable block of 64 bytes on the hull page. -/
abbrev sealBlock : W128 := mkHull 1 0x28 1 0 64 0x800000040

theorem witness_HullInstructions :
    (demo.ready w0 [.h 4, .h 1, .g 2, .g 1, .g 5] = true ∧ hullCheck4 demo (demo.h w0 1) (hType (demo.h w0 1)) rDERIVE = none ∧
      hType (demo.h w0 1) ≠ 3 ∧ hullBounds (demo.h w0 1) (demo.g w0 2).toNat (demo.g w0 1).toNat = true ∧
      canonLen (demo.g w0 2).toNat (demo.g w0 1).toNat = some (0, 5)) ∧
    (let s := demoB (demoBank.writeH 4 sealBlock);
      hullCheck4 s (s.h w0 4) 1 (rSEALABLE + rHLOAD) = none ∧ hLen (s.h w0 4) = 64 ∧ hBase (s.h w0 4) % 64 = 0 ∧
      s.ready w0 [.h 5, .h 4] = true) := by decide

theorem witness_HullLoadsAndStores :
    (demo.g w0 4).toNat % 16 = 0 ∧ demo.ready w0 [.h 5, .g 4, .h 1] = true ∧
    hullCheck demo (demo.h w0 1) 1 rHLOAD 0x800000040 16 = none ∧ hullCheck demo (demo.h w0 1) 1 rHSTORE 0x800000040 16 = none ∧
    demo.strandTr 0 (hSeal (demo.h w0 1)) 0x800000040 .hullRead = .ok 0x400000040 (leaf2 0x400000000 20) ∧
    demo.strandTr 0 (hSeal (demo.h w0 1)) 0x800000040 .hullWrite = .ok 0x400000040 (leaf2 0x400000000 20) ∧ canBuffer demo w0 ∧
    hSeal (demo.h w0 1) = (demo.strand w0).dom ∧
    (let s := demoT { strandOf (demoBank.writeH 5 (mkHull 1 1 3 0 64 0)) with dom := 2 };
      hSeal (s.h w0 1) ≠ (s.strand w0).dom ∧ mayCross (s.h w0 5) (hSeal (s.h w0 1)) = false ∧ s.ready w0 [.h 5, .g 4, .h 1] = true) := by
  decide

/-- An entry hull of domain 1 on the hull page. -/
abbrev entryHull : W128 := mkHull 3 1 1 0 64 0x800000040

/-- An outstanding read of an entry block whose last hull is a code hull of domain 1. -/
abbrev callMiss : Miss := ⟨0x400000040, 64, .hcall 1, [], 0, false, false⟩

theorem witness_CallsFrameAndReturn :
    (let s := demoB (demoBank.writeH 4 entryHull);
      s.ready w0 [.h 4, .h 1, .h 2, .h 3] = true ∧ hullCheck s (s.h w0 4) 3 1 (hBase (s.h w0 4)) 64 = none ∧
      (s.strand w0).frames.length < 2 ∧ (s.strand w0).owesData = false ∧ hSeal (s.h w0 4) = (s.strand w0).dom ∧
      s.strandTr 0 (hSeal (s.h w0 4)) (hBase (s.h w0 4)) .hullRead = .ok 0x400000040 (leaf2 0x400000000 20)) ∧
    (let s : State := { demoMiss callMiss with mem := memPut mem1 0x400000070 (leBytes 16 (allHull 1 0xC1FF).toNat) };
      let x : W128 := BitVec.ofNat 128 (leNat (memBytes s.mem 0x400000070 16));
      (s.core 0).olderStore callMiss = false ∧ s.padWaits 0x400000040 = false ∧ s.llc = [] ∧ hType x = 1 ∧ hMalformed x = false ∧ s.live (hSeal x) = true ∧ hHas x rEXEC = true ∧
      hSeal x = 1 ∧ mayCross (s.h w0 1) 1 = true ∧ mayCross (s.h w0 2) 1 = true ∧ mayCross (s.h w0 3) 1 = true) ∧
    (let s := demoT { strandOf demoBank with frames := [⟨demoBank, 1, .s0⟩] };
      s.ready w0 [.h 1, .h 2, .h 3] = true ∧ (s.strand w0).owesData = false ∧ mayCross (s.h w0 1) 1 = true) := by decide

/-- Domain 1 with a vector table at 0x3000 and a double-fault address. -/
abbrev vecDom : Domain := { dom1 with vbase := 0x3001, dfpc := 0x1001 }

/-- The demo state with every vector's handler at 0x1000. -/
abbrev demoVec (t : Strand) : State :=
  { demoT t with doms := [(1, vecDom)], mem := memPut [] 0x3000 [1, 0x10] ++ memPut [] (0x3000 + 8 * 32) [1, 0x10] ++ mem1 }

theorem witness_FaultsEnterTheirHandler :
    vectorOf 1 = some 0 ∧
    (let s := demoVec (strandOf demoBank); s.ready w0 [] = true ∧ (s.strand w0).owesData = false ∧
      s.maskHolds w0 (s.faultLevel w0 0) = false ∧ Vectored s w0 0 0x1000) ∧
    (let s := demoVec shadowStrand; s.ready w0 [] = true ∧ bit (s.dom 1).dfpc 0 = true ∧ s.handlerFetch ((s.strand w0).b1.readH 15) 0x1000 = .ok) ∧
    (let s := demoVec { shadowStrand with cur := .s2, live2 := true }; (s.strand w0).cur = .s2 ∧ (s.dom (s.core 0).domain).state = 1) :=
  ⟨rfl, ⟨by decide, by decide, by decide +kernel, by decide, _, _, (by decide +kernel : _ = Tr.ok 0x3000 (leaf2 0 12)), by decide +kernel,
     by decide +kernel, by decide +kernel, by decide +kernel, by decide +kernel⟩,
   by decide +kernel, by decide⟩

/-- The timer's interrupt pending in core 0. -/
abbrev demoInt : State :=
  { demoVec (strandOf demoBank) with cores := [(0, { coreOf (strandOf demoBank) with int := { IntRegs.reset with ipend := 1, iroute0 := 8 } })] }

theorem witness_Interrupts :
    (demoInt.nextVector w0 = some 0 ∧ (demoInt.strand w0).owesData = false ∧ (demoInt.strand w0).park = .none ∧
      Vectored ((demoInt.modCore 0 fun k => { k with int := { k.int with ipend := setBit k.int.ipend 0 false } }).park w0 .none) w0 32 0x1000) ∧
    (let s : State := { demo with time := BitVec.allOnes 64 }; (s.core 0).int.tcmp.toNat ≤ (s.timeOf 0).toNat) ∧
    (demo.timeOf 0).toNat < (demo.core 0).int.tcmp.toNat ∧
    (demoT shadowStrand).ready w0 [] = true ∧ ((demoT shadowStrand).strand w0).frameOpen = false ∧ demo.ready w0 [] = true :=
  ⟨⟨by decide +kernel, by decide, by decide, by decide, _, _, (by decide +kernel : _ = Tr.ok (0x3000 + 8 * 32) (leaf2 0 12)), by decide +kernel,
     by decide +kernel, by decide +kernel, by decide +kernel, by decide +kernel⟩,
   by decide, by decide, by decide, by decide, by decide⟩

/-! ### Witnesses: chapters 7 to 9 -/

/-- A dense INT8 operand word: V, two rows of 64 bytes. -/
abbrev int8Tile : W32 := 0x2983

/-- A dense INT8 weight set of two rows. -/
abbrev weights8 : WeightSet := ⟨10, false, 0, false, 2, [(0, 1), (1, 2)], [], [], 0⟩

/-- Core 0 with INT8 tiles 0-3 in group A, weights in array 0 and slot 0 anchored. -/
abbrev unitCore : Core :=
  { coreOf (strandOf (demoBank.writeG 6 0x10102)) with
    tiles := [(0, { TileGroup.reset with cfg := [(0, int8Tile), (1, int8Tile), (2, int8Tile), (3, int8Tile)],
                                         tiles := [(0, ⟨[(0, 0x0102), (1, 7)], 0⟩)] })],
    mats := [(0, { MatArray.reset with wstate := some weights8, active := some weights8 })],
    acc := { AccUnit.reset with modes := [(0, ⟨1, 0⟩)], elems := [(0, 42)] } }

/-- A module with core 0 given. -/
abbrev demoK (k : Core) : State := { demo with cores := [(0, k)] }

theorem witness_TilesAreZeroedMovedAndTransferred :
    (demoK unitCore).ready w0 [] = true ∧ (demoK unitCore).inCallee w0 = false ∧ cfgV ((demoK unitCore).tcfgWord 0 0 1) = true ∧
    ((demoK unitCore).group 0 0).xfer = none ∧ ((demoK unitCore).group 0 0).pendCfg = none ∧ ((demoK unitCore).group 0 0).held = none ∧
    (∀ r, r < 65 → (demoK unitCore).mayWriteRow 0 0 1 r ((demoK unitCore).core 0).ord = true) ∧
    (∀ r, r < 65 → (demoK unitCore).writerBefore 0 0 0 r ((demoK unitCore).core 0).ord = false) ∧
    cfgRows ((demoK unitCore).tcfgWord 0 0 0) = cfgRows ((demoK unitCore).tcfgWord 0 0 1) := by decide

theorem witness_TileTransfers :
    (let s := demoK unitCore;
     cfgRows (s.tcfgWord 0 0 1) = 2 ∧ cfgBpr (s.tcfgWord 0 0 1) = 64 ∧ s.ready w0 [.g 3, .g 0, .h 1] = true ∧
     s.padWaits 0x1000000000040 = false ∧ hullCheck s (s.h w0 1) 1 rREAD 0x400000040 64 = none ∧ hullCheck s (s.h w0 1) 1 rWRITE 0x400000040 64 = none ∧
     0x1000000000040 % 128 + 64 ≤ 128 ∧ regionOf 0x1000000000040 = .scratch 0 64 ∧
     s.trRange (hSeal (s.h w0 1)) 0x400000040 64 .read = .ok [(0x1000000000040, 64, leaf2 0x1000000000000 4)] ∧
     s.trRange (hSeal (s.h w0 1)) 0x400000040 64 .write = .ok [(0x1000000000040, 64, leaf2 0x1000000000000 4)]) ∧
    (let x : TileXfer := ⟨.load, 0, 1, 0, 0, 1, 0, false, false, 2, 0⟩;
     let s := demoK { unitCore with tiles := [(0, { TileGroup.reset with cfg := [(1, int8Tile)], xfer := some x })] };
     s.xferRows 0 0 x ≤ x.next ∧ s.podStopped 0 = false) := by decide +kernel

theorem witness_TileConfigurations :
    (let s := demoK unitCore;
     s.ready w0 [.g 3, .h 1] = true ∧ s.strandTr 0 (hSeal (s.h w0 1)) 0x400000040 .read = .ok 0x1000000000040 (leaf2 0x1000000000000 4) ∧
     regionOf 0x1000000000040 = .scratch 0 64 ∧ s.padWaits 0x1000000000040 = false ∧
     (s.group 0 0).notReady 0 = false ∧ cfgBlockFault ((List.range 16).map fun _ => 0) = none) ∧
    (let s := demoK { unitCore with tiles := [(0, { TileGroup.reset with pendCfg := some (List.replicate 16 0, 0, 0) })] };
     s.groupBusy 0 0 0 = false ∧ s.podStopped 0 = false) := by decide +kernel

/-- A reload of array 1 with tile 1's rows. -/
abbrev reload1 : Reload := ⟨0, 0, 1, 1, 2, false, weights8, false⟩

theorem witness_Weights :
    (let s := demoK { unitCore with tiles := [(0, { TileGroup.reset with cfg := [(1, int8Tile)] })] };
     s.ready w0 [] = true ∧ (∀ a, a ∈ maskArrays 2 → s.weightFits 0 0 1 = true) ∧ maskArrays 2 = [1] ∧
     (s.core 0).validating 2 = false ∧ (s.core 0).queueFull 2 = false ∧ (s.group 0 0).pendCfg = none ∧ s.podStopped 0 = false) ∧
    (let s := demoK { unitCore with vals := [⟨0, [(1, reload1)], []⟩] };
     (s.captureLinks 0 reload1).ws.metaFault = none ∧ reload1.ws.fmt ≠ 9) ∧
    (let s := demoK { unitCore with mats := [(1, { MatArray.reset with queue := [.reload reload1] })] };
     ((s.core 0).mat 1).shadow = none ∧ s.reloadOwed 0 reload1 = false ∧ s.podStopped 0 = false) ∧
    (let s := demoK { unitCore with mats := [(1, { MatArray.reset with shadow := some weights8 })] };
     ((s.core 0).mat 1).shadow = some weights8 ∧ s.podStopped 0 = false) := by decide +kernel

/-- A quad-feed right hull of pod 0. -/
abbrev feedHull : W128 := mkHull 5 1 1 0 1 (1 * 2 ^ 48)

theorem witness_MatrixPasses :
    (let s := demoK unitCore;
     s.ready w0 [.g 6, .g 0] = true ∧ s.passFault 0 0 2 0 [(0, 0)] = none ∧ fld (s.g w0 6) 19 16 = 1 ∧ fld (s.g w0 6) 7 0 = 2 ∧
     (s.core 0).validating 1 = false ∧ (s.core 0).queueFull 1 = false ∧ (s.group 0 0).pendCfg = none) ∧
    (let s := demoK { unitCore with strands := [(0, strandOf ((demoBank.writeG 6 0x10102).writeH 4 feedHull))] };
     s.ready w0 [.g 6, .v 0, .v 1, .h 4] = true ∧ quadFault s 0 (s.h w0 4) = none ∧ s.passFault 0 0 2 0 [(0, 0)] = none) := by decide

/-- A pass of tile 0 in array 0. -/
abbrev pass0 : Pass := ⟨1, 0, 0, 1, 64, 10, none, false, 2, 64, 2, 3, 0, ⟨1, 0⟩, false, 0, false, 0⟩

/-- A pass in flight in array 0. -/
abbrev flight0 : Flight := ⟨1, 0, ⟨1, 0⟩, 2, 64, 10, false, [(0, 0x0102)], [], weights8, [], 0, false, []⟩

theorem witness_PassesStart :
    (let s := demoK { unitCore with mats := [(0, { MatArray.reset with queue := [.pass pass0], active := some weights8 })] };
     ((s.core 0).mat 0).headPass = some pass0 ∧ ((s.core 0).mat 0).shadow = none ∧ s.podStopped 0 = false ∧
     pass0.slots ≠ [] ∧ ∀ sl, sl ∈ pass0.slots → s.slotStarved 0 pass0 sl = false) ∧
    (let g := { TileGroup.reset with cfg := [(0, int8Tile)], xfer := some ⟨.load, 0, 0, 0, 0, 1, 0, false, false, 0, 0⟩ }
     let s := demoK { unitCore with tiles := [(0, g)], mats := [(0, { MatArray.reset with queue := [.pass pass0], active := some weights8 })] };
     ∃ sl, pass0.slots[pass0.next]? = some sl ∧ s.slotStarved 0 pass0 sl = true) ∧
    (let s := demoK { unitCore with mats := [(0, { MatArray.reset with flights := [flight0], active := some weights8 })] };
     (((s.core 0).mat 0).flights.findIdx? fun x => x.owesResult 0 5) = some 0 ∧ (s.core 0).slotOwed 0 0 1 = false ∧ flight0.two = false) :=
  ⟨by decide +kernel, ⟨_, rfl, by decide +kernel⟩, by decide +kernel⟩

theorem witness_SlotModes :
    (demo.ready w0 [.g 1, .g 5] = true ∧ demo.g w0 1 ≠ 0 ∧ -256 ≤ (demo.g w0 5).toInt ∧ (demo.g w0 5).toInt ≤ 255) ∧
    (let k := { unitCore with acc := { unitCore.acc with clears := [(0, 0)] } }; k.slotOwedAny 0 0 = false ∧ (demoK k).podStopped 0 = false) := by decide

/-- A drain word: INT8, tile 2, one row of sixteen columns. -/
abbrev drainWord : W64 := BitVec.ofNat 64 (10 + 2 * 2 ^ 16 + 15 * 2 ^ 40)

/-- The core with the drain word in g6 and a scratchpad block in g8. -/
abbrev drainCore : Core :=
  { unitCore with strands := [(0, strandOf ((demoBank.writeG 6 drainWord).writeG 8 0x400000000))] }

/-- A drain word to memory under h1, FP32, with scales under h2. -/
abbrev memWord : W64 := BitVec.ofNat 64 (1 + 2 ^ 10 + 2 ^ 20 + 2 * 2 ^ 24 + 15 * 2 ^ 40)

theorem witness_DrainsAreQueued :
    (let s := demoK drainCore;
     s.ready w0 [.g 7, .g 6] = true ∧ s.ready w0 [.g 7, .g 6, .g 8] = true ∧ (s.group 0 0).pendCfg = none ∧ dwIllegal (s.g w0 6) = false ∧ dwFormatBad (s.g w0 6) 1 = false ∧
     s.drainTileFits 0 0 (s.g w0 6) = true ∧ (s.core 0).acc.queue.length < 4 ∧
     s.ready w0 [.g 7, .g 8, .h 1] = true ∧ s.rangesOut (s.h w0 1) [((s.g w0 8).toNat, 65536)] (inOwnScratch 0) = none ∧
     s.rangesFault (s.h w0 1) 1 true [((s.g w0 8).toNat, 65536)] = none ∧
     s.rangesFault (s.h w0 1) 1 false [((s.g w0 8).toNat, 65536)] = none) ∧
    (let s := demoK drainCore; let x := memWord;
     dwIllegal x = false ∧ dwFormatBad x 1 = false ∧ dwRow0 x + dwNr x ≤ 64 ∧ dwScl x = true ∧ fld x 23 20 = 1 ∧ fld x 27 24 = 2 ∧
     s.rangesFault (s.h w0 1) 1 true (dwRanges x 0x400000000) = none ∧ s.rangesOut (s.h w0 1) (dwRanges x 0x400000000) inScratch = none ∧
     s.rangesFault (s.h w0 2) 2 false [(0x400000200, 512)] = none) := by decide +kernel

/-- The drain of `drainWord`. -/
abbrev drain0 : DrainItem := ⟨0, 0, 0, 0, 0, ⟨1, 0⟩, drainWord, 0, 0, 0, 0, 0, false, [], 0, 0, false⟩

/-- The core with a drain item at the head of its queue. -/
abbrev drainQ (d : DrainItem) : State := demoK { drainCore with acc := { drainCore.acc with queue := [d] } }

theorem witness_DrainsRunRowByRow :
    (tableOf 0x400 = some 0 ∧ tableOf 0x300 = some 0 ∧ tableOf 0x308 = some 0 ∧ unitCore.tableBusy 0 = false ∧ unitCore.acc.held = []) ∧
    (let d := { drain0 with started := true }; let s := drainQ d;
     (s.core 0).slotOwed 0 0 0 = false ∧ s.drainDestFree 0 d 0 = true ∧ d.next < dwNr d.word ∧ dwMx d.word = false ∧ dwRow0 d.word + dwNr d.word ≤ 64) ∧
    (let d := { drain0 with kind := 3, addr := 0x400000000, hd := allHull 1 0xC1FF }; let s := drainQ d;
     (s.core 0).slotOwedAny 0 0 = false ∧ s.padWaits 0x1000000000000 = false ∧ inScratch 0x1000000000000 = true ∧ s.trRange (hSeal d.hd) d.addr 65536 .read = .ok [(0x1000000000000, 65536, leaf2 0x1000000000000 4)]) ∧
    (let d := { drain0 with started := true, next := 1 }; d.total ≤ d.next) := by decide +kernel

/-! ### Witnesses: chapters 10 and 11 -/

/-- Bytes with the listed ones set. -/
abbrev bytesWith (n : Nat) (l : Table Byte) : List Byte := (List.range n).map fun i => tget 0 l i

/-- A stream descriptor: the absolute value of one FP32 element of chain buffer 0 at byte 0, to byte 64. -/
abbrev absDesc : List Byte := bytesWith 256 [(0, 6), (72, 1), (73, 8), (208, 64), (216, 1), (217, 8)]

/-- The demo state with bytes at 0x400000040, in core 0's scratchpad. -/
abbrev demoAt (b : List Byte) : State := { demo with mem := memPut mem1 0x1000000000040 b }

theorem reads_of {s : State} {h a n pa : Nat} {leaf : W64}
    (x : s.trRange (hSeal (s.h w0 h)) a n .read = .ok [(pa, n, leaf)]) (y : hullCheck s (s.h w0 h) 1 rREAD a n = none)
    (q : s.padWaits pa = false) (z : 0x1000000000000 ≤ pa ∧ pa + n ≤ 0x1000000000000 + 256 * 0x200000) : ReadsScratch s w0 h a n pa := by
  refine ⟨⟨leaf, x⟩, y, q, fun i hi => ?_⟩
  unfold regionOf
  rw [if_neg (by omega), if_pos (by simp only [Bool.and_eq_true, decide_eq_true_eq]; omega)]
  exact ⟨_, _, rfl⟩

/-- The queued item of `absDesc`. -/
abbrev absItem : StreamItem := ⟨0, 0, 0, absDesc, 0, 0, 0, false, false, 0, 0, [], false⟩

/-- Core 0 with a stream descriptor at the head of its queue and -1.0 in chain buffer 0. -/
abbrev streamQ (it : StreamItem) : State :=
  { demo with cores := [(0, { coreOf (strandOf demoBank) with
      str := { StreamUnit.reset with queue := [it], chain := memPut [] 0 [0, 0, 0x80, 0xBF] } })] }

theorem witness_StreamDescriptorsQueued :
    ReadsScratch (demoAt absDesc) w0 1 0x400000040 256 0x1000000000040 ∧
    (let s := demoAt absDesc; let d := coreBytes s 0 0x1000000000040 256;
     d = absDesc ∧ strClass (dOp d) = some (.elem 1) ∧ strStructOk d (.elem 1) = true ∧ strFormatOk d (.elem 1) = true ∧
     (∀ b, b ∈ strBoxes d (.elem 1) → b.1.addr % b.1.width = 0 ∧ (b.1.loc ≠ 1 → 0 ≤ b.2.1.1 ∧ b.2.1.1 + b.2.1.2 ≤ 16384)) ∧
     strOverlapOk d (.elem 1) = true ∧ strHullFault s (s.h w0 2) 2 (strBoxes d (.elem 1)) = none ∧ strObjects d (.elem 1) = [] ∧
     s.ready w0 [.g 6, .g 3, .h 1, .h 2, .h 0] = true ∧ s.inCallee w0 = false) ∧
    seqDone 0 5 = false ∧ seqDone 6 5 = true :=
  ⟨reads_of (leaf := leaf2 0x1000000000000 4) (by decide +kernel) (by decide +kernel) (by decide +kernel) (by decide), by decide +kernel, by decide, by decide⟩

theorem witness_StreamDescriptorsRun :
    (let s := streamQ absItem;
     strClass (dOp absItem.desc) = some (.elem 1) ∧ s.strOlderDone 0 absItem = true ∧ s.podStopped 0 = false ∧ fld (dWait absItem.desc) 1 0 = 0 ∧
     s.strStartCheck 0 absItem (.elem 1) = .ok ∧ (∀ x, x ∈ [dX0 absDesc, dY absDesc] → 8 ≤ x.loc)) ∧
    (let it : StreamItem := { absItem with desc := bytesWith 256 [(0, 6), (48, 1), (52, 1), (72, 1), (73, 8), (208, 64), (216, 1), (217, 8)] };
     (streamQ it).strStartCheck 0 it (.elem 1) = .fail 0x38 true) ∧
    (let it : StreamItem := { absItem with desc := bytesWith 256 [(0, 6), (40, 1), (44, 1), (72, 1), (73, 8), (208, 64), (216, 1), (217, 8)] };
     fld (dWait it.desc) 1 0 = 1 ∧ seqDone ((streamQ it).core 0).acc.ddone (BitVec.ofNat 32 (fld (dWait it.desc) 63 32)) = false) := by
  decide +kernel

/-- A copy descriptor: one row of 64 bytes from 0x400000080 to 0x4000000C0, hull h2 both ways. -/
abbrev copyBlock : List Byte := bytesWith 64 [(1, 0x22), (8, 0x80), (12, 4), (16, 0xC0), (20, 4), (24, 64)]

/-- A copy item of `copyBlock`. -/
abbrev copyItem : CopyItem :=
  ⟨copyDescOf copyBlock, allHull 1 0xC1FF, allHull 1 0xC1FF, .none, 0, 0, 1, 0, 0, 0, false, 0, 0, 0, false, 0, false, false, 0, 0, 0, 0, []⟩

/-- Core 0 with a copy at the head of channel 0, and bytes at its source. -/
abbrev copyQ (it : CopyItem) : State :=
  { demo with cores := [(0, { coreOf (strandOf demoBank) with cpy := { CopyUnit.reset with chans := [(0, ⟨[it], 1, 0, false⟩)] } })],
              mem := memPut mem1 0x1000000000080 [1, 2, 3] }

theorem witness_CopiesQueued :
    ReadsScratch (demoAt copyBlock) w0 1 0x400000040 64 0x1000000000040 ∧
    (let s := demoAt copyBlock; let b := coreBytes s 0 0x1000000000040 64;
     b = copyBlock ∧ (copyDescOf b).check s w0 b = none ∧ (copyDescOf b).dkind = 0 ∧ s.copyFull 0 0 = false ∧ s.copyFull 0 4 = false ∧
     s.ready w0 [.g 6, .g 3, .h 1] = true ∧ (s.strand w0).awaits [.h 2, .h 2, .h 0] = false) ∧
    CopyUnit.reset.copyEnded 0 0 = false ∧ ({ CopyUnit.reset with chans := [(0, ⟨[], 1, 1, false⟩)] } : CopyUnit).copyEnded 0 0 = true :=
  ⟨reads_of (leaf := leaf2 0x1000000000000 4) (by decide +kernel) (by decide +kernel) (by decide +kernel) (by decide), by decide +kernel, by decide, by decide⟩

theorem witness_CopiesStart :
    (let s := copyQ copyItem; copyItem.desc.dkind ≠ 2 ∧ s.copyReady copyItem = true) ∧
    (let s : State := { demo with diePools := [(0, ⟨[copyItem], []⟩)] };
     (tget DieEngine.idle (s.diePool 0).engines 3).item = none ∧ (s.diePool 0).pool = [] ++ copyItem :: [] ∧
     copyItem.core = ((tget DieEngine.idle (s.diePool 0).engines 3).last + 1 + 0) % 256 ∧ s.copyReady copyItem = true) := by decide +kernel

theorem witness_CopiesMove :
    (let it := { copyItem with started := true }; let s := copyQ it;
     it.desc.skind = 0 ∧ it.desc.redop = 0 ∧ it.desc.len = 64 ∧
     s.trRange (hSeal it.hdst) (addr64 (it.desc.dstAt 0 0)) 64 .write = .ok [(0x10000000000C0, 64, leaf2 0x1000000000000 4)] ∧
     s.trRange (hSeal it.hsrc) (addr64 (it.desc.srcAt 0 0)) 64 .read = .ok [(0x1000000000080, 64, leaf2 0x1000000000000 4)] ∧
     isMemory 0x10000000000C0 = true ∧ isHbm 0x1000000000080 = false ∧ s.padWaits 0x10000000000C0 = false ∧ s.podStopped 0 = false) ∧
    (let it := { copyItem with started := true, desc := { copyItem.desc with ctrl := 0x2201, ssel := 0, saddr := 0 } };
     let s := { copyQ it with doms := [(1, { dom1 with wins := [(0, ⟨0, 4096, true, true⟩)] })] };
     it.desc.skind = 1 ∧ s.pcieStands = false ∧ (tget HostWin.none (s.dom 1).wins 0).rd = true ∧ 0 ≤ it.desc.srcAt 0 0 ∧ it.desc.srcAt 0 0 + 64 ≤ 4096) := by
  decide +kernel

/-- A PSTREAM block: one row of 256 bytes at 0x2000 for L1, depth 4, hull h2. -/
abbrev prefetchBlock : List Byte := bytesWith 32 [(1, 0x20), (9, 1), (14, 0x40), (15, 0x10)]

/-- A running stream over two lines at 0x2000. -/
abbrev stream1 (next : Nat) : PStream := ⟨1, 0, next, 0x2000, 256, 1, 0, false, 0, 1, allHull 1 0xC1FF, 0⟩

/-- A fill of the line at 0x2000 in flight. -/
abbrev fill1 (l2 : Bool) : PFill := ⟨0x2000, 1, 0x2000, 0, l2, 0, false, false, true, true⟩

theorem witness_PrefetchStreams :
    ReadsScratch (demoAt prefetchBlock) w0 1 0x400000040 32 0x1000000000040 ∧
    (let s := demoAt prefetchBlock; let b := coreBytes s 0 0x1000000000040 32;
     let box := boxOf (leAt b 0 8) 0 (toSigned 32 (leAt b 16 4)) 1 (leAt b 12 2 + 1) (leAt b 8 4);
     leAt b 8 4 = 256 ∧ nfld (leAt b 14 2) 14 11 = 2 ∧ nfld (leAt b 14 2) 10 4 = 4 ∧ (leAt b 14 2).testBit 3 = false ∧
     hullCheck s (s.h w0 2) 1 (rREAD + rUNIT) (addr64 box.1) box.2 = none ∧ zeroBytes b 20 12 = true ∧
     s.ready w0 [.g 3, .h 1] = true ∧ (s.strand w0).awaits [.h 2] = false) ∧
    (let s : State := { demo with cores := [(0, { coreOf (strandOf demoBank) with pst := [(0, stream1 0), (1, stream1 1)] })] };
     (stream1 1).lines[1]? = some 65 ∧ (stream1 0).lines[0]? = some 64 ∧
     s.translate 1 (64 * 128) .read = .ok 0x2000 (leaf2 0 12) ∧ l1Find (s.core 0).l1d 8 0x2000 = none ∧
     (stream1 1).touched + (stream1 1).depth ≤ (stream1 1).next ∧ (stream1 0).next < (stream1 0).touched + (stream1 0).depth) ∧
    (let s : State := { demo with cores := [(0, { coreOf (strandOf demoBank) with pfills := [fill1 false] })] };
     (s.core 0).pfills[0]? = some (fill1 false) ∧ s.podStopped 0 = false ∧ isHbm (fill1 false).pa = true ∧ (fill1 false).pa % 128 = 0 ∧
     s.llc = [] ∧ (tget L1Line.none (s.core 0).l1d (l1Set 0x2000 * 8)).valid = false) :=
  ⟨reads_of (leaf := leaf2 0x1000000000000 4) (by decide +kernel) (by decide +kernel) (by decide +kernel) (by decide), by decide +kernel, by decide +kernel, by decide +kernel⟩

theorem witness_Fences :
    (demo.ready w0 [] = true ∧ demo.owesStores w0 = false ∧ demo.inCallee w0 = false ∧
     (demo.core 0).taskQuiet (demo.openCopies 0) (demo.core 0).str.snext.toNat (demo.core 0).acc.dnext.toNat = true) ∧
    (let s : State := { demo with cores := [(0, { coreOf (strandOf demoBank) with wbuf := [⟨0, 0, 0x2000, [1, 2], 1, false⟩] })] };
     s.ready w0 [] = true ∧ s.owesStores w0 = true ∧ (s.core 0).wbuf ≠ []) := by decide

/-! ### Witnesses: chapters 12 and 13 -/

/-- A line at 0x2000 present and clean in its slice. -/
abbrev cached (k : Slot → Slot) : State :=
  { demo with llc := [(llcKey 0x2000, ⟨[(0, k { Slot.empty with pair := lineOf 0x2000 / 2, l0 := some ⟨false, false, false, false⟩ })], []⟩)] }

/-- A cache with one slot that is not locked and holds no poisoned line. -/
theorem calm_of_set {s : State} {pa k : Nat} {x : Slot} {l : List WaitFill} (h : s.llc = [(k, ⟨[(0, x)], l⟩)]) (f : x.locked = false)
    (p : ∀ y, x.l0 = some y ∨ x.l1 = some y → y.poisoned = false) : Calm s pa := by
  have way (q w : Nat) : (s.llcSet q).way w = x ∨ (s.llcSet q).way w = Slot.empty := by
    unfold State.llcSet LlcSet.way
    rw [h]
    simp only [tget]
    split
    · simp only [tget]; split
      · exact .inl rfl
      · exact .inr rfl
    · exact .inr rfl
  refine fun w _ => ⟨(way _ w).elim (fun e => e ▸ f) fun e => e ▸ rfl, fun line _ => ?_⟩
  unfold State.poisoned
  split
  · rename_i y hy
    unfold State.lineSt at hy
    split at hy
    · rename_i v _
      unfold Slot.line at hy
      rcases way (llcKey (line * 128)) v with e | e
      · rw [e] at hy
        split at hy
        · split at hy
          · exact p y (.inl hy)
          · exact p y (.inr hy)
        · cases hy
      · rw [e] at hy
        simp [Slot.empty] at hy
    · cases hy
  · rfl

theorem cached_calm : Calm (cached id) 0x2000 := calm_of_set rfl rfl fun _ h => h.elim (fun e => by cases e; rfl) nofun

theorem witness_HomeSlices :
    isHbm 0x2000 = true ∧ Calm (cached id) 0x2000 ∧ ((cached id).llcSet (llcKey 0x2000)).find (lineOf 0x2000) = some 0 ∧
    (demo.llcSet (llcKey 0x2000)).find (lineOf 0x2000) = none ∧ Calm demo 0x2000 ∧ FreeWay (demo.llcSet (llcKey 0x2000)) :=
  ⟨by decide, cached_calm, by decide, by decide, calm_of rfl, 0, by decide, by decide, by decide, by decide⟩

theorem witness_Reductions :
    (let s := cached id; (s.llcSet (llcKey 0x2000)).waiting = [] ∧ ((s.llcSet (llcKey 0x2000)).way 0).run < 15 ∧
      (s.llcSet (llcKey 0x2000)).find (lineOf 0x2000) = some 0 ∧
      s.lockedIn (llcKey 0x2000 / 2048) < 32 ∧ 0x2000 % reducedSize .addWx = 0) ∧ Unmarked (((cached id).llcSet (llcKey 0x2000)).way 0) ∧
    (let f : WaitFill := ⟨0, ⟨false, false, false, false⟩, 0, false, false⟩
     let x : Slot := { Slot.empty with pair := 9, l0 := some ⟨true, false, false, false⟩, locked := true, run := 2 }
     let s : State := { demo with llc := [(0, ⟨[(3, x)], [f]⟩)] };
     ((s.llcSet 0).lockedWays.find? fun v => !((s.llcSet 0).way v).pinned) = some 3 ∧ Unmarked ((s.llcSet 0).way 3) ∧
     (s.llcSet 0).waiting = [f]) :=
  ⟨by decide +kernel, fun _ h => h.elim (fun e => by cases e; rfl) nofun, by decide +kernel,
   fun _ h => h.elim (fun e => by cases e; rfl) nofun, rfl⟩

theorem witness_StackControllers :
    (let q : BankId := ⟨0, 0, 0⟩;
     let s : State := { demo with hbmStacks := [(0, { StackRegs.reset with ready := true, rowCe := [(rowKey 0 0 5, 8)] })], banks := [(bankIdKey q, [⟨1, false, []⟩])] };
     (s.stack q.stack.val).ready = true ∧ (tget [] s.banks (bankIdKey q) ++ tget [] s.hbmWait (bankIdKey q)).head? = some ⟨1, false, []⟩ ∧ s.sliceIn = [] ∧
     8 ≤ tget 0 (s.stack 0).rowCe (rowKey 0 0 5) ∧ tget 0 (s.stack 0).rowCe (rowKey 0 0 6) < 8 ∧ (s.stack 0).refx2 = false) := by decide

theorem quiet_of {s : State} (h : s.llc = []) : Quiet s :=
  ⟨fun e he => (by rw [h] at he; cases he), fun e he => (by rw [h] at he; cases he)⟩

/-- Domain 1 with a granary-backed 64 KiB page at 0x10000, resident or not, in the frame at 0x30000. -/
abbrev backed (resident : Bool) (quota : Nat) : State :=
  { State.reset with
    cores := [(0, { coreOf { strandOf demoBank with park := .pageIn 1 0x10008 } with tlb := [] })],
    doms := [(1, { dom1 with
      backing := 7, quota := quota, pages := if resident then [(0x30000, 0x10000)] else [],
      tables := [(0x800000000, 16384), (0x800008000, 32768), (0x800010000, 4096), (0x800011000, 4096)] })],
    mem := [(0x800000000, 1), (0x800000001, 0x80), (0x800000004, 8), (0x800008000, 1), (0x800008002, 1), (0x800008004, 8),
            (0x800010000, 1), (0x800010001, 0x10), (0x800010002, 1), (0x800010004, 8),
            (0x800011008, if resident then 0x63 else 0x23)] ++ (if resident then [(0x80001100A, 3)] else []),
    mgmt := { Mgmt.reset with grn := { Granary.reset with
      ready := true, holdup := true, objs := [(7, { GrnObj.none with kind := 5, cap := 0x100000, paged := [(0x10000, [(8, 0x55)])] })] } } }

/-- With one strand held, every strand is that one or at reset. -/
theorem strand_cases {s : State} {k : Core} {x : Strand} (h : s.cores = [(0, k)]) (hk : k.strands = [(0, x)]) (v : Site) :
    s.strand v = x ∨ s.strand v = Strand.reset := by
  unfold State.strand State.core Core.strand
  rw [h]
  simp only [tget]
  split
  · rw [hk]; simp only [tget]; split
    · exact .inl rfl
    · exact .inr rfl
  · exact .inr rfl

/-- The tables on the walk of 0x10008. -/
abbrev tables4 : List Nat := [0x800000000, 0x800008000, 0x800010000, 0x800011000]

theorem walk_stands {s : State} {va pa n : Nat} (v : ∀ k, pteIndex k va = pteIndex k 0x10008) (d : (s.dom 1).tables = (backed true 0 |>.dom 1).tables)
    (t : ∀ k, k < 4 → s.tableAt 1 va (k + 1) = tables4[k]?) (out : ∀ k, k < 4 → ∀ a, tables4[k]? = some a →
      a + 8 * pteIndex (k + 1) 0x10008 + 8 ≤ pa ∨ pa + n ≤ a + 8 * pteIndex (k + 1) 0x10008) : WalkStands s 1 va 4 pa n := by
  intro k a h1 h4 ha
  simp only [v]
  obtain ⟨k, rfl⟩ : ∃ j, k = j + 1 := ⟨k - 1, by omega⟩
  have e := t k (by omega)
  rw [e] at ha
  refine ⟨?_, ?_, ?_, out k (by omega) a ha, fun j u j1 jk hu => ?_⟩
  · have : k = 0 ∨ k = 1 ∨ k = 2 ∨ k = 3 := by omega
    rcases this with rfl | rfl | rfl | rfl <;> cases ha <;> decide
  · have : k = 0 ∨ k = 1 ∨ k = 2 ∨ k = 3 := by omega
    rcases this with rfl | rfl | rfl | rfl <;> cases ha <;> decide
  · rw [d]
    have : k = 0 ∨ k = 1 ∨ k = 2 ∨ k = 3 := by omega
    rcases this with rfl | rfl | rfl | rfl <;> cases ha
    · exact ⟨(0x800000000, 16384), by decide, by decide, by decide⟩
    · exact ⟨(0x800008000, 32768), by decide, by decide, by decide⟩
    · exact ⟨(0x800010000, 4096), by decide, by decide, by decide⟩
    · exact ⟨(0x800011000, 4096), by decide, by decide, by decide⟩
  · obtain ⟨j, rfl⟩ : ∃ i, j = i + 1 := ⟨j - 1, by omega⟩
    rw [t j (by omega)] at hu
    have : k = 0 ∨ k = 1 ∨ k = 2 ∨ k = 3 := by omega
    rcases this with rfl | rfl | rfl | rfl <;> cases ha <;> first
      | omega
      | (have : j = 0 ∨ j = 1 ∨ j = 2 := by omega
         rcases this with rfl | rfl | rfl <;> cases hu <;> first | decide | omega)

theorem witness_PagesMove :
    (let s := backed false 0x10000; s.walk 1 0x10008 = .leaf 4 35 ∧ s.live 1 = true ∧ bit (35 : W64) 5 = true ∧ bit (35 : W64) 6 = false ∧
      s.residentBytes 1 + leafSize 4 ≤ (s.dom 1).quota ∧ s.tableAt 1 0x10008 4 = some 0x800011000 ∧
      (s.fresh.1.pickFrame (List.range 16) (leafSize 4) s.fresh.2).isSome = true ∧ WalkStands s 1 0x10008 4 0 0 ∧ Quiet s ∧
      ∀ v q h, (s.strand v).park ≠ .entry q h) ∧
    (let s := backed true 0; let e := BitVec.ofNat 64 (0x30000 + 3 + 32 + 64); s.walk 1 0x10008 = .leaf 4 e ∧ bit e 5 = true ∧ bit e 6 = true ∧
      (s.dom 1).quota < s.residentBytes 1 + 2 ^ 25 ∧ s.holdsPage (pteAddr e) (leafSize 4) = false ∧
      s.tableAt 1 0x10008 4 = some 0x800011000 ∧
      s.pageQuiet (pteAddr e) (leafSize 4) = true ∧ s.unitsHold 1 0x10000 (leafSize 4) = false ∧ s.mgmt.grn.readonly = false) ∧
    WalkStands (backed true 0) 1 0x10008 4 0x30000 (leafSize 4) ∧ Quiet (backed true 0) := by
  refine ⟨⟨by decide +kernel, by decide, by decide, by decide, by decide +kernel, by decide +kernel,
      pickFrame_isSome (j := 0) (by decide) (by decide +kernel), walk_stands (fun _ => rfl) rfl (by decide +kernel) (by decide), quiet_of rfl, ?_⟩,
    by decide +kernel, walk_stands (fun _ => rfl) rfl (by decide +kernel) (by decide), quiet_of rfl⟩
  intro v q h e
  rcases strand_cases (s := backed false 0x10000) rfl rfl v with x | x <;> rw [x] at e <;> cases e

/-- An update descriptor over one parameter at 0x4000 with its gradient at 0x2000 and row statistics at 0x3000. -/
abbrev updDesc (op : Byte) : List Byte :=
  bytesWith 128 [(0, op), (8, 1), (16, 1), (20, 1), (28, 1), (33, 0x40), (41, 0x20), (57, 0x30), (96, 1)]

/-- A submitted descriptor that has reached a stage. -/
abbrev updItem (op : Byte) (stage : Nat) : UpdItem := { UpdItem.queued 0 0x8000 0 with stage := stage, desc := updDesc op, begun := true }

/-- Queue 0 of unit 0 with one descriptor. -/
abbrev updQ0 (it : UpdItem) : UpdQueue := { UpdQueue.reset with bound := true, dom := 1, hs := [(1, allHull 1 0xC1FF)], items := [it] }

/-- Unit 0 with a descriptor in queue 0. -/
abbrev updU0 (it : UpdItem) (running : Bool) : UpdUnit :=
  { UpdUnit.reset with running := running, runq := (if running then 0 else 15), queues := [(0, updQ0 it)] }

/-- The module with that unit and schedule slot 0 at count 1. -/
abbrev updWith (it : UpdItem) (running : Bool) : State :=
  { demo with upd := { UpdState.reset with units := [(0, updU0 it running)], sched := [(0, { SchedSlot.reset with dom := 1, count := 1 })] } }

theorem none_cancelled {it : UpdItem} {r : Bool} (h : it.cancel = false) : NoneCancelled (updWith it r) 0 := by
  intro q x hx
  have e : ((updWith it r).updUnit 0).queue q = if q = 0 then updQ0 it else UpdQueue.reset := by
    have u : (updWith it r).updUnit 0 = updU0 it r := by cases r <;> rfl
    rw [u]
    by_cases hq : q = 0
    · subst hq; rfl
    · rw [if_neg hq]; show (if 0 = q then _ else _) = _; rw [if_neg (Ne.symm hq)]; rfl
  rw [e] at hx
  by_cases hq : q = 0
  · rw [if_pos hq] at hx; cases hx with
    | head => exact h
    | tail _ h => cases h
  · rw [if_neg hq] at hx; cases hx

theorem witness_UpdateQueues :
    ((updWith (updItem 1 5) false).updUnit 0 |>.queue 0).bound = true ∧ NoneCancelled (updWith (updItem 2 5) false) 0 ∧
    NextHead (updWith (updItem 2 5) false) 0 0 (updItem 2 5) ∧
    (let s := updWith (updItem 2 5) false; let it := updItem 2 5; fld (uWait it.desc) 1 0 = 0 ∧ uApply it.desc = true ∧
      uStep it.desc = (s.schedSlot (uSlot it.desc)).count.toNat ∧ uGate it.desc = false ∧
      s.updPages 0 ((s.updUnit 0).queue 0) it.desc ((s.updUnit 0).rule (fld (uCtrl it.desc) 5 2)) = none) ∧
    (let it := { updItem 2 5 with desc := (updDesc 2).set 8 2 }; uStep it.desc ≠ ((updWith it false).schedSlot (uSlot it.desc)).count.toNat) :=
  ⟨by decide +kernel, none_cancelled rfl, ⟨0, by decide, by decide, by decide, fun _ h => absurd h (Nat.not_lt_zero _)⟩, by decide +kernel, by decide +kernel⟩

theorem witness_UpdatePasses :
    NoneCancelled (updWith (updItem 1 9) true) 0 ∧ Quiet (updWith (updItem 1 9) true) ∧
    (let s := updWith (updItem 1 9) true; let d := updDesc 1; uN d = 1 ∧ uM d = 1 ∧ uFrz d = false ∧ uApply d = false ∧ fld (uCtrl d) 27 26 = 0 ∧
      ruleM [] 6 = false ∧ s.trRange 1 (uRowAt d 40 4 0) 4 .read = .ok [(0x2000, 4, leaf2 0 12)] ∧
      s.trRange 1 (uA d 0 0) 4 .read = .ok [(0x3000, 4, leaf2 0 12)] ∧ s.trRange 1 (uA d 1 0) 4 .write = .ok [(0x3004, 4, leaf2 0 12)]) ∧
    (let s := updWith (updItem 2 9) true; let d := updDesc 2; uApply d = true ∧ uPfmt d = 1 ∧ bit (uCtrl d) 23 = false ∧
      s.trRange 1 (uRowAt d 32 4 0) 4 .read = .ok [(0x4000, 4, leaf2 0 12)] ∧
      s.trRange 1 (uRowAt d 32 4 0) 4 .write = .ok [(0x4000, 4, leaf2 0 12)] ∧ fld (uSignal d) 1 0 = 0) :=
  ⟨none_cancelled rfl, quiet_of rfl, by decide +kernel, by decide +kernel⟩

/-- Schedule slot 0 of domain 1 at count 1 of one shard, with its counter objects 5 and 6. -/
abbrev slotAt (shape : W64) : SchedSlot :=
  { SchedSlot.reset with dom := 1, count := 1, shard := BitVec.ofNat 64 (1 + 5 * 2 ^ 16 + 6 * 2 ^ 32), shape := shape, rate := 0x3F800000, decay := 10 }

/-- The module with that slot and a commit for a step. -/
abbrev schedAt (step : W32) (shape : W64) : State :=
  { demo with
    sync := { SyncState.reset with grants := [(1, 0, 16)] },
    upd := { UpdState.reset with sched := [(0, slotAt shape)], commits := [(0, step)] } }

theorem witness_Schedules :
    (let s := schedAt 1 0; let x := s.schedSlot 0; x.count = 1 ∧ fld x.shard 31 16 = 5 ∧ fld x.shard 47 32 = 6 ∧ x.cfgerr = false ∧
      s.objExists 1 5 = true ∧ objType (s.objWord 1 5) = 0 ∧ s.sync.waiters = [] ∧ s.objExists 1 6 = true ∧
      fld (s.objWord 1 5) 31 0 + 1 < 2 ^ 32 ∧ 1 ≤ fld (s.objWord 1 5) 31 0 + 1) ∧
    (schedAt 2 0).upd.commits = [] ++ (0, 2) :: [] ∧
    (let s := schedAt 1 0; let x := s.schedSlot 0; x.bad (s.schedCounters x) = false ∧ fld x.shape 34 3 < x.count.toNat ∧ fld x.shape 2 0 = 0) ∧
    (let s := schedAt 1 1; let x := s.schedSlot 0; x.bad (s.schedCounters x) = false ∧ fld x.restart 31 0 = 0 ∧ fld x.shape 2 0 = 1) ∧
    (let s := schedAt 1 16; let x := s.schedSlot 0; x.bad (s.schedCounters x) = false ∧ 0 < fld x.shape 34 3 ∧ x.count.toNat ≤ fld x.shape 34 3) := by
  decide +kernel

/-- A loss slot with its enable bit. -/
abbrev lossAt (f : LossSlot → LossSlot) : State :=
  { demo with upd := { UpdState.reset with loss := [(0, f { LossSlot.reset with dom := 1, cfg0 := 0x3F0000003F800000, cfg1 := BitVec.ofNat 64 (2 ^ 40 + 0x3F80) })] } }

theorem witness_LossGates :
    (let x := (lossAt id).lossSlot 0; x.cfgErr = false ∧ x.state ≠ 2 ∧ x.nsamp = 0 ∧ bit x.cfg1 40 = true) ∧
    f32NonFinite 0x7F800000 = true ∧ f32NonFinite 0x3F800000 = false ∧
    (let x := (lossAt fun x => { x with state := 1, step := 3 }).lossSlot 0; x.state = 1 ∧ x.spike = false ∧ x.nfacc.toNat ≤ fld x.cfg1 39 16) ∧
    (let x := (lossAt fun x => { x with state := 1, step := 3, nfacc := 5 }).lossSlot 0; x.spike = false ∧ fld x.cfg1 39 16 < x.nfacc.toNat) ∧
    bit (demo.lossSlot 0).cfg1 40 = false := by decide +kernel

/-! ### Witnesses: chapter 14 -/

/-- Objects 0 to 15 of domain 1 on this module with every right but REMOTE; and object 5 of module 3, REMOTE and SIGNAL. -/
abbrev syncHulls : Table W128 := (4, mkHull 2 0xC017 1 0 16 0) :: (5, mkHull 2 10 1 0 1 0x30005) :: hulls

/-- Objects 0 to 15 exist; object 5 has the word `x`; with g1 = 5 the object and g2 the operand. -/
abbrev syncDemo (x g2 : W64) : State :=
  { demoB (bankOf 0x1000 [(1, 5), (2, g2)] [] syncHulls) with
    sync := { SyncState.reset with grants := [(1, 0, 16)], words := [(objKey 1 5, x)] } }

/-- An object word of a type with a value. -/
abbrev objOf (typ v : Nat) : W64 := BitVec.ofNat 64 (typ * 2 ^ 61 + v)

/-- The route to module `m` leaves by port 0. -/
abbrev oneHop (m : Nat) : LinkState :=
  { LinkState.reset with
    ports := [(0, { Port.reset with state := 2 })],
    switches := [(0, { Switch.reset with rt0 := [(m, BitVec.ofNat 64 (2 ^ 18 + 2 ^ 40))] })] }

theorem local5 {s : State} (mask : Nat) (h : hullCheck4 s (s.h w0 4) 2 mask = none) (b : hBase (s.h w0 4) = 0)
    (l : hLen (s.h w0 4) = 16) (m : s.moduleId = 0) (e : s.objExists (hSeal (s.h w0 4)) 5 = true) : SyncLocal s (s.h w0 4) mask 5 :=
  ⟨h, by decide, by rw [b]; decide, by rw [b, l]; decide, by rw [b, m]; decide, e⟩

theorem witness_SyncInstructions :
    (let s := syncDemo (objOf 0 7) 2; s.ready w0 [.g 6, .g 1, .g 2, .h 4] = true ∧ s.owesStores w0 = false ∧
      (s.g w0 1).toNat = 5 ∧ (s.g w0 2).toNat < 2 ^ 32 ∧ cfgOk (objOf 2 0x30000) = true) ∧
    NoWaiters (syncDemo (objOf 0 7) 2) 1 5 ∧ SyncLocal (syncDemo (objOf 0 7) 2) ((syncDemo (objOf 0 7) 2).h w0 4) rSIGNAL 5 ∧
    SyncLocal (syncDemo (objOf 1 7) 9) ((syncDemo (objOf 1 7) 9).h w0 4) rSET 5 ∧
    SyncLocal (syncDemo (objOf 3 0) (objOf 2 0x30000)) ((syncDemo (objOf 3 0) (objOf 2 0x30000)).h w0 4) (rSET + rCONFIG) 5 ∧
    SyncLocal (syncDemo (objOf 2 0x20001) 0) ((syncDemo (objOf 2 0x20001) 0).h w0 4) rSIGNAL 5 ∧
    (objType (objOf 2 0x20001) = 2 ∧ fld (objOf 2 0x20001) 15 0 + 1 = fld (objOf 2 0x20001) 31 16 ∧
      fld (objOf 2 0x30001) 15 0 + 1 ≠ fld (objOf 2 0x30001) 31 16) := by
  refine ⟨by decide +kernel, (fun _ hw => nomatch hw), ?_, ?_, ?_, ?_, by decide⟩ <;>
    exact local5 _ (by decide +kernel) (by decide) (by decide) rfl (by decide)

theorem witness_Waits :
    SyncLocal (syncDemo (objOf 1 7) 9) ((syncDemo (objOf 1 7) 9).h w0 4) rWAIT 5 ∧
    (objType (objOf 1 7) = 1 ∧ 7 ≤ fld (objOf 1 7) 31 0 ∧ fld (objOf 1 7) 31 0 < 9) ∧
    (let x := objOf 2 (2 ^ 32 * 3); objType x = 2 ∧ fld x 47 32 ≠ 2 ∧ fld x 47 32 = 3) ∧
    (let x := objOf 0 0xFFFFFFFF; objType x = 0 ∧ (fld x 31 0 + 2 ^ 32 - 0x7FFFFFFF) % 2 ^ 32 ≥ 2 ^ 31 ∧
      (fld x 31 0 + 2 ^ 32 - 0x80000000) % 2 ^ 32 < 2 ^ 31) ∧
    (let s := syncDemo (objOf 1 7) 9
     let p : WaitParty := .strand 0 0
     let u := (s.park w0 (.sync 1 5 6 (.ywait 9)))
     let t := { u with sync := { u.sync with waiters := [⟨p, 1, 5, .released (objOf 1 9) 0 false⟩] } }
     t.waiterOf p = some ⟨p, 1, 5, .released (objOf 1 9) 0 false⟩ ∧ (t.strand w0).park = .sync 1 5 6 (.ywait 9)) ∧
    (let s := syncDemo (objOf 1 7) 9; s.objExists 1 5 = true ∧ objKey 1 5 ∉ tget [] s.sync.resident 0) :=
  ⟨local5 _ (by decide +kernel) (by decide) (by decide) rfl (by decide), by decide, by decide, by decide, by decide +kernel, by decide⟩

theorem witness_RemoteSignals :
    (let s := { syncDemo 0 2 with link := oneHop 3 }; let hv := s.h w0 5
     s.ready w0 [.g 6, .g 1, .g 2, .h 5] = true ∧ hullCheck4 s hv 2 rSIGNAL = none ∧ hHas hv rREMOTE = true ∧
     nfld (hBase hv) 27 16 = 3 ∧ nfld (hBase hv) 15 0 = 5 ∧ hLen hv = 1 ∧ s.canInject 0 3 = true ∧ s.epochHeld 0 3 3 = false ∧
     s.tagFree = true) ∧
    tget ([] : List (Nat × Nat × Nat × Nat)) [(0, [(9, 5, 3, 0)])] 0 = [] ++ (9, 5, 3, 0) :: [] ∧
    (∀ e, e ∈ [(9, 5, 3, 0)] → e.2.2.2 = 0 → e.2.2.1 = 3) := by decide +kernel

/-- A ring of domain 1 with a descriptor at its head and its block of 64 bytes in memory. -/
abbrev ringAt (it : RingItem) : State :=
  { demo with
    mem := memPut mem1 0x1000000000040 (bytesWith 64 [(0, 0x80), (4, 4), (8, 64), (12, 3)]),
    sync := { SyncState.reset with
      grants := [(1, 0, 16)], words := [(objKey 1 6, objOf 0 1)],
      rings := [(0, { RingChan.none with
        on := true, dom := 1, nextmod := 3, prevmod := 3, blen := 64, recv := 5, used := 6, hmem := allHull 1 0xC1FF, queue := [it] })] },
    link := oneHop 3 }

/-- A descriptor just queued, one whose steps advance, and one that owes a credit. -/
abbrev ringNew : RingItem := RingItem.queued 0 0x400000040 0
abbrev ringRun (sent acked steps credits : Nat) : RingItem :=
  { ringNew with started := true, src := 0x400000080, len := 64, steps := steps, sent := sent, acked := acked, credits := credits }

theorem witness_Rings :
    (let s := ringAt ringNew; let x := s.ring 0; x.on = true ∧ x.queue.length < 4 ∧
      hullCheck s x.hmem 1 rREAD 0x400000040 64 = none ∧
      s.trRange 1 0x400000040 64 .read = .ok [(0x1000000000040, 64, leaf2 0x1000000000000 4)] ∧ isMemory 0x1000000000040 = true ∧
      isHbm 0x1000000000040 = false ∧ s.padWaits 0x1000000000040 = false ∧ ringDescOk x (memBytes s.mem 0x1000000000040 64) = true ∧
      leAt (memBytes s.mem 0x1000000000040 64) 16 1 % 4 = 0 ∧
      hullCheck s x.hmem 1 (rREAD + rUNIT) 0x400000080 64 = none ∧
      s.trRange 1 0x400000080 64 .read = .ok [(0x1000000000080, 64, leaf2 0x1000000000000 4)]) ∧
    (let it := ringRun 2 1 3 0; it.started = true ∧ it.owed = 0 ∧ it.rstat = 0 ∧ it.acked < it.sent) ∧
    (let it := ringRun 3 3 3 1; it.acked = it.sent ∧ it.sent = it.steps ∧ it.steps ≤ it.credits + 2 ∧ it.sig.kind = 0) ∧
    (let s := ringAt (ringRun 2 2 3 0); let it := ringRun 2 2 3 0; it.credits + 3 ≤ it.steps ∧ it.credits + 1 < it.acked ∧
      s.waiterOf (.ringCredit 0) = none ∧ waitHolds (s.objWord 1 6) (BitVec.ofNat 64 (it.credits + 1)) = true ∧
      s.canInject 0 3 = true ∧ s.epochHeld 0 3 3 = false ∧ s.tagFree = true) := by decide +kernel

/-! ### Witnesses: chapter 15 -/

/-- Port 0 as given, port 1 UP. -/
abbrev portAt (p : Port) : State :=
  { demo with link := { LinkState.reset with ports := [(0, p), (1, { Port.reset with state := 2 })],
                                             switches := [(0, { Switch.reset with rt0 := [(3, BitVec.ofNat 64 (1 + 2 ^ 18 + 2 ^ 40))] })] } }

/-- A port that is UP with all wavelengths. -/
abbrev upPort : Port := { Port.reset with state := 2, txmask := 0xFFFF, rxmask := 0xFFFF }

/-- A data flit with SEQ `n` and a payload, and its code block. -/
abbrev dataFlit (n : Nat) (b : List Byte) : Flit := ⟨n, 0, false, false, 0, 1, 0, 0, 0, false, b, false⟩
abbrev blockOf (f : Flit) : List Byte := rsBlock (flitBytes f)

/-- A SYNC packet from module 3 that adds 1 to object 5, its last hop done. -/
abbrev syncPkt (hidx hops : Nat) : Packet :=
  { Packet.to 5 with kind := 6, hidx := hidx, hops := hops, port0 := 1, port1 := 1, src := 3, srcdom := 1, addr := 5, data := [1, 0, 0, 0, 0, 0, 0, 0] }

theorem witness_Flits :
    ((portAt { upPort with resend := [⟨3, 0, 1, [7]⟩] }).port 0).sends = true ∧
    (let p := { upPort with tx := [(vcKey 3 1, [⟨syncPkt 0 1, 0⟩])] }; p.replay.length < 2048 ∧ p.grant = some (3, 1) ∧
      tget [] p.tx (vcKey 3 1) = ⟨syncPkt 0 1, 0⟩ :: [] ∧ ((pktBytes (syncPkt 0 1)).drop 0).length ≤ 236) ∧
    (upPort.resend = [] ∧ upPort.grant = none) ∧ 236 < (pktBytes { syncPkt 0 1 with data := List.replicate 256 0 }).length ∧
    (pktLen (pktBytes (syncPkt 0 2)) = some 40 ∧ (pktOf (pktBytes (syncPkt 0 2))).hidx + 1 < (pktOf (pktBytes (syncPkt 0 2))).hops) ∧
    (let p := { upPort with nakSeen := true, replay := [⟨3, 0, 1, [7]⟩] }; p.nakSeen = true ∧ p.replay ≠ []) := by decide +kernel

theorem witness_FlitBlocks :
    rsUnblock (blockOf (dataFlit 0 [1, 2])) = some (flitBytes (dataFlit 0 [1, 2]), []) ∧
    (let f := flitOf (flitBytes (dataFlit 0 [1, 2])); f.bad = false ∧ f.ctrl = false ∧ f.seq = 0 ∧ f.payload.length < 32) ∧
    (let f := flitOf (flitBytes { dataFlit 0 [] with ctrl := true }); f.bad = false ∧ f.ctrl = true) ∧
    (flitOf (flitBytes (dataFlit 9 []))).seq ≠ upPort.rxSeq.toNat ∧
    (flitOf (List.replicate 256 0xFF)).bad = true ∧
    rsUnblock ((List.replicate 16 (1 : Byte) ++ List.replicate 256 0)) = none := by decide +kernel

theorem witness_Lanes :
    (portAt { upPort with rejects := 8 }).portUsable 0 = true ∧ (0xFFFF : W16) &&& 0xFFFF = 0xFFFF ∧ upPort.queued = [] ∧
    (let p := { upPort with replay := [⟨3, 0, 1, [7]⟩] }; p.rejects < 8 ∧ p.replay ≠ [] ∧
      p.progress.toNat + 100000 ≤ ({ portAt p with time := 100000 } : State).time.toNat ∧ p.txmask &&& 0xFFFF = p.txmask) ∧
    (let p := { upPort with lcur := [(3, 21250)] }; bit p.rxmask 3 = true ∧ 21250 ≤ (tget 0 p.lcur 3).toNat ∧
      tget 0 p.lcur 4 = 0) ∧
    (8 ≤ maskCount 0x00FF ∧ maskCount 0x007F < 8) ∧ 8 ≤ maskCount (setBit (0xFFFF : W16) 3 false) ∧
    (bit (0xFFF7 : W16) 3 = false ∧ 8 ≤ maskCount (setBit (0xFFF7 : W16) 3 true)) ∧
    (let y := Lasers.reset; bit y.failed 3 = false ∧ y.serves ≠ some 3 ∧ y.serves = none ∧ y.spareBad = false ∧ y.due = none) ∧
    (let y := { Lasers.reset with failed := 8 }; y.due = some 3 ∧ y.serves = none ∧ y.spareBad = false ∧ bit y.failed 3 = true) := by
  decide +kernel

/-- What a port that powers up finds when every wavelength locks. -/
abbrev allLocked : PortEnv := ⟨none, 0xFFFF, 0xFFFF, 3, 7, 0⟩

theorem witness_PortPower :
    (let p := { Port.reset with state := 1 }; p.state = 1 ∧ p.latched = false ∧ p.replay = [] ∧ p.queued = []) ∧
    (upPort.state ≠ 1 ∧ upPort.state ≠ 4) ∧
    (8 ≤ maskCount allLocked.rxLocked ∧ maskCount (0x007F : W16) < 8 ∧ allLocked.farMod ≠ demo.moduleId) ∧
    (∀ n, n < 16 → bit (0xFFFF : W16) n = (bit allLocked.txLocked n && !(bit Lasers.reset.failed n && decide (Lasers.reset.serves.map Fin.val ≠ some n)))) ∧
    (let p := { upPort with state := 4, replay := [⟨3, 0, 1, [7]⟩] }; p.replay ≠ [] ∧ p.latched = false) := by decide +kernel

/-- The packet `p` at the head of port 0's channel 0, class 1; module 3 is one hop away; channel 7 receives from its domain 1, and ring 7
takes its blocks. -/
abbrev arrived (p : Packet) (s : State) : State :=
  { s with
    link := (portAt { upPort with rx := [(vcKey 0 1, ⟨[], [], [⟨p, []⟩]⟩)] }).link,
    sync := { SyncState.reset with
      grants := [(1, 0, 16)], peers := [(3, 1, 1)],
      chans := [(7, { StageChan.none with rx := true, dom := 1, srcmod := 3, srcdom := 1, wbase := 0x2000, wlen := 4096, fobj := 5, reduce := true })],
      rings := [(7, { RingChan.none with on := true, dom := 1, nextmod := 3, prevmod := 3, prevdom := 1, blen := 128, buf := 0x2000, hmem := allHull 1 0xC1FF })] } }

/-- Pod 0 in a state. -/
abbrev podAt (st : BitVec 3) : State :=
  { demo with mgmt := { Mgmt.reset with pwr := { Pwr.reset with pods := [(0, { PodReg.reset with state := st })] } } }

/-- A packet of a kind on channel 7. -/
abbrev chanPkt (kind rowlen : Nat) (b : List Byte) : Packet :=
  { Packet.to 0 with kind := kind, hidx := 1, hops := 1, src := 3, srcdom := 1, chan := 7, op := 2, rowlen := rowlen, data := b }

theorem witness_Packets :
    (let s := arrived (syncPkt 0 2) demo; s.rxHead 0 0 1 = some ⟨syncPkt 0 2, []⟩ ∧ s.portUsable 1 = true) ∧
    (let p := { syncPkt 0 2 with port0 := 2, esc := true }; (arrived p demo).portUsable 2 = false ∧ p.dst ≠ demo.moduleId.toNat) ∧
    (let s := arrived (chanPkt 1 8 []) demo; s.canInject 0 3 = true ∧ s.chanOk (chanPkt 1 8 []) = true ∧
      s.chanOk { chanPkt 1 8 [] with srcdom := 2 } = false ∧ s.trRange 1 0x2000 8 .read = .ok [(0x2000, 8, leaf2 0 12)] ∧
      leafRet (leaf2 0 12) ≠ 1 ∧ (∀ i, i < 8 → tget false [] i = false)) ∧
    (let s := arrived (chanPkt 3 0 [7]) demo; s.landRefuses (chanPkt 3 0 [7]) false = none ∧
      s.trRange 1 0x2000 1 .write = .ok [(0x2000, 1, leaf2 0 12)]) ∧
    (let p := chanPkt 4 0 [1, 0, 0, 0]; let s := arrived p (cached id); s.landRefuses p true = none ∧ redOpOf p.op = some .addI32 ∧
      s.trRange 1 0x2000 4 .write = .ok [(0x2000, 4, leaf2 0 12)] ∧ (s.llcSet (llcKey 0x2000)).waiting = [] ∧
      (s.llcSet (llcKey 0x2000)).find (lineOf 0x2000) = some 0 ∧ s.lockedIn (llcKey 0x2000 / 2048) < 32) ∧
    (let s := arrived (chanPkt 5 0 []) demo; (s.chan 7).early = [] ∧ (chanPkt 5 0 []).cseq = (s.chan 7).cseqRx.toNat ∧
      s.objExists 1 5 = true ∧ s.sync.waiters = []) ∧
    (let s := arrived (syncPkt 1 1) demo; s.sync.peers.find? (fun e => decide (e.1 = 3) && decide (e.2.1 = 1)) = some (3, 1, 1) ∧ s.live 1 = true ∧
      s.sync.peers.find? (fun e => decide (e.1 = 3) && decide (e.2.1 = 2)) = none) ∧
    (let s := arrived (chanPkt 7 0 [7]) demo; let r := s.ring 7; r.on = true ∧ r.prevmod = 3 ∧ r.prevdom = 1 ∧
      s.trRange (hSeal r.hmem) (r.buf + 0 * r.blen + 0) 1 .write = .ok [(0x2000, 1, leaf2 0 12)]) ∧
    (arrived (chanPkt 10 0 []) demo).link.mgmt.length < 256 ∧
    (let p := chanPkt 3 0 [7]
     let s := arrived p { podAt 2 with mem := memPut mem1 0x800008000 [7, 0, 0, 0, 0, 0, 1] }
     p.hops ≤ p.hidx ∧ s.packetParked p = true) := by decide +kernel

/-- A reply waits at port 0 for the tracker `tr`. -/
abbrev replied (p : Packet) (tr : Tracker) (it : CopyItem) : State :=
  let s := arrived p (copyQ it)
  { s with link := { s.link with trackers := [tr] } }

theorem witness_Replies :
    (let it : CopyItem := { copyItem with owed := 1 }
     let tr : Tracker := ⟨9, .read (.chan 0 0) 0 0 1, 3, 0, false, 0⟩
     let s := replied { chanPkt 2 0 [7] with tag := 9 } tr it
     s.link.trackers.find? (fun t => decide (t.tag = 9)) = some tr ∧ s.copyOf (.chan 0 0) = some it ∧ it.seq = 0) ∧
    (let tr : Tracker := ⟨9, .closeOnly 7, 3, 0, false, 0⟩
     let s := replied { chanPkt 9 0 [] with tag := 9 } tr copyItem
     s.link.trackers.find? (fun t => decide (t.tag = 9)) = some tr ∧ s.link.trackers.find? (fun t => decide (t.tag = 8)) = none) ∧
    ((0 : BitVec 12) = demo.moduleId ∧ (1 : BitVec 12) ≠ demo.moduleId ∧ tget [] demo.link.claims 1 = [] ∧ (5 : W64) ≠ demo.link.serial) ∧
    ((demo.setSwitch 0 { Switch.reset with busy := true }).oldPkt 0 = 0 ∧ (demo.switch 0).busy = false) := by decide +kernel

/-! ### Witnesses: chapter 16 -/

/-- The module has booted and mailbox `m` holds the command with the given bytes; the granary is ready or not. -/
abbrev askedM (m : Nat) (ready : Bool) (b : Table Byte) : State :=
  { demo with
    mgmt := { Mgmt.reset with
      boot := { Boot.reset with state := .running, done := true },
      grn := { Granary.reset with ready := ready, objs := [(7, { GrnObj.none with kind := 2, key := 1, cap := 65536, data := [(0, 5)] })] },
      funcs := [(1, ⟨1, none, [], [], [], []⟩)],
      mbx := [(m, { Mbx.reset with busy := true, cap := bytesWith 64 b })] },
    pmc := { DiePmc.reset with avail := true } }

/-- The PF's mailbox holds the command. -/
abbrev asked (b : Table Byte) : State := askedM 0 true b

/-- A Bool that says `Holds`. -/
def holdsB (s : State) (m op : Nat) (used : List (Nat × Nat)) : Bool :=
  let x := s.mbx m
  x.busy && decide (x.stage = 0) && decide (x.arg = []) && decide (x.opcode = op) && !x.drop && s.booted &&
  decide (s.mgmt.boot.due = none) && s.turn m && decide (s.mgmt.lc.state ≠ 4) &&
  (List.range 64).all fun o => decide (o < 4) || decide (x.at o 1 = 0) || used.any fun r => decide (r.1 ≤ o) && decide (o < r.2)

theorem holds_of {s : State} {m op : Nat} {used : List (Nat × Nat)} (h : holdsB s m op used = true) : Holds s m op used := by
  simp only [holdsB, Bool.and_eq_true, decide_eq_true_eq, Bool.not_eq_true', List.all_eq_true, List.mem_range, Bool.or_eq_true] at h
  obtain ⟨⟨⟨⟨⟨⟨⟨⟨⟨a, b⟩, c⟩, d⟩, e⟩, f⟩, g⟩, l⟩, i⟩, j⟩ := h
  refine ⟨a, b, c, d, e, f, g, l, i, fun o h4 h64 hx => ?_⟩
  have k := j o h64
  rcases k with (k | k) | k
  · omega
  · exact absurd k hx
  · simp only [List.any_eq_true, Bool.and_eq_true, decide_eq_true_eq] at k
    exact k

theorem acts_for {s : State} {d : Nat} (h : (s.mbx 0).at 8 2 = d) (a : d ≠ 0) (b : d ≤ 4095) (c : s.live d = true) : ActsFor s 0 8 d :=
  ⟨a, b, c, by rw [if_pos rfl]; exact h⟩

theorem witness_Mailboxes :
    ((demo.booted = false) ∧ (asked [(0, 1)]).booted = true ∧ ((asked [(0, 1)]).mbx 0).busy = true ∧ ((asked [(0, 1)]).mbx 1).busy = false) ∧
    (opcodeListed 1 = true ∧ opcodeListed 9 = false) ∧
    (∀ us img, MbxCommand 3 us img (.regRead 3) 0x0004 true [(8, 17)]) ∧
    Holds (askedM 3 true [(0, 4)]) 3 0x0004 [(8, 17)] ∧
    (let s := asked [(0, 1), (9, 1)]; (s.mbx 0).at 9 1 ≠ 0 ∧ s.mgmt.boot.due = none ∧ s.turn 0 = true ∧ s.epochRests = false ∧
      (∀ p, p < 9 → 4 ≤ p → (s.mbx 0).at p 1 = 0)) :=
  ⟨by decide, by decide, fun _ _ => List.Mem.tail _ (List.Mem.tail _ (List.Mem.tail _ (List.Mem.head _))), holds_of (by decide +kernel), by decide⟩

/-- Commands that only read, with the bytes that ask for them. -/
abbrev readRows : List (Nat × List (Nat × Nat) × Table Byte) :=
  [(1, [], [(0, 1)]), (2, [], [(0, 2)]), (3, [], [(0, 3)]), (7, [], [(0, 7)]), (8, [(8, 11)], [(0, 8), (8, 5), (10, 24)]),
   (0x0700, [], [(1, 7)]), (0x0500, [(8, 11)], [(1, 5), (8, 0x80), (9, 1), (10, 1)]), (0x0502, [(8, 9)], [(0, 2), (1, 5), (8, 3)]),
   (0x0507, [(8, 10)], [(0, 7), (1, 5), (8, 7), (9, 1)]), (0x0600, [], [(1, 6)]), (0x060B, [], [(0, 11), (1, 6)]),
   (0x060C, [(8, 12)], [(0, 12), (1, 6), (8, 1)]), (0x060A, [(8, 10), (12, 16), (40, 48)], [(0, 10), (1, 6), (8, 1), (12, 7)])]

theorem witness_Reads :
    (∀ e, e ∈ readRows → Holds (asked e.2.2) 0 e.1 e.2.1) ∧
    (let s := asked [(0, 4), (11, 1), (14, 2), (16, 6)]; isRegister ((s.mbx 0).at 8 8) = true) ∧
    (let s := asked [(0, 10), (1, 6), (8, 1), (12, 7)]; ActsFor s 0 8 1 ∧ s.grnAuth 0 1 0 7 1 = none ∧ s.objThere 7 = true) ∧
    (askedM 0 false [(1, 6)]).mgmt.grn.ready = false :=
  ⟨fun e he => holds_of (List.all_eq_true.mp (by decide +kernel : readRows.all (fun e => holdsB (asked e.2.2) 0 e.1 e.2.1) = true) e he),
   by decide +kernel, ⟨acts_for (by decide) (by decide) (by decide) (by decide), by decide, by decide⟩, by decide⟩

/-- Tick-bound and staged commands with the bytes that ask for them. -/
abbrev tickRows : List (Nat × List (Nat × Nat) × Table Byte) :=
  [(6, [], [(0, 6)]), (0x0100, [(8, 50), (52, 64)], [(1, 1), (8, 0xFE)]), (0x0109, [(8, 10), (16, 24)], [(0, 9), (1, 1), (8, 1), (18, 1)]),
   (0x0300, [(8, 13)], [(1, 3), (8, 1), (12, 0x64)]), (0x0301, [(8, 10)], [(0, 1), (1, 3), (8, 0xD0), (9, 7)]),
   (0x0302, [(8, 13)], [(0, 2), (1, 3), (8, 1), (12, 1)]), (0x0701, [(8, 9)], [(0, 1), (1, 7), (8, 3)]),
   (0x0702, [(8, 9)], [(0, 2), (1, 7), (8, 31)]), (0x0206, [(8, 12)], [(0, 6), (1, 2), (8, 1), (10, 12), (11, 1)]),
   (0x0506, [(8, 12)], [(0, 6), (1, 5), (8, 1)]), (0x0401, [], [(0, 1), (1, 4)]), (0x0501, [(8, 12)], [(0, 1), (1, 5), (10, 0xFF), (11, 0xF)]),
   (0x0504, [(8, 9)], [(0, 4), (1, 5), (8, 2)])]

/-- A module whose staged change to the slices is waiting, or busy with the units left. -/
abbrev epochAt (busy : Bool) (todo : List EpochUnit) : State :=
  { demo with mgmt := { Mgmt.reset with epoch := { Epoch.reset with shadow := some (none, .pinLimit 1 12 true), busy := busy, todo := todo } } }

theorem witness_TickBound :
    (∀ e, e ∈ tickRows → Holds (asked e.2.2) 0 e.1 e.2.1) ∧
    ActsFor (asked [(0, 9), (1, 1), (8, 1)]) 0 8 1 ∧
    (let x := (asked [(1, 3), (8, 1), (12, 0x64)]).mbx 0; 0x4B ≤ x.at 12 1 ∧ x.at 12 1 ≤ 0xFA) ∧
    (let x := (asked [(0, 1), (1, 3), (8, 0xD0), (9, 7)]).mbx 0; 1500 ≤ x.at 8 2 ∧ x.at 8 2 ≤ 4200) ∧
    (let s := asked [(0, 4), (1, 5), (8, 2)]; s.mayCapture 0 = true ∧ s.available = true ∧ s.pmc.capture = none ∧ s.evr.clearing = none ∧
      ∀ d, d < 4 → (s.switch d).busy = false) ∧
    (Holds (askedM 3 true [(0, 4), (1, 5)]) 3 0x0504 [(8, 9)] ∧ (askedM 3 true [(0, 4), (1, 5)]).mayCapture 3 = false) ∧
    (Staged.pinLimit 1 12 true).units ≠ [] ∧ (epochAt false []).mgmt.epoch.busy = false ∧
    (let s := epochAt true [.slice 0, .slice 1]; EpochUnit.slice 0 ∈ s.mgmt.epoch.todo ∧ s.sliceQuiet 0 = true ∧
      ∃ v, v ∈ s.mgmt.epoch.todo ∧ v ≠ .slice 0) ∧
    ({ cached id with llc := [(0, ⟨[], [⟨5, ⟨false, false, false, false⟩, 0, false, false⟩]⟩)] } : State).sliceQuiet 0 = false :=
  ⟨fun e he => holds_of (List.all_eq_true.mp (by decide +kernel : tickRows.all (fun e => holdsB (asked e.2.2) 0 e.1 e.2.1) = true) e he),
   acts_for (by decide) (by decide) (by decide) (by decide), by decide, by decide, by decide, ⟨holds_of (by decide +kernel), by decide⟩,
   by decide, by decide, by decide, by decide⟩

/-- The management processor has booted; the PF's command waits for the tick. -/
abbrev ticking (arg : List Nat) (b : Table Byte) : State :=
  let s := asked b
  { s with mgmt := { s.mgmt with
      pwr := { Pwr.reset with tcmds := [0] },
      mbx := [(0, { Mbx.reset with busy := true, stage := 1, arg := arg, cap := bytesWith 64 b })] } }

theorem witness_Ticks :
    (let s := ticking [5] [(0, 2), (1, 7), (8, 1)]; s.mgmt.boot.due = none ∧ s.mgmt.boot.state = .running ∧ s.mgmt.pwr.tcmds = [0] ∧
      (s.mbx 0).busy = true ∧ (s.mbx 0).drop = false ∧ (s.mbx 0).opcode = 0x0702 ∧ (s.mbx 0).arg = [5] ∧ s.mgmt.lc.trans = false ∧
      ∀ d, d < 4 → (s.switch d).busy = false) ∧
    tget none (asked []).mgmt.stopped 4 = none ∧ (asked []).railRuns 3 = true ∧ (asked []).mgmt.pwr.tcmds = [] ∧ (∀ p, p < 32 → ((asked []).pod p).state = 0) ∧
    (∀ e, e ∈ [(0x0301, (0x01 : Byte), (3 : Byte)), (0x0300, 0, 3), (0x0109, 9, 1), (0x0006, 6, 0), (0x0302, 2, 3), (0x0100, 0, 1), (0x0701, 1, 7)] →
      ((ticking [] [(0, e.2.1), (1, e.2.2), (8, 1), (12, 1)]).mbx 0).opcode = e.1) ∧
    (let s := ticking [] [(0, 2), (1, 3), (8, 1), (12, 1)]; (s.mbx 0).at 12 1 = 1 ∧ ((s.mbx 0).at 8 4).testBit 0 = true ∧ (s.pod 0).state = 0) ∧
    (ticking [] [(0, 9), (1, 1), (8, 1)]).live 1 = true := by decide

theorem witness_Pods :
    (let s := podAt 1; let x := s.pod 0; x.state = 1 ∧ x.ready = false ∧ x.forced = false ∧ x.latched = false ∧
      ∀ m, m < 320 → (s.mbx m).stage ≠ 2) ∧
    (∀ c, c ∈ coresOfPod 0 → (podAt 1).coreQuiet c = true) ∧ (portAt upPort).padWaits 0x2000 = false ∧
    (let s := { podAt 2 with cores := [(0, { coreOf (strandOf demoBank) with
        wbuf := [⟨0, 0, scratchBase 1, [1], 1, false⟩], strands := [(0, { strandOf demoBank with spLoads := [⟨scratchBase 3, 8, .greg 6 8 false, [], 0, false, false⟩] })] })] };
      s.coreQuiet 0 = false ∧ s.podStopped 0 = true ∧ s.padWaits (scratchBase 1) = true ∧ s.padWaits (scratchBase 3) = true ∧
      s.padWaits (coreRegBase 9) = false) ∧
    ((podAt 3).pod 0).state = 3 ∧ ((podAt 0).pod 0).state ≠ 1 ∧ demo.mgmt.boot.state ≠ .lockout ∧ (105 : BitVec 8).toNat ≥ 105 ∧
    ((portAt upPort).port 0).state ≠ 0 ∧ ((portAt upPort).port 0).queued = [] := by decide +kernel

/-- Commands of a domain, with the bytes that ask for them. -/
abbrev domRows : List (Nat × List (Nat × Nat) × Table Byte) :=
  [(0x0101, [(8, 12), (16, 32)], [(0, 1), (1, 1), (8, 1), (17, 0x10), (25, 1)]),
   (0x0103, [(8, 12), (16, 32)], [(0, 3), (1, 1), (8, 1), (11, 1), (18, 1), (26, 1), (28, 16)]),
   (0x0104, [(8, 11), (16, 25)], [(0, 4), (1, 1), (8, 1), (10, 2), (24, 1)]),
   (0x0108, [(8, 10), (16, 32)], [(0, 8), (1, 1), (8, 1), (17, 2), (25, 1)]), (0x010B, [(8, 11)], [(0, 11), (1, 1), (8, 1), (10, 1)]),
   (0x0107, [(8, 12), (16, 32)], [(0, 7), (1, 1), (8, 1), (10, 15), (11, 3), (25, 1)]),
   (0x0105, [(8, 9), (10, 12)], [(0, 5), (1, 1), (8, 1), (10, 1)]), (0x0106, [(8, 10), (16, 24)], [(0, 6), (1, 1), (8, 1), (18, 1)]),
   (0x0106, [(8, 10), (16, 24)], [(0, 6), (1, 1), (8, 1), (16, 255), (17, 255), (18, 255), (19, 255), (20, 255), (21, 255), (22, 255), (23, 255)]),
   (0x0102, [(8, 10)], [(0, 2), (1, 1), (8, 1)])]

theorem walk_stands2 {s : State} (d : (s.dom 1).tables = dom1.tables) (t : ∀ k, k < 2 → s.tableAt 1 0 (k + 1) = [0x800000000, 0x800008000][k]?) :
    WalkStands s 1 0 2 0 0 := by
  intro k a h1 h2 ha
  have : k = 1 ∨ k = 2 := by omega
  rcases this with rfl | rfl
  · have e := t 0 (by decide)
    rw [e] at ha; cases ha
    exact ⟨by decide, by decide, ⟨(0x800000000, 16384), by rw [d]; decide, by decide, by decide⟩, .inr (by decide), fun j u j1 j2 => by omega⟩
  · have e := t 1 (by decide)
    rw [e] at ha; cases ha
    refine ⟨by decide, by decide, ⟨(0x800008000, 32768), by rw [d]; decide, by decide, by decide⟩, .inr (by decide), fun j u j1 j2 hu => ?_⟩
    have : j = 1 := by omega
    subst this
    rw [t 0 (by decide)] at hu; cases hu; decide

/-- PAGE_MAP of a 64 KiB page at 0x10000 onto the frame at 0x1000010000; the tables for it exist. -/
abbrev mapAt : State :=
  { asked [(0, 3), (1, 1), (8, 1), (11, 1), (18, 1), (26, 1), (28, 16)] with
    doms := (backed false 0).doms, mem := (backed false 0).mem.filter fun e => decide (e.1 ≠ 0x800011008) }

/-- Domain 1 REVOKED, its last steps begun. -/
abbrev husked (arg : List Nat) : State :=
  { ticking arg [(0, 2), (1, 1), (8, 1)] with doms := [(1, { dom1 with state := 2, husking := true, sweeping := true })] }

theorem witness_DomainCommands :
    (∀ e, e ∈ domRows → Holds (asked e.2.2) 0 e.1 e.2.1) ∧ (∀ e, e ∈ domRows → e.1 ≠ 0x0105 → ActsFor (asked e.2.2) 0 8 1) ∧
    (let s := { asked [(0, 1), (1, 1), (8, 1), (17, 0x10), (25, 1)] with cores := [(0, { Core.reset with domain := 1 })] }; let x := s.mbx 0
     x.at 10 2 = 0 ∧ 0 ∈ (s.dom 1).cores ∧ (∀ i, i < 8 → ((s.core 0).strand i).running = false) ∧ x.at 16 8 = 0x1000 ∧ x.at 24 8 = 0x100 ∧
     canonLen 0x1000 0x100 = some (0, 256) ∧ canonLen vaHull (vaHbm + (s.dom 1).hbm - vaHull) ≠ none) ∧
    (let s := mapAt; let x := s.mbx 0
     x.at 16 8 = 0x10000 ∧ s.refuseLeaf 1 (sizeLevel (x.at 10 1)) (x.at 24 8) false false false = none ∧
     s.placeTaken 1 (sizeLevel (x.at 10 1)) (x.at 16 8) = false ∧
     s.frameTaken 1 (x.at 24 8) (leafSize (sizeLevel (x.at 10 1))) = false ∧ s.hullPages < 4096 ∧
     ((s.own 1 (x.at 24 8) (leafSize 4)).makeTable 1 (x.at 16 8) 4).isSome = true) ∧
    WalkStands mapAt 1 0x10000 4 0 0 ∧ Quiet mapAt ∧
    (let s := asked [(0, 4), (1, 1), (8, 1), (10, 2), (24, 1)]; s.walk 1 0 = .leaf (sizeLevel 2) (leaf2 0 12) ∧ bit (leaf2 0 12) 5 = false ∧
      s.tableAt 1 0 2 = some 0x800008000 ∧ s.pageQuiet (pteAddr (leaf2 0 12)) (leafSize 2) = true ∧ s.unitsHold 1 0 (leafSize 2) = false ∧
      ({ s with cores := [(0, { Core.reset with acc := { AccUnit.reset with queue :=
        [⟨2, 0, 0, 0, 0, ⟨1, 0⟩, 0, 0x10000, 0, (1 : W128) <<< 96, 0, 0, false, [], 0, 0, false⟩] } })] } : State).unitsHold 1 0 (leafSize 2) = true) ∧
    WalkStands (asked [(0, 4), (1, 1), (8, 1), (10, 2), (24, 1)]) 1 0 2 0 0 ∧ Quiet (asked [(0, 4), (1, 1), (8, 1), (10, 2), (24, 1)]) ∧
    (Holds (askedM 1 true [(0, 10), (1, 1), (8, 16), (10, 5)]) 1 0x010A [(8, 13)] ∧
      ((askedM 1 true [(0, 10), (1, 1), (8, 16), (10, 5)]).func 1).dom ≠ 0) ∧
    (let s := husked [1]; (s.dom 1).husking = true ∧ (s.mbx 0).busy = true ∧ (s.mbx 0).stage = 1 ∧ (s.mbx 0).opcode = 0x0102 ∧ (s.mbx 0).arg = [1] ∧
      (s.mbx 0).drop = false ∧ (demo.dom 1).husking = false) ∧
    (let s := { demo with revokeQ := [1] }; (1 : DomId).toNat ∈ s.revokeQ ∧ s.live 1 = true ∧ (2 : DomId).toNat ∉ s.revokeQ ∧ s.sweep.busy = false) :=
  ⟨fun e he => holds_of (List.all_eq_true.mp (by decide +kernel : domRows.all (fun e => holdsB (asked e.2.2) 0 e.1 e.2.1) = true) e he),
   fun e he hn => acts_for (by revert e; decide) (by decide) (by decide) (by revert e; decide),
   by decide +kernel, by decide +kernel, walk_stands (fun k => by unfold pteIndex; split <;> rfl) rfl (by decide +kernel) (by decide), quiet_of rfl,
   by decide +kernel, walk_stands2 (by decide +kernel) (by decide +kernel), quiet_of rfl, ⟨holds_of (by decide +kernel), by decide⟩,
   by decide +kernel, by decide⟩

theorem hullWord_of {s : State} {d va pa : Nat} (h : s.hullSpot d va 0 = .inr pa) (l : s.llc = []) (a : pa % 128 + 16 ≤ 128)
    (r : isRegister pa = false) (w : s.padWaits pa = false) : HullWord s d va pa := ⟨h, a, r, w, fun _ => calm_of l⟩

/-- Commands that grant, with the bytes that ask for them; hull words lie at 0x800000040 (offset 24 unless said). -/
abbrev grantRows : List (Nat × List (Nat × Nat) × Table Byte) :=
  [(0x0200, [(8, 12), (16, 40)], [(1, 2), (8, 1), (10, 1), (16, 0x40), (20, 8), (31, 2), (37, 0x10), (39, 0x10)]),
   (0x0201, [(8, 20), (24, 32)], [(0, 1), (1, 2), (8, 1), (10, 6), (11, 7), (16, 1), (24, 0x40), (28, 8)]),
   (0x0203, [(8, 11), (12, 20), (24, 32)], [(0, 3), (1, 2), (8, 1), (10, 1), (12, 16), (16, 4), (24, 0x40), (28, 8)]),
   (0x0204, [(8, 12), (16, 32)], [(0, 4), (1, 2), (8, 1), (11, 15), (16, 0x40), (20, 8), (24, 0x40), (28, 8)]),
   (0x0205, [(8, 12)], [(0, 5), (1, 2), (8, 1)]),
   (0x0207, [(8, 10), (16, 24)], [(0, 7), (1, 2), (8, 1), (16, 0x40), (20, 8)]),
   (0x0208, [(8, 14)], [(0, 8), (1, 2), (8, 1), (10, 3), (12, 1)]),
   (0x0209, [(8, 64)], [(0, 9), (1, 2), (8, 1), (12, 7), (14, 3), (16, 1), (56, 0x40), (60, 8)]),
   (0x0209, [(8, 64)], [(0, 9), (1, 2), (8, 1), (10, 1), (12, 7), (14, 3), (16, 1), (29, 16), (33, 0x20)]),
   (0x0209, [(8, 64)], [(0, 9), (1, 2), (8, 1), (10, 2), (12, 7), (14, 3), (16, 1), (28, 64), (33, 0x20), (48, 0x40), (52, 8), (56, 0x40), (60, 8)]),
   (0x020A, [(8, 11), (12, 14)], [(0, 10), (1, 2), (8, 1), (10, 2), (12, 7)])]

theorem witness_Grants :
    (∀ e, e ∈ grantRows → Holds (asked e.2.2) 0 e.1 e.2.1) ∧ (∀ e, e ∈ grantRows → ActsFor (asked e.2.2) 0 8 1) ∧
    HullWord demo 1 0x800000040 0x400000040 ∧ HullWord demo 1 0x800000050 0x400000050 ∧
    (let s := asked [(1, 2), (8, 1), (10, 1), (16, 0x40), (20, 8), (31, 2), (37, 0x10), (39, 0x10)]
     let h : W128 := setFld (BitVec.ofNat 128 ((s.mbx 0).at 24 16)) 107 96 1
     hType h = 1 ∧ hMalformed h = false ∧ s.withinRoot 1 h = true ∧ s.live 1 = true) ∧
    (let s := { demo with sync := { SyncState.reset with grants := [(1, 0, 4)] } }
     demo.withinRoot 1 (mkHull 2 1 1 0 8 0) = false ∧ s.withinRoot 1 (mkHull 2 1 1 0 4 0) = true ∧ s.objTaken 1 2 4 = true ∧ s.objTaken 1 4 4 = false) ∧
    (canonLen 16 4 = some (0, 4) ∧ demo.rightTaken 0 6 0 1 = false ∧ 0 + 1 ≤ kindInstances 6 ∧ (∀ f, f + 300 ≤ kindInstances 6 → False)) ∧
    ((demo.modDom 1 fun x => { x with rights := [mkHull 5 1 1 0 1 (6 * 2 ^ 48)] }).rightTaken 0 6 0 1 = true) ∧
    (((demo.updUnit 0).queue 15).bound = false ∧ demo.hullsFrom 1 16 6 0x800000040 = .inr (List.replicate 6 0) ∧
      ((updWith (updItem 1 5) false).updUnit 0 |>.queue 0).bound = true) ∧
    ((demo.mbx 64).dom = 0 ∧ demo.chanTaken 1 0 7 = false ∧ demo.chanTaken 1 2 7 = false ∧ demo.backedIn 1 0x2000 4096 = false ∧
      (backed true 0).backedIn 1 0x10000 4096 = true ∧ demo.hullsFrom 1 48 2 0x800000040 = .inr [0, 0] ∧ (demo.ring 7).queue = []) ∧
    (let s := arrived (chanPkt 5 0 []) demo; (s.chan 7).dom = 1 ∧ (s.chan 7).rx = true ∧ (s.ring 7).on = true ∧ (s.ring 7).queue = []) ∧
    ((ringAt ringNew).ring 0).queue.getLast? = some ringNew :=
  ⟨fun e he => holds_of (List.all_eq_true.mp (by decide +kernel : grantRows.all (fun e => holdsB (asked e.2.2) 0 e.1 e.2.1) = true) e he),
   fun e he => acts_for (by revert e; decide) (by decide) (by decide) (by revert e; decide),
   hullWord_of (by decide +kernel) rfl (by decide) (by decide) (by decide +kernel), hullWord_of (by decide +kernel) rfl (by decide) (by decide) (by decide +kernel),
   by decide +kernel, by decide +kernel, ⟨by decide, by decide, by decide, fun f h => absurd h (by simp only [kindInstances]; omega)⟩, by decide,
   by decide +kernel, by decide +kernel, by decide, by decide⟩

/-! ### Witnesses: chapter 17 -/

/-- Commands for links and the recorder, with the bytes that ask for them. -/
abbrev linkRows : List (Nat × List (Nat × Nat) × Table Byte) :=
  [(0x0400, [(8, 11), (16, 64)], [(1, 4), (8, 14), (10, 1), (16, 3), (17, 5), (18, 0xE8), (19, 0x1D), (20, 0xCC), (21, 1)]),
   (0x0402, [(8, 17)], [(0, 2), (1, 4), (8, 1), (16, 1)]), (0x0403, [(8, 10)], [(0, 3), (1, 4), (8, 1)]), (0x0005, [(8, 12)], [(0, 5), (8, 1)]),
   (0x0503, [(8, 14), (16, 20)], [(0, 3), (1, 5), (8, 0x80), (9, 1), (12, 7), (13, 31)]),
   (0x0505, [(8, 14)], [(0, 5), (1, 5), (8, 5), (10, 1), (12, 2), (13, 1)])]

theorem witness_LinkCommands :
    (∀ e, e ∈ linkRows → Holds (asked e.2.2) 0 e.1 e.2.1) ∧
    (demo.entryBad 14 0x1CC1DE80503 = none ∧ (∀ i, i < 4 → (demo.switch i).busy = false)) ∧
    ((demo.setSwitch 2 { Switch.reset with busy := true }).switch 2).busy = true ∧
    (twf 0 (demo.switch 0).rt0 = true ∧ ∀ e, e ∈ (demo.switch 0).rt0 → e.1 ≠ 1 → bit e.2 41 = false) :=
  ⟨fun e he => holds_of (List.all_eq_true.mp (by decide +kernel : linkRows.all (fun e => holdsB (asked e.2.2) 0 e.1 e.2.1) = true) e he),
   by decide, by decide, by decide⟩

/-- One occurrence waits in collector 0 and a later one in collector 2. -/
abbrev occAt : State :=
  { demo with evr := { Recorder.reset with collectors := [(0, [⟨0x340, 7, 2, 0, 5, 0⟩]), (2, [⟨0x341, 1, 1, 0, 5, 2⟩])] } }

/-- A counter of core 0 near its end. -/
abbrev cntAt (sel : W64) : State :=
  { demo with cores := [(0, { coreOf (strandOf demoBank) with pmc := { PmcSet.reset with cnts := [(3, { PmcCnt.reset with count := 0xFFFFFFFFFFFF, sel := sel })] } })] }

theorem witness_Recorder :
    (tget [] occAt.evr.collectors 0 = ⟨0x340, 7, 2, 0, 5, 0⟩ :: [] ∧
      (∀ j, j < 5 → j ≠ 0 → ((tget ([] : List Occ) occAt.evr.collectors j).head?).all (fun p => decide ((5 : W64).toNat < p.time.toNat ∨ ((5 : W64) = p.time ∧ 0 < j))) = true)) ∧
    (∀ j, j < 5 → tget ([] : List Occ) demo.evr.collectors j = []) ∧ demo.evr.clearing = none ∧
    ({ demo with evr := { Recorder.reset with clearing := some none } }).evr.clearing ≠ none ∧
    (let s := { demo with pmc := { DiePmc.reset with capture := some ⟨0, 5000, some 3⟩ } }; (s.mbx 3).drop = false ∧ bit (s.mbx 3).cfg 9 = false) ∧
    demo.pmc.capture = none ∧
    (let k := (cntAt (BitVec.ofNat 64 (2 ^ 21))).core 0; k.pmc.frozen = false ∧ bit (tget PmcCnt.reset k.pmc.cnts 3).sel 21 = true ∧
      bit (tget PmcCnt.reset k.pmc.cnts 4).sel 20 = false ∧ 2 ^ 48 ≤ (tget PmcCnt.reset k.pmc.cnts 3).count.toNat + 1) ∧
    (let k := (demo.core 0).pmc; (tget PmcCnt.reset k.cnts 3).count.toNat + 1 < 2 ^ 48) := by decide

/-! ### Witnesses: chapter 18 -/

/-- The granary with one object under key 1, which domain 1 has, and transfers; the PF's mailbox holds a command. -/
abbrev grnAt (b : Table Byte) (xs : List GrnXfer) : State :=
  let s := asked b
  { s with mgmt := { s.mgmt with grn := { Granary.reset with
      ready := true, holdup := true, keys := [(1, some 131072)], binds := [(1, 1)], usedIds := [7], xfers := xs,
      objs := [(7, { GrnObj.none with kind := 2, key := 1, cap := 65536, clen := 1, data := [(0, 5)], opened := [(0, 5)] })] } } }

/-- Granary commands, with the bytes that ask for them. -/
abbrev grnRows : List (Nat × List (Nat × Nat) × Table Byte) :=
  [(0x0601, [(16, 24)], [(0, 1), (1, 6)]), (0x0602, [(8, 12)], [(0, 2), (1, 6), (8, 1), (10, 1)]), (0x0603, [(8, 10)], [(0, 3), (1, 6), (8, 1)]),
   (0x0604, [(8, 11), (16, 32)], [(0, 4), (1, 6), (8, 1), (10, 1), (17, 0x10), (24, 0x40), (28, 8)]),
   (0x0605, [(8, 11), (12, 16), (24, 32)], [(0, 5), (1, 6), (8, 1), (10, 7), (12, 7), (24, 0x40), (28, 8)]),
   (0x0609, [(8, 10), (12, 16), (40, 48)], [(0, 9), (1, 6), (8, 1), (12, 7)]),
   (0x0606, [(8, 56)], [(0, 6), (1, 6), (8, 1), (12, 7), (25, 0x10), (33, 0x20)]),
   (0x0607, [(8, 56)], [(0, 7), (1, 6), (8, 1), (12, 7), (25, 0x10), (33, 0x20)]),
   (0x0608, [(8, 10), (12, 24), (40, 48)], [(0, 8), (1, 6), (8, 1), (12, 7), (16, 1)])]

/-- A transfer of object 7 with 4 KiB at 0x2000 of domain 1. -/
abbrev xferOf (wr : Bool) (moved : Nat) : GrnXfer := ⟨3, 1, wr, none, 7, 0, 4096, 0x2000, none, moved, none, 1, [(0, 5)], []⟩

theorem witness_GranaryObjects :
    (∀ e, e ∈ grnRows → Holds (grnAt e.2.2 []) 0 e.1 e.2.1) ∧ (∀ e, e ∈ grnRows → e.1 ≠ 0x0601 → ActsFor (grnAt e.2.2 []) 0 8 1) ∧
    (let s := grnAt [] []; let g := s.mgmt.grn; g.ready = true ∧ g.keys.length < 65535 ∧ tget none g.keys 1 ≠ none ∧ tget 0 g.binds 1 = 1 ∧
      g.createFail 1 4096 = false ∧ g.createFail 1 (2 ^ 42) = true ∧ s.objThere 7 = true ∧ (s.obj 7).kind < 4 ∧ (s.obj 7).key = 1 ∧
      tget 0 g.binds 2 = 0 ∧ s.grnAuth 0 1 0 7 4 = none ∧ g.readonly = false ∧ (∀ e, e ∈ s.doms → e.2.backing = 7 → e.2.state = 0)) ∧
    HullWord (grnAt [] []) 1 0x800000040 0x400000040 :=
  ⟨fun e he => holds_of (List.all_eq_true.mp (by decide +kernel : grnRows.all (fun e => holdsB (grnAt e.2.2 []) 0 e.1 e.2.1) = true) e he),
   fun e he hn => acts_for (by revert e; decide) (by decide) (by decide) (by revert e; decide), by decide,
   hullWord_of (by decide +kernel) rfl (by decide) (by decide) (by decide +kernel)⟩

theorem witness_GranaryTransfers :
    (let x := (grnAt [(0, 7), (1, 6), (8, 1), (12, 7), (25, 0x10), (33, 0x20)] []).mbx 0; x.at 10 1 = 0 ∧ x.at 11 1 = 0 ∧ x.at 16 8 = 0 ∧
      x.at 24 8 = 4096 ∧ x.at 32 8 = 0x2000 ∧ badSignal 0 = false ∧ badSignal 3 = true) ∧
    Quiet (grnAt [] [xferOf false 0]) ∧
    (let s := grnAt [] [xferOf false 0]; let z := xferOf false 0; s.xfer 3 = some z ∧ z.status = none ∧ (s.obj 7).paged = [] ∧
      xferBad z 4096 .ok = none ∧ s.translate 1 0x2000 .write = .ok 0x2000 (leaf2 0 12) ∧ bit (leaf2 0 12) 5 = false ∧ 0 ∈ unitsOf 0 4096) ∧
    (let s := grnAt [] [xferOf true 0]; let z := xferOf true 0; s.xfer 3 = some z ∧ s.writeBlocked z = false ∧
      s.translate 1 0x2000 .read = .ok 0x2000 (leaf2 0 12) ∧ s.translate 1 0x200000000000 .read = .fault 0x10 2) ∧
    (grnAt [] []).pcieStands = false ∧ (let s := grnAt [] [xferOf true 4096]; let z := xferOf true 4096; s.xfer 3 = some z ∧ z.len ≤ z.moved) ∧
    (let s := (grnAt [] []).modDom 1 fun x => { x with wins := [(2, ⟨0, 4096, true, true⟩)] }
     let v := tget HostWin.none (s.dom 1).wins 2; 0 + 0 + 4096 ≤ v.len ∧ v.rd = true ∧ v.wr = true) ∧
    (let s := grnAt [(0, 8), (1, 6), (8, 1), (12, 7), (16, 1)] []; (s.mbx 0).at 16 8 = 1 ∧ s.mgmt.grn.holdup = true) :=
  ⟨by decide, quiet_of rfl, by decide +kernel, by decide +kernel, by decide, by decide, by decide⟩

/-! ### Witnesses: chapters 19 and 20 -/

/-- A module with a boot record, a life cycle, and a command in the PF's mailbox. -/
abbrev bootAt (f : Boot → Boot) (l : LifeCycle) (b : Table Byte) : State :=
  let s := asked b
  { s with mgmt := { s.mgmt with boot := f { Boot.reset with state := .running, done := true, slot := false }, lc := l } }

theorem witness_Resets :
    (bootAt id LifeCycle.reset []).mgmt.boot.state = .running ∧ (bootAt (fun b => { b with state := .lockout }) LifeCycle.reset []).mgmt.opened = false ∧
    (bootAt (fun b => { b with trial := true }) LifeCycle.reset []).mgmt.boot.trial = true ∧
    (let b := (bootAt (fun b => { b with state := .recovery }) LifeCycle.reset []).mgmt.boot; b.state = .recovery ∧ shippedImage.formed = true ∧
      shippedImage.signed = true ∧ b.roll.toNat ≤ shippedImage.rollIdx.toNat ∧ noImage.formed = false) ∧
    bit State.reset.mgmt.pwr.causes 4 = false := by decide

theorem witness_Boots :
    (let b := State.reset.mgmt.boot; b.state = .held ∧ b.due = none ∧ b.lowVin = false ∧ b.may false ∧ (b.slotOf false).img.signed = true ∧
      ¬b.may true ∧ b.a.owed = false ∧ b.b.owed = false ∧ b.skip = none ∧ b.roll.toNat ≤ shippedImage.rollIdx.toNat) ∧
    (let b := { Boot.reset with b := ⟨{ shippedImage with version := 2 }, true, true⟩ }; b.may true ∧ (b.slotOf true).owed = true ∧
      (b.slotOf !true).owed = false ∧ b.a.img.version.toNat < b.b.img.version.toNat) ∧
    (let b := { Boot.reset with roll := 2 }; ¬b.may false ∧ ¬b.may true) ∧
    ({ Boot.reset with lowVin := true, waitVin := true }).state = .held ∧ ({ Boot.reset with state := .waitCool }).state = .waitCool := by
  refine ⟨?_, ?_, ?_, rfl, rfl⟩ <;> simp only [Boot.may] <;> decide

/-- Firmware and life-cycle commands, with the bytes that ask for them. -/
abbrev fwRows : List (Nat × List (Nat × Nat) × Table Byte) :=
  [(0x0703, [(8, 10), (16, 32)], [(0, 3), (1, 7), (8, 1), (18, 1)]), (0x0704, [(8, 9), (10, 13), (16, 32)], [(0, 4), (1, 7), (10, 1)]),
   (0x0705, [(8, 9)], [(0, 5), (1, 7)]), (0x0706, [], [(0, 6), (1, 7)]), (0x0707, [(8, 9), (16, 64)], [(0, 7), (1, 7), (8, 1), (63, 9)]),
   (0x0708, [(8, 9)], [(0, 8), (1, 7), (8, 4)]), (0x0709, [(8, 10)], [(0, 9), (1, 7), (8, 5)])]

theorem witness_Firmware :
    (∀ e, e ∈ fwRows → Holds (bootAt id LifeCycle.reset e.2.2) 0 e.1 e.2.1) ∧
    ActsFor (bootAt id LifeCycle.reset [(0, 3), (1, 7), (8, 1), (18, 1)]) 0 8 1 ∧ ActsFor (bootAt id LifeCycle.reset [(0, 4), (1, 7), (10, 1)]) 0 10 1 ∧
    (let s := bootAt id LifeCycle.reset []; s.mgmt.boot.runtime.bytes.length ≤ 0 ∧ s.loadPages 1 0x10000 0 = .ok [] ∧
      (match s.loadPages 1 0x10000 2 with | .ok l => decide (l = [0x10000, 0x20000]) | .error _ => false) = true) ∧ Quiet (bootAt id LifeCycle.reset []) ∧
    (let s := (bootAt id LifeCycle.reset []).modDom 1 fun x => { x with wins := [(0, ⟨0, 0, true, false⟩)] }
     0 + 0 ≤ (tget HostWin.none (s.dom 1).wins 0).len ∧ (tget HostWin.none (s.dom 1).wins 0).rd = true ∧ shippedImage.bytes.length = 0 ∧
      (s.putStaged 0 0 shippedImage).isSome = true) ∧
    (let s := bootAt (fun b => { b with staged := [(0, some (7, shippedImage))] }) LifeCycle.reset []; s.stagedImage 0 = some shippedImage ∧
      s.stagedImage 1 = none) ∧
    ({ LifeCycle.reset with nonce := some [] }).nonce ≠ none ∧ LifeCycle.reset.state = 1 ∧ ({ LifeCycle.reset with modid := some 5 }).modid ≠ none := by
  refine ⟨fun e he => holds_of (List.all_eq_true.mp (by decide +kernel : fwRows.all (fun e => holdsB (bootAt id LifeCycle.reset e.2.2) 0 e.1 e.2.1) = true) e he),
    acts_for (by decide) (by decide) (by decide) (by decide), ⟨by decide, by decide, by decide, by rw [if_pos rfl]; decide⟩, ?_, quiet_of rfl, ?_, ?_, by decide, by decide, by decide⟩
  · exact ⟨by decide, rfl, by decide +kernel⟩
  · exact ⟨by decide, by decide, rfl, by rfl⟩
  · decide

/-! ### Witnesses: the host, the side band and registers -/

/-- Function 1, of domain 1, with its BAR2 window at 0x2000. -/
abbrev hostAt : State :=
  let s := asked []
  { s with mgmt := { s.mgmt with funcs := [(1, ⟨1, some 0x2000, [], [], [], []⟩)] } }

theorem witness_Host :
    hostAt.booted = true ∧ hostAt.hostUp = true ∧ demo.hostUp = false ∧ (hostAt.func 1).win = some 0x2000 ∧ (hostAt.func 1).dom ≠ 0 ∧ demo.booted = false ∧
    hostAt.trRange 1 (0x2000 + 0) 8 .read = .ok [(0x2000, 8, leaf2 0 12)] ∧ hostAt.trRange 1 (0x2000 + 0) 8 .write = .ok [(0x2000, 8, leaf2 0 12)] ∧
    isMemory 0x2000 = true ∧ (hostAt.func 2).win = none ∧ (0x6000 < 2 ^ 16 ∧ ¬0x6000 < 0x90 ∧ ¬(0x7000 ≤ 0x6000)) ∧
    bar0Fixed 0x40 &&& 1 ≠ 0 ∧ bar0Fixed 0 &&& 1 = 0 := by decide +kernel

theorem witness_HostPlain : PlainWrite hostAt 0x2000 8 := ⟨by decide, by decide, by decide, fun _ => calm_of rfl⟩

/-- The DOE path at an SPDM stage. -/
abbrev spdmAt3 (n : Nat) : State :=
  let s := asked []
  { s with mgmt := { s.mgmt with lc := LifeCycle.reset, side := { Sideband.reset with i3c := some 8, spdm := [(0, n), (1, n)] } } }

theorem witness_SideBand :
    (let s := spdmAt3 3; s.mgmt.boot.state = .running ∧ s.mgmt.side.i3c ≠ none ∧ 3 ≤ s.spdmAt .doe ∧ s.chain ≠ none) ∧
    (spdmAt3 0).spdmAt .i3c < 1 ∧ (spdmAt3 1).spdmAt .i3c < 2 ∧ (∃ d, (spdmAt3 3).measurement 5 = some d) ∧
    ({ LifeCycle.reset with state := 0 }).state = 0 ∧ demo.mgmt.boot.state ≠ .running ∧ demo.mgmt.boot.state ≠ .lockout ∧
    (asked []).imageOk shippedImage = true ∧ (asked []).imageOk noImage = false ∧ shippedImage.bytes.length ≤ 64 * 2 ^ 20 ∧
    (0x80 : BitVec 8).toNat ≤ 0xFE ∧ (bootAt (fun b => { b with state := .lockout }) LifeCycle.reset []).mgmt.boot.state = .lockout := by
  refine ⟨by decide, by decide, by decide, ⟨_, rfl⟩, ?_⟩; decide

theorem witness_Registers :
    regAt 0x2000005100000 = some .pwrCap ∧ regAt 0x2000000001000 = some (.tileEcc 0) ∧ regAt 0x2000005400000 = some .bootStat ∧ regAt 8 = none ∧
    (let s := { demo with mgmt := { Mgmt.reset with funcs := [] } }; let h := mkHull 4 (rREAD + rWRITE) 1 0 256 0x2000000003100
      regHullFault s h 0x2000000003100 true = none ∧ regHullFault s h 0x2000000003000 true ≠ none) ∧
    (let h := mkHull 4 (rREAD + rWRITE) 1 0 256 0x2000000003100
      let s := demoB (bankOf 0x1000 [] [] [(2, h)])
      (s.strand w0).running = true ∧ (s.strand w0).park = .none ∧ s.podRuns w0.core.val = true ∧ s.padWaits 0x2000000003100 = false ∧
        0x2000000003100 % 8 = 0 ∧ regHullFault s (s.h w0 2) 0x2000000003100 true = none ∧
        regHullFault s (s.h w0 2) 0x2000000003000 true = some 0x0D ∧ 0x2000000003104 % 8 ≠ 0 ∧
        regAt 0x2000000003100 = some (.accSeed 0)) ∧ (State.reset.strand w0).running = false := by decide +kernel

theorem witness_ResetStep :
    State.reset.pending = [] ∧ State.reset.mgmt.boot.due = none ∧ (bootAt (fun b => { b with due := some 3 }) LifeCycle.reset []).mgmt.boot.due = some 3 ∧
    Memory.wf State.reset.mem = true ∧ Memory.wf State.reset.hbm = true ∧ step State.reset = .next State.reset :=
  ⟨rfl, rfl, rfl, rfl, rfl, rfl⟩

/-! ### Ill-formed commands, one for each check of Instr.wf -/

/-- No command of the list is well formed. -/
abbrev allRefused (l : List Instr) : Prop := l.all (fun i => !i.wf) = true

/-- Every command of the list is well formed. -/
abbrev allAccepted (l : List Instr) : Prop := l.all Instr.wf = true

theorem test_wf_refuses_scalar : allRefused [.slli w0 6 1 64, .ldb w0 6 1 16 0 .none, .stb w0 6 1 16 0, .amoAdd w0 6 1 2 1 0,
    .loop w0 1 0, .lbrk w0 1 0, .rdsr w0 6 1 0, .rdsr w0 6 0 256, .wrsr w0 1 2 0, .wrsr w0 0 2 256, .halt w0 1 0 0] := by decide

theorem test_wf_refuses_vector : allRefused [.fadd w0 3 0 0 0, .fdiv w0 1 0 0 0, .vmulw w0 3 false 0 0 0 0, .vmulw w0 0 false 3 0 0 0,
    .vdot w0 5 0 0 0, .vgather w0 0 1 4 0 3 4 [], .vgather w0 4 1 4 0 2 0 [], .vgather w0 0 1 5 0 0 0 [],
    .vsplat w0 0 1 0 0, .vperm w0 1 0 0 0, .vins w0 3 2 0 0, .vext w0 1 8 0 0, .vcvt w0 0 1 false 0 0, .vcvt w0 1 0 false 0 0] := by
  decide

theorem test_wf_refuses_hull : allRefused [.hderive w0 15 0 0 0 0, .hseal w0 15 0, .hmov w0 0 16, .hcall w0 16, .hld w0 15 0 0 0,
    .hst w0 0 0 16 0, .hchk w0 0 16 0 0, .hclr w0 15] := by decide

theorem test_wf_refuses_unit : allRefused [.tcfg w0 1 0 0 0 0 [], .tld w0 0 0 0 0 3 false false 0 [],
    .tst w0 0 0 0 0 0 false true 0 [], .tzero w0 16 0 0 false false 0, .tmov w0 0 16 0 false false 0 [],
    .mwld w0 0 0 0 0 0 false false, .mma w0 0 0 1 0 0 false false false, .mmaq w0 0 1 0 0 0 false false false,
    .manch w0 0 0 0 1, .mord w0 1 0 0 false 0, .mdrain w0 0 0 1 0 false false, .msave w0 0 0 16 0 0, .mrestore w0 0 0 0 0 1,
    .ssub w0 0 0 true 0 0 0 0 [], .swait w0 0 0 1, .cpy w0 0 0 0 5 [], .cpwait w0 0 0 5] := by decide

theorem test_wf_refuses_event : allRefused [.llcAccess ⟨64000000000, .read, 0, false, false, .none⟩, .llcAccess ⟨0, .write [], 0, false, false, .none⟩,
    .reductionRequest 2 .addF32 [0, 0, 0, 0] false [], .patrolScrub 0 250000000 .none, .pageIn 1 (2 ^ 57) false [],
    .pageOut 1 (2 ^ 57) [],
    .flitReceive 0 [], .bar2Access 0 (.read 0 0) [], .challenge (.i3c) [], .debugAccess 0x7F, .debugAccess 0xFF,
    .regWrite (.luami 4) 0] := by decide

theorem test_wf_accepts : allAccepted [.slli w0 6 1 63, .ldb w0 6 1 15 0 .none, .amoAdd w0 6 1 2 1 3, .rdsr w0 6 0 255, .fdiv w0 2 0 0 0,
    .vdot w0 4 0 0 0, .vgather w0 4 1 6 0 0 0 [], .vcvt w0 13 4 false 0 0, .hclr w0 14, .tld w0 15 0 0 0 2 true false 0 [],
    .mwld w0 0 0 0 0 1 false false, .cpy w0 0 0 0 4 [], .llcAccess ⟨63999999999, .read, 0, false, false, .none⟩, .debugAccess 0x80,
    .regWrite (.luami 8) 0] := by decide

/-! ### Worked examples of the spec -/

/-- R452's example: route A on L3 and port 20, route B on L30 and ports 7 and 12. -/
theorem test_route_entry : routePorts 0x000001CC1DE80503 false = [3, 20] ∧ routePorts 0x000001CC1DE80503 true = [30, 7, 12] := by decide

/-- The example after R139: h5 of the 48 GiB buffer. -/
theorem test_derived_hull : mkHull 1 0x4043 0x2A 4 0xC0000000 0x1000000000 = 0x1404302A098000000000001000000000 := by decide

/-- The example of the first tile configuration: the drain word 0x0004_3F04_0540_9C44 of chapter 9. -/
theorem test_drain_word : dwFmt 0x00043F0405409C44 = 4 ∧ dwAct 0x00043F0405409C44 = 1 ∧ dwScl 0x00043F0405409C44 = true ∧
    dwBias 0x00043F0405409C44 = true ∧ dwMx 0x00043F0405409C44 = true ∧ dwClr 0x00043F0405409C44 = true ∧
    dwRow0 0x00043F0405409C44 = 0 ∧ dwNr 0x00043F0405409C44 = 2 ∧ dwNc 0x00043F0405409C44 = 64 := by decide

/-- A product of two E4M3 encodings. -/
abbrev e4m3Mul (x y : Nat) : Fv := (fvOf 4 x).mul (fvOf 4 y)

/-- Chapter 3's example at anchor -4: the two partials of its first split, each with TRUNC. -/
theorem test_anchored_partials :
    accumulate ⟨1, -4⟩ 0 [e4m3Mul 0x7E 0x7E, e4m3Mul 0x08 0x18, e4m3Mul 0xFE 0x7E] = 0x10000000000000000000000000000000 ∧
    accumulate ⟨1, -4⟩ 0 [e4m3Mul 0x08 0x18, e4m3Mul 0x45 0x3B, e4m3Mul 0xBB 0x31] = 0x1000000000000000000000000000003B := by decide

/-- The same example's second split: core 41's partial is negative. -/
theorem test_anchored_negative :
    accumulate ⟨1, -4⟩ 0 [e4m3Mul 0x08 0x18, e4m3Mul 0xFE 0x7E, e4m3Mul 0xBB 0x31] = 0x10FFFFFFFFFFFFFFFFFFFFFFFFCEFFF4 := by decide

/-- Its element converts to 3.6875 in FP32. -/
theorem test_anchored_to_fp32 : wxToF32 (-4) 0x1000000000000000000000000000003B = 0x406C0000 := by decide

/-- Its products in FP32 ordered mode in the order 1, 3, 0, 2, 4, 5: 3.6953125. -/
theorem test_ordered_sum :
    accumulate ⟨2, 0⟩ 0 [e4m3Mul 0x08 0x18, e4m3Mul 0x08 0x18, e4m3Mul 0x7E 0x7E, e4m3Mul 0xFE 0x7E, e4m3Mul 0x45 0x3B,
      e4m3Mul 0xBB 0x31] = 0x406C8000 := by decide

/-- The configuration words of chapter 7's example pass every rule of R170; without T14's word T1's link breaks rule 6. -/
theorem test_tile_configuration :
    cfgBlockFault [0x24FF, 0x7811FF, 0, 0, 0, 0, 0, 0, 0, 0, 0, 0, 0, 0, 0x407F, 0] = none ∧
    cfgBlockFault [0x24FF, 0x7811FF, 0, 0, 0, 0, 0, 0, 0, 0, 0, 0, 0, 0, 0, 0] = some (1, 0x24) := by decide

/-! ### Instruction words -/

/-- The words that chapters 8 and 9 print: MMA g3, T8, q = 0 and T9, q = 1; MWLD T4 and T0; MMAQ g3, v2, h6, T4, q = 2; MDRAIN g7, g3, g10, slot 9. -/
theorem test_decode_printed_words :
    decodeTableWord 32 0xCA300206 = some (.mma w0 3 0 0 8 0 true true false) ∧
    decodeTableWord 32 0xCA30024E = some (.mma w0 3 0 0 9 1 true true false) ∧
    decodeTableWord 32 0xC800013C = some (.mwld w0 0 0 0 4 0xF false false) ∧
    decodeTableWord 32 0xC800003E = some (.mwld w0 0 0 0 0 0xF true false) ∧
    decodeTableWord 32 0xCC311912 = some (.mmaq w0 3 2 6 4 2 false true false) ∧
    decodeTableWord 32 0xCE71A926 = some (.mdrain w0 7 3 10 9 true false) := by decide

/-- Words written out field by field: [31:25], [24:20], [19:15], [14:10] and [9:0] of R107's formats. -/
theorem test_decode_fields :
    decodeTableWord 32 (0x01 * 2 ^ 25 + 5 * 2 ^ 20 + 6 * 2 ^ 15 + 7 * 2 ^ 10 + 0x01) = some (.sub w0 5 6 7) ∧
    decodeTableWord 32 (0x6E * 2 ^ 25 + 0 * 2 ^ 20 + 0 * 2 ^ 15 + 0 * 2 ^ 10 + 2 * 2 ^ 7 + 2 + 1) = some (.fret w0 true) ∧
    decodeTableWord 32 (0x6E * 2 ^ 25 + 0 * 2 ^ 20 + 1 * 2 ^ 15 + 0 * 2 ^ 10 + 2 * 2 ^ 7 + 1) = some (illegalWord w0) ∧
    decodeTableWord 32 (0x67 * 2 ^ 25 + 7 * 2 ^ 7) = some (illegalWord w0) ∧ decodeTableWord 16 0 = none := by decide

end Sys2Proof.Tests
end

section
/-! PROOFS. Reserved forms fault (R7, R101, R104, R107, R108): the command issues, and its own effect is the fault. -/

namespace Sys2Proof.Machine

/-- Command `c` issues on strand `w` with the registers `uses`, and its own effect, whatever the state, is the fault `code`. -/
def Refuses (c : Instr) (w : Site) (uses : List RegRef) (code : Nat) : Prop :=
  ∃ body, (∀ s, exec c s = .next (s.issue w uses body)) ∧ ∀ t, body t = .fault t (flt code)

/-- The bookkeeping of an issue leaves the strand as it was. -/
theorem Noted.of_counted {w : Site} {s u : State} (h : Counted w s u) : Noted w s u := ⟨.of_counted h, h.strand w⟩

/-- A ready strand that issues a refused form takes the form's fault. -/
theorem Refuses.takes_fault {c : Instr} {w : Site} {uses : List RegRef} {code : Nat} {s : State} (h : Refuses c w uses code)
    (hs : s.ready w uses = true) : ∃ u, Noted w s u ∧ exec c s = .next (u.takeFault w (flt code)) := by
  obtain ⟨body, hexec, hbody⟩ := h
  obtain ⟨u, hu, hissue⟩ := State.issue_ready hs body
  exact ⟨u, .of_counted hu, by rw [hexec, hissue, hbody]; rfl⟩

section
variable {c : Instr} {w w' : Site} {uses uses' : List RegRef} {code code' : Nat}

/-- A command whose own effect begins with the guard `p` refuses the forms that the condition `P` marks as reserved, if `P` gives `p`. -/
theorem Refuses.of_reserved {P p : Prop} {_ : Decidable P} {_ : Decidable p} {rest : State → Res}
    (h : (if P then some (w, uses, code) else none) = some (w', uses', code')) (hp : P → p)
    (hexec : ∀ s, exec c s = .next (s.issue w uses fun t => if p then .fault t (flt code) else rest t)) : Refuses c w' uses' code' := by
  split at h
  · cases h; exact ⟨_, hexec, fun _ => if_pos (hp ‹_›)⟩
  · cases h

/-- The same, for a condition `P` that marks the forms that are not reserved. -/
theorem Refuses.of_not_allowed {P p : Prop} {_ : Decidable P} {_ : Decidable p} {rest : State → Res}
    (h : (if P then none else some (w, uses, code)) = some (w', uses', code')) (hp : ¬P → p)
    (hexec : ∀ s, exec c s = .next (s.issue w uses fun t => if p then .fault t (flt code) else rest t)) : Refuses c w' uses' code' :=
  .of_reserved (P := ¬P) (by rw [ite_not]; exact h) hp hexec

/-! ### Lane formats (R101) -/

/-- The lane format codes: 3 is reserved, and only 2 is FP32. -/
theorem laneF_cases (lf : BitVec 2) : (lf = 3 → laneF lf = none) ∧ (lf ≠ 3 → lf ≠ 2 → ∃ f, laneF lf = some f ∧ f ≠ 1) := by
  revert lf; decide

theorem opVfp_refuses {lf : BitVec 2} {d a b : RegField} {f : Nat → Nat → Nat → Nat → Nat} (hc : exec c = opVfp w lf d a b f)
    (h : badLane w lf d a b = some (w', uses', code')) : Refuses c w' uses' code' := by
  unfold badLane at h
  split at h
  · next hlf =>
    cases h
    exact ⟨_, fun s => by rw [hc]; rfl, fun t => by simp only [(laneF_cases lf).1 hlf]⟩
  · cases h

/-- FDIV and FSQRT take FP32 lanes only. -/
theorem opVfp32_refuses {lf : BitVec 2} {d a b : RegField} {f : Nat → Nat → Nat} (hc : exec c = opVfp32 w lf d a b f)
    (h : (if lf = 3 then some (w, [RegRef.v d.toNat, .v a.toNat, .v b.toNat], 0x01)
      else if lf = 2 then none else some (w, [.v d.toNat, .v a.toNat, .v b.toNat], 0x20)) = some (w', uses', code')) :
    Refuses c w' uses' code' := by
  split at h
  · next hlf =>
    cases h
    exact ⟨_, fun s => by rw [hc]; rfl, fun t => by simp only [(laneF_cases lf).1 hlf]⟩
  · next h3 =>
    split at h
    · cases h
    · next h2 =>
      cases h
      obtain ⟨x, hx, h1⟩ := (laneF_cases lf).2 h3 h2
      exact ⟨_, fun s => by rw [hc]; rfl, fun t => by simp only [hx, if_pos h1]⟩

/-! ### Memory accesses (R96, R107) -/

/-- Command `c` issues with the registers `uses` and makes an access under hull register field `h`. -/
def Accesses (c : Instr) (w : Site) (uses : List RegRef) (h : RegField) : Prop :=
  ∃ (addr : State → Nat) (size : Nat) (write wide : Bool) (k : State → Acc → State → Res), ∀ s,
    exec c s = .next (s.issue w uses fun t => t.resolve w h (addr t) size write wide (k t))

/-- An access refuses a hull register field of 16 or more. -/
theorem Accesses.refuses {h : RegField} (hc : Accesses c w uses h)
    (hf : (if h.toNat < 16 then none else some (w, uses, 0x01)) = some (w', uses', code')) : Refuses c w' uses' code' := by
  obtain ⟨_, _, _, _, _, hexec⟩ := hc
  split at hf
  · cases hf
  · cases hf
    refine ⟨_, hexec, fun t => ?_⟩
    unfold State.resolve
    exact if_pos (Nat.le_of_not_lt ‹_›)

theorem ldOp_accesses {o : LdOp} (hc : ldOp c = some o) : Accesses c o.w [o.use, .g o.a.toNat, .h o.h.toNat] o.h := by
  unfold ldOp at hc
  split at hc <;> cases hc <;> exact ⟨_, _, _, _, _, fun _ => rfl⟩

theorem stOp_accesses {o : StOp} (hc : stOp c = some o) : Accesses c o.w [o.use, .g o.a.toNat, .h o.h.toNat] o.h := by
  unfold stOp at hc
  split at hc <;> cases hc <;> exact ⟨_, _, _, _, _, fun _ => rfl⟩

/-- The atomics share one meaning. -/
theorem exec_amoForm {op : Nat} {d a b : RegField} {h : BitVec 4} {z : BitVec 2} (hc : amoForm c = some (op, w, d, a, b, h, z)) :
    exec c = amoOp op w d a b h z := by
  unfold amoForm at hc
  split at hc <;> cases hc <;> rfl

/-! ### Every reserved form -/

/-- A reserved form is refused with its fault. -/
theorem badForm_refuses (h : badForm c = some (w', uses', code')) : Refuses c w' uses' code' := by
  unfold badForm at h
  split at h
  case h_1 | h_2 | h_3 => exact .of_reserved h id fun _ => rfl  -- SLLI, SRLI, SRAI
  case h_4 | h_5 => exact .of_reserved h id fun _ => rfl  -- VEXT, VINS
  case h_6 | h_7 | h_8 | h_9 | h_10 | h_11 | h_12 | h_13 | h_14 | h_15 | h_16 => exact opVfp_refuses rfl h  -- FADD to FCMPLE
  case h_17 | h_18 => exact opVfp32_refuses rfl h  -- FDIV, FSQRT
  case h_19 => exact .of_reserved h (by simp only [Bool.or_eq_true, decide_eq_true_eq, imp_self]) fun _ => rfl  -- VMULW
  case h_20 => exact .of_reserved h id fun _ => rfl  -- VDOT
  case h_21 | h_22 => exact .of_not_allowed h id fun _ => rfl  -- VSPLAT, VPERM
  case h_23 => exact .of_not_allowed h (by simp only [← Bool.not_and, Bool.not_eq_true, Bool.not_eq_true', imp_self]) fun _ => rfl  -- VCVT
  case h_24 => exact .of_reserved h id fun _ => rfl  -- LOOP
  case h_25 => exact .of_not_allowed h id fun _ => rfl  -- LBRK
  case h_26 => exact .of_not_allowed h (by simp only [Decidable.not_and_iff_not_or_not, Bool.or_eq_true,
    decide_eq_true_eq, ne_eq, or_assoc, imp_self]) fun _ => rfl  -- HALT
  case h_27 | h_28 => exact .of_not_allowed h (by simp only [Decidable.not_and_iff_not_or_not, Bool.or_eq_true,
    decide_eq_true_eq, ne_eq, Nat.not_lt, ge_iff_le, imp_self]) fun _ => rfl  -- RDSR, WRSR
  case h_29 | h_30 | h_31 | h_32 | h_33 | h_34 | h_35 | h_36 =>  -- the hull instructions
    exact .of_not_allowed h (by simp only [hullDst, hullSrc, Decidable.not_and_iff_not_or_not, Bool.or_eq_true,
      Bool.not_eq_true', decide_eq_false_iff_not, imp_self]) fun _ => rfl
  case h_37 =>  -- the atomics, the loads and the stores
    split at h
    · next hc => exact .of_not_allowed h Nat.lt_of_not_le fun s => by rw [exec_amoForm hc]; rfl
    · next hc _ => exact (ldOp_accesses hc).refuses h
    · next hc _ _ => exact (stOp_accesses hc).refuses h
    · cases h

end

/-- Settles O4: a reserved form issues, and its effect is its fault. -/
theorem reservedFormsFault : Obligations.ReservedFormsFault :=
  fun _ _ _ _ _ h hs => (badForm_refuses h).takes_fault hs

end Sys2Proof.Machine
end

section
/-! PROOFS. Bits of register words (R14): what a word built of fields reads at a bit, and what a write leaves there. -/

namespace Sys2Proof.Machine

/-- A bit of a word after field `[lo + w - 1 : lo]` is replaced. -/
theorem bit_setFld {n : Nat} (x : BitVec n) {lo w v i : Nat} (hw : 0 < w) (hi : i < n) :
    bit (setFld x (lo + w - 1) lo v) i = if lo ≤ i ∧ i < lo + w then v.testBit (i - lo) else bit x i := by
  have hlen : lo + w - 1 + 1 - lo = w := by omega
  unfold bit setFld
  simp only [hlen, BitVec.getLsbD_or, BitVec.getLsbD_and, BitVec.getLsbD_not, BitVec.getLsbD_shiftLeft, BitVec.getLsbD_ofNat,
    Nat.testBit_two_pow_sub_one, Nat.testBit_mod_two_pow]
  by_cases h1 : i < lo
  · have h3 : ¬lo ≤ i := by omega
    simp [h1, h3, hi]
  · by_cases h2 : i < lo + w
    · have h3 : i - lo < w := by omega
      have h4 : i - lo < n := by omega
      simp [h1, h2, h3, h4, hi, Nat.le_of_not_lt h1]
    · have h3 : ¬i - lo < w := by omega
      simp [h1, h2, h3, hi]

/-- A bit of a register word: the first field that covers it gives it. -/
theorem bit_regWord_cons {lo w v i : Nat} (t : List (Nat × Nat × Nat)) (hw : 0 < w) (hi : i < 64) :
    bit (regWord ((lo, w, v) :: t)) i = if lo ≤ i ∧ i < lo + w then v.testBit (i - lo) else bit (regWord t) i :=
  bit_setFld _ hw hi

/-- A one-bit field reads as its flag. -/
@[simp] theorem decide_b2n_mod_two (b : Bool) : decide (b2n b % 2 = 1) = b := by cases b <;> rfl

theorem getLsbD_fieldMask (hi lo i : Nat) :
    (fieldMask hi lo).getLsbD i = (decide (i < 64) && decide (lo ≤ i) && decide (i ≤ hi)) := by
  rw [fieldMask, BitVec.getLsbD_ofNat, Nat.testBit_mul_two_pow, Nat.testBit_two_pow_sub_one, Bool.and_assoc]
  by_cases h : lo ≤ i
  · have : i - lo < hi + 1 - lo ↔ i ≤ hi := by omega
    simp only [this]
  · simp [h]

/-- R14: an RW1C bit of a stored word after a write. -/
theorem bit_mergeWrite_w1c (x v : W64) {i : Nat} (hi : i < 64) :
    bit (mergeWrite x v 0#64 (fieldMask i i)) i = (bit x i && !bit v i) := by
  simp only [bit, mergeWrite, BitVec.getLsbD_and, BitVec.getLsbD_or, BitVec.getLsbD_not, getLsbD_fieldMask]
  simp [hi]

/-- The UE flag of an error status word after a write. -/
theorem bit_eccWrite_ue (x v : W64) : bit (eccWrite x v) 17 = (bit x 17 && !bit v 17) := by
  unfold eccWrite
  extract_lets y
  split
  · exact (bit_setFld (lo := 0) (w := 16) y (by decide) (by decide)).trans (bit_mergeWrite_w1c x v (by decide))
  · exact bit_mergeWrite_w1c x v (by decide)

/-- A write of every bit stands as it is. -/
theorem and_fieldMask_63 (v : W64) : v &&& fieldMask 63 0 = v := by
  have : fieldMask 63 0 = BitVec.allOnes 64 := by decide
  rw [this, BitVec.and_allOnes]

/-- A field of the low `n + 1` bits keeps those bits of what is written. -/
theorem setWidth_setWidth_fieldMask (v : W64) (n : Nat) : (v.setWidth (n + 1)).setWidth 64 = v &&& fieldMask n 0 := by
  refine BitVec.eq_of_getLsbD_eq fun i hi => ?_
  simp only [BitVec.getLsbD_setWidth, BitVec.getLsbD_and, getLsbD_fieldMask]
  simp only [hi, Nat.lt_add_one_iff, Nat.zero_le, decide_true, Bool.true_and, Bool.and_comm]

end Sys2Proof.Machine
end

section
/-! PROOFS. The register windows (R20, R22): the window each register lies in, and where a write of it goes. -/

namespace Sys2Proof.Machine

/-- The register windows: a core's, a compute die's, the counters of any die (R510-R515), and die M's. -/
inductive Window where
  | core | die | dieCounters | dieM

/-- The window that holds a register. -/
def Reg.window : Reg → Window
  | .llcCfg _ | .llcStat _ | .llcEcc _ | .mcStat _ | .mcEcc _ => .die
  | .puuStat _ | .puuNf _ | .puuStage _ _ | .puuCommit _ | .puuRule _ _ | .puuQsub _ _ | .puuQstat _ _ | .puuQdone _ _ _ => .die
  | .plkPctl _ | .plkPstat _ | .plkLane _ | .plkErr _ | .plkFecc _ | .plkLber _ _ | .plkRt _ _ _ | .plkModid _ | .plkEpoch _ |
    .plkBstat _ _ => .die
  | .synStat _ | .synRerr _ | .synRsub _ | .synRstat _ | .synRdone _ | .cpyEstat _ _ => .die
  | .pmcDcnt _ _ | .pmcDsel _ _ | .pmcDsnap _ _ | .pmcDstat _ | .pmcBwwin _ | .pmcBw _ _ => .dieCounters
  | .pmcGstat | .pmcTrig | .mbx _ _ | .pwrCap | .pwrMod | .pwrEpoch | .pwrTime | .pwrPod _ | .pwrDmon _ | .pwrDmonClr |
    .pwrTsens _ | .pwrVmon _ | .evrStat | .evrClr | .evrRec _ _ | .grn _ | .bootStat | .bootImg _ | .bootRoll | .lcState |
    .sch _ _ | .lmon _ _ | .lmonClink _ | .spBase | .spStat | .hulDom _ | .hulSweep | .hulVbase _ | .hulDfpc _ => .dieM
  | _ => .core

section
variable {c d u o off : Nat} {r : Reg}

theorem accRegAt_window (h : accRegAt c o = some r) : r.window = .core := by
  unfold accRegAt regIf at h
  (repeat' split at h) <;> cases h <;> rfl

theorem strRegAt_window (h : strRegAt c o = some r) : r.window = .core := by
  unfold strRegAt regIf at h
  (repeat' split at h) <;> cases h <;> rfl

theorem cpyRegAt_window (h : cpyRegAt c o = some r) : r.window = .core := by
  unfold cpyRegAt regIf at h
  (repeat' split at h) <;> cases h <;> rfl

theorem pmcRegAt_window (h : pmcRegAt c o = some r) : r.window = .core := by
  unfold pmcRegAt regIf at h
  (repeat' split at h) <;> cases h <;> rfl

theorem regIf_eq_some {p : Bool} {q : Reg} (h : regIf p q = some r) : q = r := by
  unfold regIf at h
  split at h <;> cases h
  rfl

theorem coreRegAt_window (h : coreRegAt c off = some r) : r.window = .core := by
  unfold coreRegAt at h
  dsimp only at h
  split at h
  case h_1 | h_2 | h_3 => cases regIf_eq_some h; rfl  -- FLT_, TILE_, MAT_
  case h_4 => exact accRegAt_window h
  case h_5 => exact strRegAt_window h
  case h_6 => exact cpyRegAt_window h
  case h_7 =>  -- L1_
    split at h
    · cases h; rfl
    · cases regIf_eq_some h; rfl
  case h_8 => exact pmcRegAt_window h
  case h_9 => cases h

theorem llcRegAt_window (h : llcRegAt d o = some r) : r.window = .die := by
  unfold llcRegAt at h
  dsimp only at h
  (repeat' split at h) <;> cases h <;> rfl

theorem puuRegAt_window (h : puuRegAt u o = some r) : r.window = .die := by
  unfold puuRegAt regIf at h
  dsimp only at h
  (repeat' split at h) <;> cases h <;> rfl

theorem plkRegAt_window (h : plkRegAt d o = some r) : r.window = .die := by
  unfold plkRegAt regIf at h
  dsimp only at h
  (repeat' split at h) <;> cases h <;> rfl

theorem synRegAt_window (h : synRegAt d o = some r) : r.window = .die := by
  unfold synRegAt at h
  dsimp only at h
  (repeat' split at h) <;> cases h <;> rfl

/-- Only die M's window holds PMC_GSTAT and PMC_TRIG. -/
theorem diePmcAt_window (h : diePmcAt d o = some r) : r.window = .dieCounters ∨ d = 4 ∧ r.window = .dieM := by
  have gstat (q : Reg) (hq : q.window = .dieM) (h : regIf (d == 4) q = some r) : d = 4 ∧ r.window = .dieM := by
    unfold regIf at h
    split at h <;> cases h
    exact ⟨beq_iff_eq.1 ‹_›, hq⟩
  unfold diePmcAt at h
  dsimp only at h
  split at h; · cases h; exact .inl rfl
  split at h; · cases h; exact .inl rfl
  split at h; · cases h; exact .inl rfl
  split at h; · cases h; exact .inl rfl
  split at h; · cases h; exact .inl rfl
  split at h; · exact .inr (gstat _ rfl h)
  split at h; · exact .inr (gstat _ rfl h)
  cases regIf_eq_some h; exact .inl rfl

/-- A compute die's window holds no register of die M or of a core. -/
theorem dieRegAt_window (h : dieRegAt d off = some r) (hd : d ≠ 4) : r.window = .die ∨ r.window = .dieCounters := by
  unfold dieRegAt at h
  dsimp only at h
  split at h
  case h_1 => exact .inl (llcRegAt_window h)
  case h_2 =>
    split at h
    · exact .inl (puuRegAt_window h)
    · cases h
  case h_3 => exact .inl (plkRegAt_window h)
  case h_4 => exact .inl (synRegAt_window h)
  case h_5 => cases regIf_eq_some h; exact .inl rfl  -- CPY_
  case h_6 => exact .inr ((diePmcAt_window h).resolve_right fun x => hd x.1)
  case h_7 => cases h

theorem pwrRegAt_window (h : pwrRegAt o = some r) : r.window = .dieM := by
  unfold pwrRegAt regIf at h
  (repeat' split at h) <;> cases h <;> rfl

theorem hulRegAt_window (h : hulRegAt o = some r) : r.window = .dieM := by
  unfold hulRegAt regIf at h
  (repeat' split at h) <;> cases h <;> rfl

theorem dieMRegAt_window (h : dieMRegAt off = some r) : r.window = .dieM ∨ r.window = .dieCounters := by
  unfold dieMRegAt at h
  dsimp only at h
  split at h
  case h_1 | h_4 | h_6 => cases regIf_eq_some h; exact .inl rfl  -- the mailboxes, GRN_, SCH_
  case h_2 => exact .inl (pwrRegAt_window h)
  case h_3 | h_7 | h_8 =>  -- EVR_, LMON_, SP_
    unfold regIf at h
    (repeat' split at h) <;> cases h <;> exact .inl rfl
  case h_5 => split at h <;> cases h <;> exact .inl rfl  -- BOOT_, LC_
  case h_9 => exact (diePmcAt_window h).symm.imp_left fun x => x.2
  case h_10 => exact .inl (hulRegAt_window h)
  case h_11 => cases h

end

/-! ### Where a write goes -/

/-- What a write of `v` to register `r` by `u` does: its window's part of the register map carries it out. -/
def State.writeReg (s : State) (u : RegUser) (r : Reg) (v : W64) : State :=
  match r.window with
  | .core => s.writeCoreReg r v
  | .die | .dieCounters => s.writeDieReg u r v
  | .dieM => s.writeDieMReg u r v

/-- A write at a register's address is a write of the register. -/
theorem regWrite_of_regAt {pa : Nat} {r : Reg} (h : regAt pa = some r) (s : State) (u : RegUser) (v : W64) :
    s.regWrite u pa v = s.writeReg u r v := by
  unfold State.regWrite
  rw [h]
  dsimp only
  unfold regAt at h
  split at h
  · cases h
  · split at h
    · next hreg =>
      have hw := coreRegAt_window h
      simp only [hreg, State.writeReg, hw]
    · next d off hreg =>
      split at h
      · next hd =>
        subst hd
        simp only [hreg]
        rcases dieMRegAt_window h with hw | hw <;> cases r <;> cases hw <;> rfl
      · next hd =>
        rcases dieRegAt_window h hd with hw | hw <;> simp only [State.writeReg, hw] <;> split <;> simp_all
    · cases h

/-- A write where no register lies changes nothing. -/
theorem regWrite_of_hole {pa : Nat} (h : regAt pa = none) (s : State) (u : RegUser) (v : W64) : s.regWrite u pa v = s := by
  unfold State.regWrite
  rw [h]

end Sys2Proof.Machine
end

section
/-! PROOFS. Writes of registers (R14): RW fields take what is written, RW1C flags are cleared by 1, read-only registers stand. -/

namespace Sys2Proof.Machine

/-! ### What a write leaves alone -/

/-- An update of no core and of no byte of memory keeps every strand and memory. -/
theorem Kept.of_cores_mem {s t : State} (hc : t.cores = s.cores) (hm : t.mem = s.mem) : Kept s t :=
  ⟨fun v => by unfold State.strand State.core; rw [hc], hm⟩

/-- An update of a core that keeps its strands keeps every strand and memory. -/
theorem Kept.modCore (s : State) (c : Nat) {f : Core → Core} (hf : ∀ k, (f k).strands = k.strands) : Kept s (s.modCore c f) := by
  refine ⟨fun v => ?_, rfl⟩
  unfold State.strand Core.strand
  by_cases h : v.core.val = c
  · rw [h, State.core_modCore_same, hf]
  · rw [State.core_modCore_other _ _ h]

/-! ### RW fields -/

/-- Luami's write of `r` sets the field that `mask` marks and clears the rest of the word; it keeps registers of strands and memory. -/
def TakesField (r : Reg) (mask : W64) : Prop :=
  ∀ (s : State) (v : W64), Kept s (s.writeReg .luami r v) ∧ (s.writeReg .luami r v).readReg r = v &&& mask

theorem takesField_flt (c : Nat) {i : Nat} (hi : i ∈ [1, 2, 3, 4, 6]) : TakesField (.flt c i) (fieldMask 63 0) := by
  refine fun s v => ⟨.modCore _ _ fun _ => rfl, ?_⟩
  rw [and_fieldMask_63]
  simp only [State.writeReg, Reg.window, State.writeCoreReg, State.readReg, State.core_modCore_same]
  revert i
  simp [fltWord, IntRegs.write]

theorem takesField_accSeed (c : Nat) : TakesField (.accSeed c) (fieldMask 63 0) := by
  refine fun s v => ⟨.modCore _ _ fun _ => rfl, ?_⟩
  rw [and_fieldMask_63]
  simp [State.writeReg, Reg.window, State.writeCoreReg, State.readReg, State.modAcc]

theorem takesField_pmcCnt (c n : Nat) : TakesField (.pmcCnt c n) (fieldMask 47 0) := by
  refine fun s v => ⟨.modCore _ _ fun _ => rfl, ?_⟩
  rw [← setWidth_setWidth_fieldMask]
  simp [State.writeReg, Reg.window, State.writeCoreReg, State.readReg, State.modCnt]

theorem takesField_pmcReload (c n : Nat) : TakesField (.pmcReload c n) (fieldMask 47 0) := by
  refine fun s v => ⟨.modCore _ _ fun _ => rfl, ?_⟩
  rw [← setWidth_setWidth_fieldMask]
  simp [State.writeReg, Reg.window, State.writeCoreReg, State.readReg, State.modCnt]

theorem takesField_puuStage (x q : Nat) : TakesField (.puuStage x q) (fieldMask 63 0) := by
  refine fun s v => ⟨.of_cores_mem rfl rfl, ?_⟩
  rw [and_fieldMask_63]
  simp [State.writeReg, Reg.window, State.writeDieReg, State.readReg, State.updUnit, State.setUpdUnit]

theorem takesField_pmcDcnt (d n : Nat) : TakesField (.pmcDcnt d n) (fieldMask 47 0) := by
  refine fun s v => ⟨.of_cores_mem rfl rfl, ?_⟩
  rw [← setWidth_setWidth_fieldMask]
  simp [State.writeReg, Reg.window, State.writeDieReg, State.readReg, State.modDcnt]

theorem takesField_pwrCap : TakesField .pwrCap (fieldMask 12 0) :=
  fun _ v => ⟨.of_cores_mem rfl rfl, setWidth_setWidth_fieldMask v 12⟩

theorem takesField_pmcTrig : TakesField .pmcTrig (fieldMask 30 0) := fun _ _ => ⟨.of_cores_mem rfl rfl, rfl⟩

/-- A schedule slot's RW registers (R400). -/
theorem takesField_sch (n : Nat) : TakesField (.sch n 0) (fieldMask 63 0) ∧ TakesField (.sch n 1) (fieldMask 34 0) ∧
    TakesField (.sch n 2) (fieldMask 63 0) ∧ TakesField (.sch n 3) (fieldMask 63 0) ∧ TakesField (.sch n 5) (fieldMask 47 0) := by
  have key (s : State) (x : SchedSlot) : (s.setSchedSlot n x).schedSlot n = x := tget_tset_same _ _ _ _
  refine ⟨?_, ?_, ?_, ?_, ?_⟩ <;> refine fun s v => ⟨.of_cores_mem rfl rfl, ?_⟩ <;>
    simp [State.writeReg, Reg.window, State.writeDieMReg, State.schWrite, State.readReg, schWord, key, and_fieldMask_63]

theorem takesField_lmonCfg (n : Nat) : TakesField (.lmon n 0) (fieldMask 63 0) := by
  refine fun s v => ⟨.of_cores_mem rfl rfl, ?_⟩
  rw [and_fieldMask_63]
  simp [State.writeReg, Reg.window, State.writeDieMReg, State.lmonWrite, State.readReg, State.lossSlot, State.setLossSlot, lmonWord]

theorem takesField_spBase : TakesField .spBase (fieldMask 51 16) := fun _ _ => ⟨.of_cores_mem rfl rfl, rfl⟩

/-! ### RW1C flags -/

/-- Luami's write of `r` clears flag `i` where it writes 1 there and else leaves it; it keeps registers of strands and memory. -/
def ClearsFlag (r : Reg) (i : Nat) : Prop :=
  ∀ (s : State) (v : W64), Kept s (s.writeReg .luami r v) ∧
    bit ((s.writeReg .luami r v).readReg r) i = (bit (s.readReg r) i && !bit v i)

/-- The error status words of a core's units: UE. -/
theorem clearsFlag_coreEcc (c : Nat) : ClearsFlag (.tileEcc c) 17 ∧ ClearsFlag (.accEcc c) 17 ∧ ClearsFlag (.strEcc c) 17 ∧
    ClearsFlag (.cpySpecc c) 17 := by
  refine ⟨?_, ?_, ?_, ?_⟩ <;> refine fun s v => ⟨.modCore _ _ fun _ => rfl, ?_⟩ <;>
    simp [State.writeReg, Reg.window, State.writeCoreReg, State.readReg, State.modAcc, State.modStr, State.modCpy, bit_eccWrite_ue]

theorem clearsFlag_cpyErr (c : Nat) : ClearsFlag (.cpyErr c) 43 := by
  refine fun s v => ⟨.modCore _ _ fun _ => rfl, ?_⟩
  simp [State.writeReg, Reg.window, State.writeCoreReg, State.readReg, State.modCpy, bit_mergeWrite_w1c]

theorem clearsFlag_synRerr (n : Nat) : ClearsFlag (.synRerr n) 36 := by
  refine fun s v => ⟨.of_cores_mem rfl rfl, ?_⟩
  simp [State.writeReg, Reg.window, State.writeDieReg, State.readReg, bit_mergeWrite_w1c]

/-! #### Flags of words built of fields -/

theorem bit_matWord_perr (m : MatArray) : bit (matWord m) 21 = m.perr := by
  simp [matWord, flag, bit_regWord_cons]

theorem bit_cpyStatWord_ferr (s : State) (done : W32) (l : List CopyItem) (ferr : Bool) : bit (s.cpyStatWord done l ferr) 39 = ferr := by
  simp [State.cpyStatWord, flag, bit_regWord_cons]

theorem bit_llcEccWord_ue (r : SliceRegs) : bit (llcEccWord r) 17 = r.ue := by
  simp [llcEccWord, flag, bit_regWord_cons]

theorem bit_mcEccWord_ue (r : StackRegs) : bit (mcEccWord r) 33 = r.ue := by
  simp [mcEccWord, flag, bit_regWord_cons]

theorem bit_puuQstatWord (y : UpdQueue) : bit (puuQstatWord y) 39 = y.ovf ∧ bit (puuQstatWord y) 40 = y.err := by
  simp [puuQstatWord, flag, bit_regWord_cons]

theorem bit_plkPstatWord_idconf (p : Port) : bit (plkPstatWord p) 32 = p.idconf := by
  simp [plkPstatWord, flag, bit_regWord_cons]

theorem bit_ringStatWord (s : State) (c : Nat) :
    bit (s.ringStatWord c) 53 = (s.ring c).err ∧ bit (s.ringStatWord c) 54 = (s.ring c).ovf := by
  simp [State.ringStatWord, flag, bit_regWord_cons]

theorem bit_dmonWord_floor (s : State) (i : Nat) : bit (s.dmonWord i) 59 = (s.dmonOf i).floor := by
  simp [State.dmonWord, flag, bit_regWord_cons]

theorem bit_vmonWord (x : VMon) : bit (vmonWord x) 16 = x.uv ∧ bit (vmonWord x) 17 = x.ov := by
  simp [vmonWord, flag, bit_regWord_cons]

/-- A flag `g` of the state that `r` shows at bit `i`, and that the write clears. -/
theorem ClearsFlag.of_shown {r : Reg} {i : Nat} (g : State → Bool) (hread : ∀ s, bit (s.readReg r) i = g s)
    (hw : ∀ s v, Kept s (s.writeReg .luami r v) ∧ g (s.writeReg .luami r v) = w1c (g s) v i) : ClearsFlag r i := by
  intro s v
  rw [hread, hread]
  exact hw s v

theorem clearsFlag_matStat (c a : Nat) : ClearsFlag (.matStat c a) 21 :=
  .of_shown (fun s => ((s.core c).mat a).perr) (fun _ => bit_matWord_perr _) fun _ _ =>
    ⟨.modCore _ _ fun _ => rfl, by simp [State.writeReg, Reg.window, State.writeCoreReg, State.modMat, Core.mat]⟩

theorem clearsFlag_cpyChan (c i : Nat) : ClearsFlag (.cpyChan c i) 39 :=
  .of_shown (fun s => (tget CopyChan.reset (s.core c).cpy.chans i).ferr) (fun _ => bit_cpyStatWord_ferr _ _ _ _) fun _ _ =>
    ⟨.modCore _ _ fun _ => rfl, by simp [State.writeReg, Reg.window, State.writeCoreReg, State.modCpy]⟩

theorem clearsFlag_cpyDe (c : Nat) : ClearsFlag (.cpyDe c) 39 :=
  .of_shown (fun s => (s.core c).cpy.deFerr) (fun _ => bit_cpyStatWord_ferr _ _ _ _) fun _ _ =>
    ⟨.modCore _ _ fun _ => rfl, by simp [State.writeReg, Reg.window, State.writeCoreReg, State.modCpy]⟩

theorem clearsFlag_llcEcc (n : Nat) : ClearsFlag (.llcEcc n) 17 :=
  .of_shown (fun s => (s.slice n).ue) (fun _ => bit_llcEccWord_ue _) fun _ _ =>
    ⟨.of_cores_mem rfl rfl, by simp [State.writeReg, Reg.window, State.writeDieReg, State.slice]⟩

theorem clearsFlag_mcEcc (x : Nat) : ClearsFlag (.mcEcc x) 33 :=
  .of_shown (fun s => (s.stack x).ue) (fun _ => bit_mcEccWord_ue _) fun _ _ =>
    ⟨.of_cores_mem rfl rfl, by simp [State.writeReg, Reg.window, State.writeDieReg, State.stack]⟩

/-- PUU_QSTATq: OVF and ERR. -/
theorem clearsFlag_puuQstat (x q : Nat) : ClearsFlag (.puuQstat x q) 39 ∧ ClearsFlag (.puuQstat x q) 40 := by
  have key (s : State) (y : UpdQueue) : ((s.setUpdQueue x q y).updUnit x).queue q = y := by
    simp [State.setUpdQueue, State.setUpdUnit, State.updUnit, UpdUnit.queue]
  exact ⟨.of_shown (fun s => ((s.updUnit x).queue q).ovf) (fun _ => (bit_puuQstatWord _).1) fun _ _ =>
      ⟨.of_cores_mem rfl rfl, by simp [State.writeReg, Reg.window, State.writeDieReg, key]⟩,
    .of_shown (fun s => ((s.updUnit x).queue q).err) (fun _ => (bit_puuQstatWord _).2) fun _ _ =>
      ⟨.of_cores_mem rfl rfl, by simp [State.writeReg, Reg.window, State.writeDieReg, key]⟩⟩

theorem clearsFlag_plkPstat (k : Nat) : ClearsFlag (.plkPstat k) 32 :=
  .of_shown (fun s => (s.port k).idconf) (fun _ => bit_plkPstatWord_idconf _) fun _ _ =>
    ⟨.of_cores_mem rfl rfl, by simp [State.writeReg, Reg.window, State.writeDieReg, State.modPort, State.setPort, State.port]⟩

/-- SYN_RSTATc: ERR and OVF. -/
theorem clearsFlag_synRstat (c : Nat) : ClearsFlag (.synRstat c) 53 ∧ ClearsFlag (.synRstat c) 54 := by
  have key (s : State) (y : RingChan) : (s.setRing c y).ring c = y := tget_tset_same _ _ _ _
  exact ⟨.of_shown (fun s => (s.ring c).err) (fun _ => (bit_ringStatWord _ _).1) fun _ _ =>
      ⟨.of_cores_mem rfl rfl, by simp [State.writeReg, Reg.window, State.writeDieReg, key]⟩,
    .of_shown (fun s => (s.ring c).ovf) (fun _ => (bit_ringStatWord _ _).2) fun _ _ =>
      ⟨.of_cores_mem rfl rfl, by simp [State.writeReg, Reg.window, State.writeDieReg, key]⟩⟩

theorem clearsFlag_pwrDmon (i : Nat) : ClearsFlag (.pwrDmon i) 59 :=
  .of_shown (fun s => (s.dmonOf i).floor) (fun _ => bit_dmonWord_floor _ _) fun _ _ =>
    ⟨.of_cores_mem rfl rfl, by
      simp [State.writeReg, Reg.window, State.writeDieMReg, State.setDmon, State.modPwr, State.dmonOf]⟩

/-- PWR_VMONr: UV and OV. -/
theorem clearsFlag_pwrVmon (i : Nat) : ClearsFlag (.pwrVmon i) 16 ∧ ClearsFlag (.pwrVmon i) 17 :=
  ⟨.of_shown (fun s => (s.vmonOf i).uv) (fun _ => (bit_vmonWord _).1) fun _ _ =>
      ⟨.of_cores_mem rfl rfl, by simp [State.writeReg, Reg.window, State.writeDieMReg, State.modPwr, State.vmonOf]⟩,
    .of_shown (fun s => (s.vmonOf i).ov) (fun _ => (bit_vmonWord _).2) fun _ _ =>
      ⟨.of_cores_mem rfl rfl, by simp [State.writeReg, Reg.window, State.writeDieMReg, State.modPwr, State.vmonOf]⟩⟩

/-! ### Read-only registers -/

/-- A write of `r` changes nothing. -/
def ReadOnly (r : Reg) : Prop := ∀ (s : State) (u : RegUser) (v : W64), s.writeReg u r v = s

/-! ### Luami's writes -/

section
variable {pa : Nat} {r : Reg}

theorem exec_regWrite_luami_addr (pa : Nat) (v : W64) (s : State) :
    exec (.regWrite (.luami pa) v) s = .next (s.regWrite .luami pa v) := rfl

/-- Luami's write at a register's address is its write of the register. -/
theorem exec_regWrite_luami (h : regAt pa = some r) (s : State) (v : W64) :
    exec (.regWrite (.luami pa) v) s = .next (s.writeReg .luami r v) := by
  rw [exec_regWrite_luami_addr, regWrite_of_regAt h]

theorem TakesField.exec {mask : W64} (hf : TakesField r mask) (h : regAt pa = some r) (s : State) (v : W64) :
    ∃ t, Machine.exec (.regWrite (.luami pa) v) s = .next t ∧ Kept s t ∧ t.readReg r = v &&& mask :=
  ⟨_, exec_regWrite_luami h s v, hf s v⟩

theorem ClearsFlag.exec {i : Nat} (hf : ClearsFlag r i) (h : regAt pa = some r) (s : State) (v : W64) :
    ∃ t, Machine.exec (.regWrite (.luami pa) v) s = .next t ∧ Kept s t ∧ bit (t.readReg r) i = (bit (s.readReg r) i && !bit v i) :=
  ⟨_, exec_regWrite_luami h s v, hf s v⟩

theorem ReadOnly.exec (hr : ReadOnly r) (h : regAt pa = some r) (s : State) (v : W64) :
    Machine.exec (.regWrite (.luami pa) v) s = .next s := by
  rw [exec_regWrite_luami h, hr]

theorem exec_regWrite_luami_hole (h : regAt pa = none) (s : State) (v : W64) : exec (.regWrite (.luami pa) v) s = .next s := by
  rw [exec_regWrite_luami_addr, regWrite_of_hole h]

end

end Sys2Proof.Machine
end

section
/-! PROOFS. Registers take writes and clears, and lie where R20 and R22 put them: writes by strands and functions, the clears, the
addresses of the windows. -/

namespace Sys2Proof.Machine

/-! ### Writes by strands (R15, R23, R120) -/

/-- Only the submissions to queues and rings and the clear of records ask who writes. -/
theorem writeReg_user (s : State) (u u' : RegUser) {r : Reg} (v : W64) (hring : ∀ x, r ≠ .synRsub x)
    (hqueue : ∀ x q, r ≠ .puuQsub x q) (hclr : r ≠ .evrClr) : s.writeReg u r v = s.writeReg u' r v := by
  cases r
  case synRsub x => exact absurd rfl (hring x)
  case puuQsub x q => exact absurd rfl (hqueue x q)
  case evrClr => exact absurd rfl hclr
  case evrRec c i => by_cases hi : i = 7 <;> simp [State.writeReg, Reg.window, State.writeDieMReg, hi]
  case grn i => by_cases hi : i = 3 <;> simp [State.writeReg, Reg.window, State.writeDieMReg, hi]
  all_goals rfl

theorem regWrite_user (s : State) (u u' : RegUser) {pa : Nat} (v : W64) (hring : ∀ x, regAt pa ≠ some (.synRsub x))
    (hqueue : ∀ x q, regAt pa ≠ some (.puuQsub x q)) (hclr : regAt pa ≠ some .evrClr) : s.regWrite u pa v = s.regWrite u' pa v := by
  cases hr : regAt pa with
  | none => rw [regWrite_of_hole hr, regWrite_of_hole hr]
  | some r =>
    rw [hr] at hclr
    simp only [hr] at hring hqueue
    rw [regWrite_of_regAt hr, regWrite_of_regAt hr]
    exact writeReg_user s u u' v (fun x h => hring x (congrArg some h)) (fun x q h => hqueue x q (congrArg some h))
      fun h => hclr (congrArg some h)

theorem exec_regWrite_strand (w : Site) (h : Fin 16) (pa : Nat) (v : W64) (s : State) :
    exec (.regWrite (.strand w (h.val : RegField) pa) v) s = .next (s.strandWrite w h.val pa v) := by
  have hh : (BitVec.ofNat 5 h.val).toNat = h.val := by simp; omega
  change Host.Outcome.next (s.strandWrite w (BitVec.ofNat 5 h.val).toNat pa v) = _
  rw [hh]

/-- Strand `w` can access the register at `pa`: it is running and not parked, its pod runs, and the access waits for no parked pod. -/
def CanAccess (s : State) (w : Site) (pa : Nat) : Prop :=
  (s.strand w).running = true ∧ (s.strand w).park = .none ∧ s.podRuns w.core.val = true ∧ s.padWaits pa = false

theorem strandWrite_idle {s : State} {w : Site} {pa : Nat} (h : ¬CanAccess s w pa) (hreg : Nat) (v : W64) :
    s.strandWrite w hreg pa v = s := by
  refine if_pos (Decidable.byContradiction fun hn => h ?_)
  simp only [Bool.or_eq_true, Bool.not_eq_true', decide_eq_true_eq, not_or, Bool.not_eq_false, Bool.not_eq_true, ne_eq,
    Decidable.not_not] at hn
  obtain ⟨⟨⟨hrun, hpark⟩, hpod⟩, hpad⟩ := hn
  exact ⟨hrun, hpark, hpod, hpad⟩

section
variable {s : State} {w : Site} {pa : Nat} (hacc : CanAccess s w pa) (hreg : Nat) (v : W64)
include hacc

theorem strandWrite_misaligned (h : pa % 8 ≠ 0) : s.strandWrite w hreg pa v = s.takeFault w (fltA 0x02 pa hreg 0 true false) := by
  obtain ⟨hrun, hpark, hpod, hpad⟩ := hacc
  simp [State.strandWrite, hrun, hpark, hpod, hpad, h]

theorem strandWrite_refused (h : pa % 8 = 0) {c : Nat} (hf : regHullFault s (s.h w hreg) pa true = some c) :
    s.strandWrite w hreg pa v =
      s.takeFault w (fltA c (if c = 0x0D then hullFailAt (s.h w hreg) pa else pa) hreg 0 true false) := by
  obtain ⟨hrun, hpark, hpod, hpad⟩ := hacc
  simp [State.strandWrite, hrun, hpark, hpod, hpad, h, hf]

theorem strandWrite_granted (h : pa % 8 = 0) (hf : regHullFault s (s.h w hreg) pa true = none) :
    s.strandWrite w hreg pa v = s.regWrite (.strand w.core.val (s.strand w).dom) pa v := by
  obtain ⟨hrun, hpark, hpod, hpad⟩ := hacc
  simp [State.strandWrite, hrun, hpark, hpod, hpad, h, hf]

end

/-! ### Writes by functions (R480, R481) -/

theorem length_leBytes (n x : Nat) : (leBytes n x).length = n := by
  induction n generalizing x with
  | zero => rfl
  | succ n ih => simp [leBytes, ih]

/-- R496: raising an occurrence puts it in its source's collector. -/
theorem raised_raise (s : State) (code : Nat) (src : Src) (value : Nat) (dom : DomNo) (arg : Nat) :
    Raised src.die code value s (s.raise code src value dom arg) := by
  unfold State.raise State.raiseN
  exact ⟨⟨_, tget_tset_same _ _ _ _, rfl, rfl, rfl, rfl, rfl⟩, fun _ h => tget_tset_other _ _ _ h⟩

theorem State.mbx_setMbx (s : State) (m j : Nat) (x : Mbx) : (s.setMbx m x).mbx j = if j = m then x else s.mbx j := tget_tset _ _ _ _ _

theorem exec_regWrite_host (f : Fin 64) (off : BitVec 26) (v : W64) (s : State) :
    exec (.regWrite (.host f off) v) s = .next (s.hostWrite f.val off.toNat v) := rfl

theorem hostWrite_down {s : State} (h : s.hostUp = false) (f off : Nat) (v : W64) : s.hostWrite f off v = s := by
  simp [State.hostWrite, h]

/-- R480: every function's BAR0 holds its mailbox. -/
theorem mailbox_lt_bar0Size (f : Nat) {off : Nat} (h : off < 0x90) : off < bar0Size f := by
  unfold bar0Size
  split <;> omega

/-- R481: in the mailbox, a write that sets no fixed bit is the mailbox's, and any other is event 0x182. -/
theorem hostWrite_mailbox {s : State} (hup : s.hostUp = true) (f : Nat) {off : Nat} (hoff : off < 0x90) (v : W64) :
    s.hostWrite f off v = if bar0Fixed off &&& v = 0 then s.mbxWrite f off v 1 else s.bar0Event f off := by
  have hsize : ¬bar0Size f ≤ off := Nat.not_le.2 (mailbox_lt_bar0Size f hoff)
  simp [State.hostWrite, bar0Harmless, bar0Hole, hup, hoff, hsize]

section
variable {s : State} (hup : s.hostUp = true) (f : Fin 64)
include hup

/-- R472: a write of a command word changes its eight bytes. -/
theorem hostWrite_command {off : Nat} (hoff : off < 0x40) (halign : off % 8 = 0) (v : W64) :
    s.hostWrite f off v = s.setMbx f { s.mbx f with cmd := memPut (s.mbx f).cmd off (leBytes 8 v.toNat) } := by
  have hfixed : bar0Fixed off &&& v = 0 := by simp [bar0Fixed, hoff]
  rw [hostWrite_mailbox hup f (by omega), if_pos hfixed]
  simp [State.mbxWrite, hoff, show off / 8 * 8 = off by omega]

theorem hostWrite_config {v : W64} (h : v &&& 0xFFFFFFFFFFFFFFFE = 0) :
    s.hostWrite f 0x88 v = s.setMbx f { s.mbx f with cfg := v } := by
  have hfixed : bar0Fixed 0x88 &&& v = 0 := by rw [BitVec.and_comm]; exact h
  have hv : v &&& 1 = v :=
    calc v &&& 1 = (v &&& 1) ||| (v &&& 0xFFFFFFFFFFFFFFFE) := by rw [h]; exact BitVec.or_zero.symm
      _ = v &&& (1 ||| 0xFFFFFFFFFFFFFFFE) := BitVec.and_or_distrib_left.symm
      _ = v := BitVec.and_allOnes
  rw [hostWrite_mailbox hup f (by omega), if_pos hfixed]
  simp only [State.mbxWrite, hv]
  rfl

theorem hostWrite_response {off : Nat} (hlo : 0x40 ≤ off) (hhi : off < 0x80) {v : W64} (hv : v ≠ 0) :
    s.hostWrite f off v = s.bar0Event f off := by
  have hfixed : ¬bar0Fixed off &&& v = 0 := by
    rw [bar0Fixed, if_neg (by omega), if_pos hhi, BitVec.allOnes_and]
    exact hv
  rw [hostWrite_mailbox hup f (by omega), if_neg hfixed]

end

/-! ### The clears -/

theorem onlyCore_modCore (s : State) (c : Nat) (f : Core → Core) : OnlyCore c s (s.modCore c f) :=
  ⟨rfl, fun _ h => State.core_modCore_other _ _ h⟩

theorem State.slice_setSlice (s : State) (n j : Nat) (r : SliceRegs) : (s.setSlice n r).slice j = if j = n then r else s.slice j :=
  tget_tset _ _ _ _ _

theorem State.stack_setStack (s : State) (n j : Nat) (r : StackRegs) : (s.setStack n r).stack j = if j = n then r else s.stack j :=
  tget_tset _ _ _ _ _

theorem State.updUnit_setUpdUnit (s : State) (n j : Nat) (u : UpdUnit) :
    (s.setUpdUnit n u).updUnit j = if j = n then u else s.updUnit j := tget_tset _ _ _ _ _

theorem State.switch_setSwitch (s : State) (n j : Nat) (x : Switch) : (s.setSwitch n x).switch j = if j = n then x else s.switch j :=
  tget_tset _ _ _ _ _

theorem State.port_setPort (s : State) (n j : Nat) (p : Port) : (s.setPort n p).port j = if j = n then p else s.port j :=
  tget_tset _ _ _ _ _

theorem State.mon_setMon (s : State) (n j : Nat) (x : BwMon) : (s.setMon n x).mon j = if j = n then x else s.mon j :=
  tget_tset _ _ _ _ _

theorem onlyPort_modPort (s : State) (k : Nat) (f : Port → Port) : OnlyPort k s (s.modPort k f) :=
  ⟨rfl, rfl, fun _ => rfl, fun j h => (State.port_setPort s k j _).trans (if_neg h)⟩

/-- A clear that updates core `c` alone. -/
theorem clears_core {i : Instr} {s : State} {c : Nat} {f : Core → Core} {k : Core} (h : exec i s = .next (s.modCore c f))
    (hk : f (s.core c) = k) : ∃ t, exec i s = .next t ∧ OnlyCore c s t ∧ t.core c = k :=
  ⟨_, h, onlyCore_modCore _ _ _, (State.core_modCore_same _ _ _).trans hk⟩

/-- A clear that updates port `k` alone. -/
theorem clears_port {i : Instr} {s : State} {k : Nat} {f : Port → Port} {p : Port} (h : exec i s = .next (s.modPort k f))
    (hp : f (s.port k) = p) : ∃ t, exec i s = .next t ∧ OnlyPort k s t ∧ t.port k = p :=
  ⟨_, h, onlyPort_modPort _ _ _, (State.port_setPort s k k _).trans ((if_pos rfl).trans hp)⟩

/-- A clear that updates entry `n` of an array of the state, within what `P` allows, alone. -/
theorem clears_entry {α : Type} {i : Instr} {s t : State} {n : Nat} {x : α} {P : State → Prop} (get : State → Nat → α)
    (h : exec i s = .next t) (hP : P t) (hget : ∀ j, get t j = if j = n then x else get s j) :
    ∃ t, exec i s = .next t ∧ P t ∧ get t n = x ∧ ∀ j, j ≠ n → get t j = get s j :=
  ⟨t, h, hP, (hget n).trans (if_pos rfl), fun j hj => (hget j).trans (if_neg hj)⟩

/-- SYN_STAT_CLR zeroes a die's fill and spill counts. -/
theorem clears_synStat (s : State) (d : Fin 4) :
    ∃ t, exec (.synStatClr d) s = .next t ∧ t = { s with sync := { s.sync with fills := t.sync.fills, spills := t.sync.spills } } ∧
      tget 0 t.sync.fills d.val = 0 ∧ tget 0 t.sync.spills d.val = 0 ∧
      ∀ j, j ≠ d.val → tget 0 t.sync.fills j = tget 0 s.sync.fills j ∧ tget 0 t.sync.spills j = tget 0 s.sync.spills j :=
  ⟨_, rfl, rfl, tget_tset_same 0 s.sync.fills d.val 0, tget_tset_same 0 s.sync.spills d.val 0,
    fun _ h => ⟨tget_tset_other 0 s.sync.fills 0 h, tget_tset_other 0 s.sync.spills 0 h⟩⟩

/-- BSTAT_CLR zeroes one bridge's retry count. -/
theorem clears_bstat (s : State) (d : Fin 4) (b : Fin 3) :
    ∃ t, exec (.bstatClr d b) s = .next t ∧ t = { s with link := t.link } ∧ tget 0 (t.switch d.val).bretry b.val = 0 ∧
      (∀ j, j ≠ b.val → tget 0 (t.switch d.val).bretry j = tget 0 (s.switch d.val).bretry j) ∧
      ∀ j, j ≠ d.val → t.switch j = s.switch j := by
  refine ⟨_, rfl, rfl, ?_, fun j h => ?_, fun j h => (State.switch_setSwitch _ _ _ _).trans (if_neg h)⟩ <;>
    rw [State.switch_setSwitch, if_pos rfl]
  · exact tget_tset_same 0 (s.switch d.val).bretry b.val 0
  · exact tget_tset_other 0 (s.switch d.val).bretry 0 h

/-! ### The addresses of the windows (R20, R22) -/

section
variable {c d off : Nat}

theorem regAt_coreWindow (hc : c < 256) (ho : off < 0x10000) (ha : off % 8 = 0) :
    regAt (0x2000000000000 + c * 0x10000 + off) = coreRegAt c off := by
  have hreg : regionOf (0x2000000000000 + c * 0x10000 + off) = .coreReg c off := by
    have hcore : (0x2000000000000 + c * 0x10000 + off - 0x2000000000000) / 0x10000 = c := by omega
    have hoff : (0x2000000000000 + c * 0x10000 + off - 0x2000000000000) % 0x10000 = off := by omega
    simp only [regionOf, Bool.and_eq_true, decide_eq_true_eq]
    rw [if_neg (by omega), if_neg (by omega), if_pos (by omega), hcore, hoff]
  rw [regAt, if_neg (by omega), hreg]

theorem regAt_dieWindow (hd : d < 5) (ho : off < 0x1000000) (ha : off % 8 = 0) :
    regAt (0x2000001000000 + d * 0x1000000 + off) = if d = 4 then dieMRegAt off else dieRegAt d off := by
  have hreg : regionOf (0x2000001000000 + d * 0x1000000 + off) = .dieReg d off := by
    have hdie : (0x2000001000000 + d * 0x1000000 + off - 0x2000001000000) / 0x1000000 = d := by omega
    have hoff : (0x2000001000000 + d * 0x1000000 + off - 0x2000001000000) % 0x1000000 = off := by omega
    simp only [regionOf, Bool.and_eq_true, decide_eq_true_eq]
    rw [if_neg (by omega), if_neg (by omega), if_neg (by omega), if_pos (by omega), hdie, hoff]
  rw [regAt, if_neg (by omega), hreg]

theorem regAt_computeDie (hd : d < 4) (ho : off < 0x1000000) (ha : off % 8 = 0) :
    regAt (0x2000001000000 + d * 0x1000000 + off) = dieRegAt d off := by
  rw [regAt_dieWindow (by omega) ho ha, if_neg (by omega)]

theorem regAt_dieM (ho : off < 0x1000000) (ha : off % 8 = 0) : regAt (0x2000005000000 + off) = dieMRegAt off := by
  rw [show 0x2000005000000 + off = 0x2000001000000 + 4 * 0x1000000 + off by omega, regAt_dieWindow (by decide) ho ha, if_pos rfl]

/-- R22: where each unit's registers lie in the window of core `c`. -/
theorem coreWindow_registers (hc : c < 256) :
    let b := 0x2000000000000 + c * 0x10000
    regAt b = some (.flt c 0) ∧ regAt (b + 0x1000) = some (.tileEcc c) ∧ regAt (b + 0x2018) = some (.matStat c 3) ∧
    regAt (b + 0x3100) = some (.accSeed c) ∧ regAt (b + 0x4010) = some (.strThr c) ∧ regAt (b + 0x5028) = some (.cpyErr c) ∧
    regAt (b + 0x6000) = some (.l1Ecc c) ∧ regAt (b + 0x7080) = some (.pmcSel c 0) := by
  intro b
  have at_ (off : Nat) (ho : off < 0x10000) (ha : off % 8 = 0) : regAt (b + off) = coreRegAt c off := regAt_coreWindow hc ho ha
  have hbase := at_ 0 (by decide) rfl
  rw [Nat.add_zero] at hbase
  exact ⟨hbase, at_ 0x1000 (by decide) rfl, at_ 0x2018 (by decide) rfl, at_ 0x3100 (by decide) rfl, at_ 0x4010 (by decide) rfl,
    at_ 0x5028 (by decide) rfl, at_ 0x6000 (by decide) rfl, at_ 0x7080 (by decide) rfl⟩

/-- R22: where each unit's registers lie in the window of compute die `d`. -/
theorem computeDie_registers (hd : d < 4) :
    let b := 0x2000001000000 + d * 0x1000000
    regAt b = some (.llcCfg (32 * d)) ∧ regAt (b + 0x80008) = some (.mcEcc (4 * d)) ∧ regAt (b + 0x108008) = some (.puuQstat (4 * d) 0) ∧
    regAt (b + 0x200008) = some (.plkPstat (9 * d)) ∧ regAt (b + 0x310000) = some (.synRsub (1024 * d)) ∧
    regAt (b + 0x400000) = some (.cpyEstat d 0) ∧ regAt (b + 0x500608) = some (.pmcBwwin d) := by
  intro b
  have at_ (off : Nat) (ho : off < 0x1000000) (ha : off % 8 = 0) : regAt (b + off) = dieRegAt d off := regAt_computeDie hd ho ha
  have hbase := at_ 0 (by decide) rfl
  rw [Nat.add_zero] at hbase
  exact ⟨hbase, at_ 0x80008 (by decide) rfl, at_ 0x108008 (by decide) rfl, at_ 0x200008 (by decide) rfl, at_ 0x310000 (by decide) rfl,
    at_ 0x400000 (by decide) rfl, at_ 0x500608 (by decide) rfl⟩

/-- R22: where each unit's registers lie in the window of die M. -/
theorem dieM_registers :
    let b := 0x2000005000000;
    regAt b = some (.mbx 0 0) ∧ regAt (b + 0x100000) = some .pwrCap ∧ regAt (b + 0x200008) = some .evrClr ∧
    regAt (b + 0x300018) = some (.grn 3) ∧ regAt (b + 0x400000) = some .bootStat ∧ regAt (b + 0x480000) = some .lcState ∧
    regAt (b + 0x500000) = some (.sch 0 0) ∧ regAt (b + 0x600000) = some (.lmon 0 0) ∧ regAt (b + 0x700000) = some .spBase ∧
    regAt (b + 0x910000) = some .hulSweep := by
  intro b
  have at_ (off : Nat) (ho : off < 0x1000000) (ha : off % 8 = 0) : regAt (b + off) = dieMRegAt off := regAt_dieM ho ha
  have hbase := at_ 0 (by decide) rfl
  rw [Nat.add_zero] at hbase
  exact ⟨hbase, at_ 0x100000 (by decide) rfl, at_ 0x200008 (by decide) rfl, at_ 0x300018 (by decide) rfl, at_ 0x400000 (by decide) rfl,
    at_ 0x480000 (by decide) rfl, at_ 0x500000 (by decide) rfl, at_ 0x600000 (by decide) rfl, at_ 0x700000 (by decide) rfl,
    at_ 0x910000 (by decide) rfl⟩

end

/-! ### The statement -/

/-- Settles O57: Luami's writes register by register, a strand's under a hull, a function's in its mailbox; the clears, each an
update of one entry; and the windows' addresses, each an offset in the window's own map. -/
theorem registersLieInTheirWindowsAndTakeWrites : Obligations.RegistersLieInTheirWindowsAndTakeWrites := by
  unfold Obligations.RegistersLieInTheirWindowsAndTakeWrites
  refine ⟨fun s => ⟨?_, ?_, ?_, ?_, ?_, ?_, ?_, ?_, ?_, ?_⟩, ?_, ?_, ?_⟩
  · intro pa c a n d q v _ rws flags ros
    refine ⟨fun e he h => ?_, fun e he h => ?_, fun r hr h => ?_, fun h => exec_regWrite_luami_hole h s v⟩
    · have hrw : ∀ e ∈ rws, TakesField e.1 e.2 := by
        simp only [rws, List.forall_mem_cons]
        obtain ⟨hsch0, hsch1, hsch2, hsch3, hsch5⟩ := takesField_sch n
        exact ⟨takesField_flt c (by decide), takesField_flt c (by decide), takesField_flt c (by decide), takesField_flt c (by decide),
          takesField_flt c (by decide), takesField_accSeed c, takesField_pmcCnt c n, takesField_pmcReload c n, takesField_puuStage n q,
          takesField_pmcDcnt a n, takesField_pwrCap, takesField_pmcTrig, hsch0, hsch1, hsch2, hsch3, hsch5, takesField_lmonCfg n,
          takesField_spBase, nofun⟩
      exact (hrw e he).exec h s v
    · have hw1c : ∀ e ∈ flags, ClearsFlag e.1 e.2 := by
        simp only [flags, List.forall_mem_cons]
        obtain ⟨htile, hacc, hstr, hspecc⟩ := clearsFlag_coreEcc c
        exact ⟨htile, clearsFlag_matStat c a, hacc, hstr, hspecc, clearsFlag_cpyChan c a, clearsFlag_cpyDe c, clearsFlag_cpyErr c,
          clearsFlag_llcEcc n, clearsFlag_mcEcc n, (clearsFlag_puuQstat n q).1, (clearsFlag_puuQstat n q).2, clearsFlag_plkPstat n,
          clearsFlag_synRerr n, (clearsFlag_synRstat n).1, (clearsFlag_synRstat n).2, clearsFlag_pwrDmon n, (clearsFlag_pwrVmon n).1,
          (clearsFlag_pwrVmon n).2, nofun⟩
      exact (hw1c e he).exec h s v
    · have hro : ∀ r ∈ ros, ReadOnly r := by
        simp only [ros, List.forall_mem_cons]
        repeat refine ⟨fun _ _ _ => rfl, ?_⟩
        exact nofun
      exact (hro r hr).exec h s v
  · intro w h pa v i u acts faults
    have hi : exec i s = .next (s.strandWrite w h.val pa v) := exec_regWrite_strand w h pa v s
    refine ⟨fun (hacts : CanAccess s w pa) ha => ⟨fun hf hring hqueue hclr => ?_, fun c hf => ?_⟩,
      fun (hacts : CanAccess s w pa) ha => ?_, fun (hacts : ¬CanAccess s w pa) => ?_⟩
    · rw [hi, exec_regWrite_luami_addr, strandWrite_granted hacts _ v ha hf, regWrite_user s _ _ v hring hqueue hclr]
    · exact hi.trans (by rw [strandWrite_refused hacts _ v ha hf])
    · exact hi.trans (by rw [strandWrite_misaligned hacts _ v ha])
    · rw [hi, strandWrite_idle hacts]
  · intro f off v
    rw [exec_regWrite_host]
    refine ⟨fun hup hlo ha => ?_, fun hup hoff hv => ?_, fun hup hlo hhi hv => ?_, fun hup => ?_⟩
    · rw [hostWrite_command hup f hlo ha]
      refine ⟨_, rfl, rfl, fun i hi => ?_, fun i hi => ?_⟩
      · rw [State.mbx_setMbx, if_pos rfl]
        exact (tget_memPut _ _ _ _).trans (by rw [if_pos (by rw [length_leBytes]; omega), Nat.add_sub_cancel_left])
      · rw [State.mbx_setMbx, if_pos rfl]
        exact (tget_memPut _ _ _ _).trans (if_neg (by rw [length_leBytes]; omega))
    · subst hoff
      exact ⟨_, congrArg Host.Outcome.next (hostWrite_config hup f hv), rfl, by rw [State.mbx_setMbx, if_pos rfl]⟩
    · rw [hostWrite_response hup f hlo hhi hv]
      exact ⟨_, rfl, rfl, raised_raise _ _ _ _ _ _⟩
    · rw [hostWrite_down hup]
  · intro c k only
    exact ⟨clears_core rfl rfl, clears_core rfl rfl, clears_core rfl rfl, clears_core rfl rfl, clears_core rfl rfl, clears_core rfl rfl,
      clears_core rfl rfl, clears_core rfl rfl⟩
  · intro n
    exact ⟨clears_entry State.slice rfl rfl fun _ => State.slice_setSlice _ _ _ _,
      clears_entry State.slice rfl rfl fun _ => State.slice_setSlice _ _ _ _⟩
  · intro x
    exact ⟨clears_entry State.stack rfl rfl fun _ => State.stack_setStack _ _ _ _,
      clears_entry State.stack rfl rfl fun _ => State.stack_setStack _ _ _ _,
      clears_entry State.updUnit rfl rfl fun _ => State.updUnit_setUpdUnit _ _ _ _⟩
  · exact fun d => ⟨clears_synStat s d, clears_bstat s d⟩
  · intro k
    exact ⟨clears_port rfl rfl, clears_port rfl rfl⟩
  · exact ⟨_, rfl, rfl⟩
  · intro m
    exact ⟨_, rfl, rfl, fun j h => (State.mon_setMon _ _ _ _).trans (if_neg h), (State.mon_setMon _ _ _ _).trans (if_pos rfl)⟩
  · exact fun c hc => coreWindow_registers hc
  · exact fun d hd => computeDie_registers hd
  · exact dieM_registers

end Sys2Proof.Machine
end

section
/-! PROOFS. Where a command stops (R20, R330, R345): a home slice finds nothing at an address outside HBM, and no other command stops. -/

namespace Sys2Proof.Machine

/-- R330: an access of a home slice stops outside HBM, and answers a next state inside. -/
theorem exec_llcAccess_stops (s : State) (r : LlcReq) :
    (∃ t, exec (.llcAccess r) s = .next t) ∨ (exec (.llcAccess r) s = .fault .addressHole ∧ isHbm r.addr = false) := by
  cases h : isHbm r.addr with
  | false => exact .inr ⟨by simp [exec, execLlcAccess, h], rfl⟩
  | true => exact .inl ⟨_, by simp only [exec, execLlcAccess, h]; rfl⟩

/-- R345: a reduction at a home slice stops outside HBM, and answers a next state inside. -/
theorem exec_reductionRequest_stops (s : State) (a : Nat) (op : RedOp) (d : List Byte) (m : Bool) (e : ErrMap) :
    (∃ t, exec (.reductionRequest a op d m e) s = .next t) ∨
      (exec (.reductionRequest a op d m e) s = .fault .addressHole ∧ isHbm a = false) := by
  cases h : isHbm a with
  | false => exact .inr ⟨by simp [exec, execReductionRequest, h], rfl⟩
  | true => exact .inl ⟨_, by simp only [exec, execReductionRequest, h]; rfl⟩

/-- Settles O2: every arm of `exec` is a next state as it stands, but for the two commands that a home slice answers at an address. -/
theorem commandsStopOnlyAtAddressHoles : Obligations.CommandsStopOnlyAtAddressHoles := by
  intro c s
  cases c
  case llcAccess r => exact (exec_llcAccess_stops s r).imp_right fun ⟨he, hh⟩ => ⟨he, .inl ⟨r, rfl, hh⟩⟩
  case reductionRequest a op d m e =>
    exact (exec_reductionRequest_stops s a op d m e).imp_right fun ⟨he, hh⟩ => ⟨he, .inr ⟨a, op, d, m, e, rfl, hh⟩⟩
  all_goals exact .inl ⟨_, rfl⟩

end Sys2Proof.Machine
end

section
/-! PROOFS. Results with memory in its canonical form (R20, R302, R330): what a command, an instruction's own effect, a row of a
transfer or a state that may not be there comes to. After this, for each function of the model that answers one of these, in the order
of the definitions, stands the rule that it keeps the form: `MemOk.f`, `ResOk.f`, `OutOk.f`, `RowOk.f` or `OptOk.f`, by what `f` answers. -/

namespace Sys2Proof.Machine

/-- What an instruction's own effect comes to has memory in its canonical form. -/
def ResOk : Res → Prop
  | .done s | .jump s _ | .fault s _ | .hold s => MemOk s
  | .wait _ | .issued _ _ _ => True

/-- What a command comes to has memory in its canonical form. -/
def OutOk : Out → Prop
  | .next s => MemOk s
  | .fault _ | .refused _ => True

/-- What a row of a tile transfer comes to has memory in its canonical form. -/
def RowOk : RowRes → Prop
  | .ok s | .wait s => MemOk s
  | .fault _ => True

/-- A state that may not be there has memory in its canonical form. -/
def OptOk (o : Option State) : Prop := ∀ t, o = some t → MemOk t

theorem ResOk.ite {p : Prop} [Decidable p] {a b : Res} (ha : ResOk a) (hb : ResOk b) : ResOk (if p then a else b) := by
  split <;> assumption

theorem OutOk.ite {p : Prop} [Decidable p] {a b : Out} (ha : OutOk a) (hb : OutOk b) : OutOk (if p then a else b) := by
  split <;> assumption

theorem RowOk.ite {p : Prop} [Decidable p] {a b : RowRes} (ha : RowOk a) (hb : RowOk b) : RowOk (if p then a else b) := by
  split <;> assumption

theorem OptOk.none : OptOk none := fun _ h => absurd h.symm (Option.some_ne_none _)

theorem OptOk.some {s : State} (hs : MemOk s) : OptOk (some s) := by rintro _ ⟨⟩; exact hs

/-- The state that stands for one that is not there has its memory in canonical form too. -/
theorem MemOk.getD {o : Option State} {s : State} (ho : OptOk o) (hs : MemOk s) : MemOk (o.getD s) := by
  cases o with
  | none => exact hs
  | some t => exact ho t rfl

/-- A fold over a state and what goes with it keeps the canonical form when each of its steps does. -/
theorem MemOk.foldl_fst {α β : Type} {f : State × α → β → State × α} {l : List β} {r : State × α}
    (hf : ∀ r b, MemOk r.1 → MemOk (f r b).1) (hr : MemOk r.1) : MemOk (l.foldl f r).1 :=
  foldl_keeps (P := fun r : State × α => MemOk r.1) hf l r hr

/-- A state's memory is in canonical form when both its views are, whatever else the state holds. -/
theorem MemOk.of_mem {moduleId time cores doms sweep mem hbm llc slices hbmStacks banks hbmWait sliceIn diePools sync link upd mgmt evr pmc
    revokeQ alert check freeCtr pending} (hm : Memory.wf mem = true) (hh : Memory.wf hbm = true) :
    MemOk ⟨moduleId, time, cores, doms, sweep, mem, hbm, llc, slices, hbmStacks, banks, hbmWait, sliceIn, diePools, sync, link, upd, mgmt,
      evr, pmc, revokeQ, alert, check, freeCtr, pending⟩ := ⟨hm, hh⟩

/-- A state that takes its memory from another. -/
theorem MemOk.update {s : State} {moduleId time cores doms sweep llc slices hbmStacks banks hbmWait sliceIn diePools sync link upd mgmt evr
    pmc revokeQ alert check freeCtr pending} (hs : MemOk s) :
    MemOk ⟨moduleId, time, cores, doms, sweep, s.mem, s.hbm, llc, slices, hbmStacks, banks, hbmWait, sliceIn, diePools, sync, link, upd,
      mgmt, evr, pmc, revokeQ, alert, check, freeCtr, pending⟩ := .of_mem hs.1 hs.2

/-- A state with what goes with it, where they are there. -/
theorem memOk_of_some_eq {α : Type} {t : State} {x : α} {r : State × α} (ht : MemOk t) : some (t, x) = some r → MemOk r.1 :=
  fun h => Option.some.inj h ▸ ht

theorem MemOk.pair {α : Type} {t : State} {x : α} (ht : MemOk t) : MemOk (t, x).1 := ht

end Sys2Proof.Machine
end

section
/-! PROOFS. Memory stays canonical: strands, counters, the home slices and their locks (R20, R302, R330, R344). -/

namespace Sys2Proof.Machine

variable {s : State}

@[simp] theorem MemOk.setStrand {w : Site} {t : Strand} : MemOk (s.setStrand w t) ↔ MemOk s := Iff.rfl

@[simp] theorem MemOk.modStrand {w : Site} {f : Strand → Strand} : MemOk (s.modStrand w f) ↔ MemOk s := Iff.rfl

@[simp] theorem MemOk.modBank {w : Site} {f : Bank → Bank} : MemOk (s.modBank w f) ↔ MemOk s := Iff.rfl

@[simp] theorem MemOk.setG {w : Site} {r : RegField} {x : W64} : MemOk (s.setG w r x) ↔ MemOk s := Iff.rfl

@[simp] theorem MemOk.setV {w : Site} {r : RegField} {x : W128} : MemOk (s.setV w r x) ↔ MemOk s := Iff.rfl

@[simp] theorem MemOk.setH {w : Site} {r : Nat} {x : W128} : MemOk (s.setH w r x) ↔ MemOk s := Iff.rfl

@[simp] theorem MemOk.setPc {w : Site} {pc : VAddr} : MemOk (s.setPc w pc) ↔ MemOk s := Iff.rfl

@[simp] theorem MemOk.park {w : Site} {p : Park} : MemOk (s.park w p) ↔ MemOk s := Iff.rfl

@[simp] theorem MemOk.retire {w : Site} : MemOk (s.retire w) ↔ MemOk s := Iff.rfl

@[simp] theorem MemOk.modDom {d : DomNo} {f : Domain → Domain} : MemOk (s.modDom d f) ↔ MemOk s := Iff.rfl

theorem MemOk.pendAll {cs : List Nat} {vec : Nat} (hs : MemOk s) : MemOk (s.pendAll cs vec) := .foldl (fun _ _ hs => .pendVec.2 hs) _ hs

theorem MemOk.count {c ev st weight : Nat} (hs : MemOk s) : MemOk (s.count c ev st weight) := .ite hs (.modCore.2 hs)

@[simp] theorem MemOk.bwAdd {d m dir bytes : Nat} : MemOk (s.bwAdd d m dir bytes) ↔ MemOk s := Iff.rfl

theorem MemOk.bridge {a b bytes : Nat} (hs : MemOk s) : MemOk (s.bridge a b bytes) := .ite hs (.countDie _ _ _ _ (.bwAdd.2 (.bwAdd.2 hs)))

theorem MemOk.acceptReqs {sl : Nat} (hs : MemOk s) : MemOk (s.acceptReqs sl) :=
  .foldl (fun _ _ hs => .ite (.hbmOffer _ (.update hs)) hs) _ hs

/-- A read under what its check codes find keeps the canonical form when the read does. -/
theorem MemOk.reading {e : ErrMap} {f : State → State × List Byte} (hs : MemOk s)
    (hf : ∀ u, MemOk u → MemOk (f u).1) : MemOk (s.reading e f).1 :=
  hf { s with check := e } hs

theorem MemOk.scratchRead {pa n : Nat} (hs : MemOk s) : MemOk (s.scratchRead pa n).1 := .foldl (fun _ _ hs => .scratchErr _ _ hs) _ hs

theorem MemOk.readMem {pa n : Nat} (hs : MemOk s) : MemOk (s.readMem pa n).1 := .homeRead _ _ _ _ _ hs

theorem MemOk.piecesRead {l : List (Nat × Nat × W64)} {hint : Nat} {pin : Bool} (hs : MemOk s) :
    MemOk (s.piecesRead l hint pin).1 := .foldl_fst (fun _ _ hr => .homeRead _ _ _ _ _ hr) hs

theorem MemOk.piecesWrite {l : List (Nat × Nat × W64)} {b : List Byte} {hint : Nat} {pin : Bool} (hs : MemOk s) :
    MemOk (s.piecesWrite l b hint pin) := by
  induction l generalizing s b with
  | nil => exact hs
  | cons p l ih => exact ih (.homeWrite _ _ _ _ _ hs)

theorem OutOk.execLlcAccess {r : LlcReq} (hs : MemOk s) : OutOk (execLlcAccess r s) := by
  unfold Machine.execLlcAccess
  refine .ite trivial (MemOk.finding _ (fun _ hs => ?_) hs)
  split
  · exact .homeRead _ _ _ _ _ hs
  · exact .homeWriteLine _ _ _ _ _ hs

theorem MemOk.releaseSet {key : Nat} (hs : MemOk s) : MemOk (s.releaseSet key) := .foldl (fun _ _ hs => .unlockSlot _ _ hs) _ hs

theorem MemOk.freeTracker {sl : Nat} (hs : MemOk s) : MemOk (s.freeTracker sl) := by
  unfold State.freeTracker
  split
  · split
    · exact .unlockSlot _ _ hs
    · exact hs
  · exact hs

theorem MemOk.ensureLine {line : Nat} (hs : MemOk s) : MemOk (s.ensureLine line) :=
  .ite hs (.ite hs (.fillCheck _ (.place _ _ _ _ (.hbmEnqueue _ _ (.countDie _ _ _ _ hs)))))

theorem MemOk.combineLine {addr : Nat} {op : RedOp} {data : List Byte} {more : Bool} (hs : MemOk s) :
    MemOk (s.combineLine addr op data more) := by
  unfold State.combineLine
  extract_lets key line t x
  have ht : MemOk t := .slotCheck _ hs
  split
  · exact ht
  · extract_lets sl st new t1 t3
    have h1 : MemOk t1 := ⟨memPut_wf _ _ ht.1, ht.2⟩
    have h3 : MemOk t3 := .splitSlot _ _ (.setLlc.2 h1)
    exact .ite (.unlockSlot _ _ ht) (.ite h3 (.unlockSlot _ _ h3))

theorem MemOk.reduceAt {addr : Nat} {op : RedOp} {data : List Byte} {more : Bool} (hs : MemOk s) :
    MemOk (s.reduceAt addr op data more) := by
  unfold State.reduceAt
  extract_lets _ _ s1 _ s2 s3
  have h1 : MemOk s1 := .countDie _ _ _ _ hs
  have h2 : MemOk s2 := .ite h1 (.ite (.freeTracker h1) (.ite (.releaseSet h1) h1))
  have h3 : MemOk s3 := .ensureLine h2
  exact .ite hs (.combineLine (.ite h3 (.releaseSet h3)))

theorem MemOk.reduceRange {fuel : Nat} {addr : Nat} {op : RedOp} {b : List Byte} (hs : MemOk s) :
    MemOk (State.reduceRange fuel s addr op b) := by
  induction fuel generalizing s addr b with
  | zero => exact hs
  | succ fuel ih => exact .ite hs (ih (.reduceAt hs))

theorem OutOk.execLockedFillResume {slice : Fin 128} {set : Fin 2048} (hs : MemOk s) : OutOk (execLockedFillResume slice set s) := by
  change MemOk _
  extract_lets
  split
  · exact .unlockSlot _ _ hs
  · refine .ite hs ?_
    split
    · exact .resumeFill _ _ (.setLlc.2 hs)
    · exact hs

theorem MemOk.bankRefill {k : Nat} (hs : MemOk s) : MemOk (s.bankRefill k) := .foldl (fun _ _ hs => .acceptReqs hs) _ (.update hs)

theorem MemOk.hbmNote {q : BankId} {row : Nat} {e : MemErr} (hs : MemOk s) : MemOk (s.hbmNote q row e) := by
  unfold State.hbmNote
  split
  · exact .raise.2 (.setStack.2 hs)
  · exact .raise.2 (.setStack.2 hs)
  · exact .raise.2 (.setStack.2 hs)
  · exact hs

theorem MemOk.hbmErr {q : BankId} {row line : Nat} {e : MemErr} (hs : MemOk s) : MemOk (s.hbmErr q row line e) := by
  unfold State.hbmErr
  extract_lets t
  have ht : MemOk t := .hbmNote hs
  exact .ite ht (.ite (.poisonLine _ ht) (.dropLine _ ht))

theorem OutOk.execHbmIssue {q : BankId} (hs : MemOk s) : OutOk (execHbmIssue q s) := by
  change MemOk _
  extract_lets _ t
  have ht : MemOk t := .bankRefill hs
  refine MemOk.ite hs ?_
  split
  · exact ht
  · exact .foldl (fun _ _ hs => .hbmNote hs) _ (.bwAdd.2 (.countDie _ _ _ _ (.bankRefill (.update ht))))

theorem OutOk.execPatrolScrub {stack : Fin 16} {unit : Nat} {e : MemErr} (hs : MemOk s) : OutOk (execPatrolScrub stack unit e s) := by
  change MemOk _
  extract_lets _ _ _ _ s1 s2 s3
  have h1 : MemOk s1 := .bwAdd.2 (.countDie _ _ _ _ hs)
  have h2 : MemOk s2 := .ite (.ensureLine h1) h1
  have h3 : MemOk s3 := .ite (.bwAdd.2 (.countDie _ _ _ _ h2)) h2
  exact MemOk.ite hs (.setStack.2 (.hbmErr h3))

end Sys2Proof.Machine
end

section
/-! PROOFS. Memory stays canonical: mailboxes, sync objects, the granary's store and the link's queues. -/

namespace Sys2Proof.Machine

variable {s : State}

@[simp] theorem MemOk.setMbx {m : Nat} {x : Mbx} : MemOk (s.setMbx m x) ↔ MemOk s := Iff.rfl

@[simp] theorem MemOk.setFunc {f : Nat} {x : Func} : MemOk (s.setFunc f x) ↔ MemOk s := Iff.rfl

@[simp] theorem MemOk.modPwr {f : Pwr → Pwr} : MemOk (s.modPwr f) ↔ MemOk s := Iff.rfl

@[simp] theorem MemOk.modBoot {f : Boot → Boot} : MemOk (s.modBoot f) ↔ MemOk s := Iff.rfl

@[simp] theorem MemOk.modGrn {f : Granary → Granary} : MemOk (s.modGrn f) ↔ MemOk s := Iff.rfl

@[simp] theorem MemOk.setPod {p : Nat} {x : PodReg} : MemOk (s.setPod p x) ↔ MemOk s := Iff.rfl

theorem MemOk.msix {f v : Nat} (hs : MemOk s) : MemOk (s.msix f v) := .ite (.ite hs (.setFunc.2 hs)) (.modMgmt.2 hs)

theorem MemOk.domainMsix {d : DomNo} {v : Nat} (hs : MemOk s) : MemOk (s.domainMsix d v) :=
  .ite hs (.foldl (fun _ _ hs => .ite (.msix hs) hs) _ hs)

theorem MemOk.irqObject {d : DomNo} {obj : Nat} (hs : MemOk s) : MemOk (s.irqObject d obj) :=
  .foldl (fun _ _ hs => .ite (.foldl (fun _ _ hs => .ite (.msix hs) hs) _ hs) hs) _ hs

theorem MemOk.setAlert (hs : MemOk s) : MemOk s.setAlert := .ite (.msix (.update hs)) (.update hs)

theorem MemOk.alertCause {i : Nat} {stands : Bool} (hs : MemOk s) : MemOk (s.alertCause i stands) := .setAlert (.modPwr.2 hs)

theorem MemOk.alertGone {i : Nat} (hs : MemOk s) : MemOk (s.alertGone i) := .setAlert (.modPwr.2 hs)

theorem MemOk.alertAck {mask : W32} (hs : MemOk s) : MemOk (s.alertAck mask) := .setAlert (.modPwr.2 hs)

@[simp] theorem MemOk.aosWrite {code value : Nat} {det : W64} : MemOk (s.aosWrite code value det) ↔ MemOk s := Iff.rfl

@[simp] theorem MemOk.raiseAos {code : Nat} {src : Src} {value arg : Nat} : MemOk (s.raiseAos code src value arg) ↔ MemOk s := Iff.rfl

theorem MemOk.fresh (hs : MemOk s) : MemOk s.fresh.1 := .update hs

@[simp] theorem MemOk.setObj {d : DomNo} {obj : Nat} {x : W64} : MemOk (s.setObj d obj x) ↔ MemOk s := Iff.rfl

theorem MemOk.objFetch {d : DomNo} {obj : Nat} (hs : MemOk s) : MemOk (s.objFetch d obj) := by
  unfold State.objFetch
  extract_lets _ _ _ _ _ _ t
  have ht : MemOk t := .countDie _ _ _ _ (.raise.2 (.update hs))
  refine .ite hs (.ite (.update ht) ?_)
  split
  · exact ht
  · exact .countDie _ _ _ _ (.raise.2 (.update ht))

theorem MemOk.requestCapture {mode : Nat} {mbx : Option Nat} (hs : MemOk s) : MemOk (s.requestCapture mode mbx) := by
  unfold State.requestCapture
  split <;> exact .update hs

theorem MemOk.objTrigger {d : DomNo} {obj : Nat} {before after : W64} (hs : MemOk s) : MemOk (s.objTrigger d obj before after) :=
  .ite (.requestCapture hs) hs

theorem MemOk.ringBell {d : DomNo} {x : W64} {op : ObjOp} (hs : MemOk s) : MemOk (s.ringBell d x op) := by
  unfold State.ringBell
  split
  · exact .ite (.pendVec.2 hs) hs
  · exact hs

theorem MemOk.objIrq {d : DomNo} {obj : Nat} {op : ObjOp} {before after : W64} (hs : MemOk s) : MemOk (s.objIrq d obj op before after) := by
  unfold State.objIrq
  split
  · exact hs
  · exact hs
  · exact .ite hs (.irqObject hs)

theorem MemOk.objPerform {d : DomNo} {obj : Nat} {op : ObjOp} {x' : W64} {status : Nat} (hs : MemOk s) :
    MemOk (s.objPerform d obj op x' status) := by
  unfold State.objPerform
  extract_lets _ _ _ t
  have ht : MemOk t := .countDie _ _ _ _ (.objFetch hs)
  split
  · exact .objIrq (.objTrigger (.setObj.2 (.update ht)))
  · exact .objIrq (.objTrigger (.ringBell (.setObj.2 (.update (.countDie _ _ _ _ ht)))))

theorem MemOk.objSignal {d : DomNo} {obj : Nat} {op : ObjOp} {status : Nat} (hs : MemOk s) : MemOk (s.objSignal d obj op status) := by
  unfold State.objSignal
  refine .ite (.raise.2 hs) ?_
  split
  · exact .raise.2 hs
  · extract_lets t
    have ht : MemOk t := .objPerform hs
    split
    · exact .ite ht (.irqObject ht)
    · exact ht

theorem MemOk.signal {g : Signal} {status : Nat} (hs : MemOk s) : MemOk (s.signal g status) := by
  unfold State.signal
  split
  · exact .objSignal hs
  · exact .objSignal hs
  · exact hs

@[simp] theorem MemOk.addWaiter {w : Waiter} : MemOk (s.addWaiter w) ↔ MemOk s := Iff.rfl

@[simp] theorem MemOk.dropWaiter {p : WaitParty} : MemOk (s.dropWaiter p) ↔ MemOk s := Iff.rfl

theorem MemOk.resetNamespace {d : DomNo} (hs : MemOk s) : MemOk (s.resetNamespace d) := by
  unfold State.resetNamespace
  extract_lets _ _ _ _ _ t
  have ht : MemOk t := .update hs
  exact .ite (.objTrigger ht) ht

theorem MemOk.mbxNotify {m : Nat} (hs : MemOk s) : MemOk (s.mbxNotify m) := by
  unfold State.mbxNotify
  extract_lets _ _ t
  have ht : MemOk t := .ite (.pendVec.2 hs) hs
  exact .ite (.ite (.msix hs) hs) (.ite (.objSignal ht) ht)

theorem MemOk.respond {m : Nat} {st : Sts} {detail : Nat} {res : List ResField} (hs : MemOk s) : MemOk (s.respond m st detail res) := by
  unfold State.respond
  extract_lets _ _ t
  have ht : MemOk t := .setMbx.2 hs
  exact .ite (.setMbx.2 hs) (.mbxNotify (.countDie _ _ _ _ (.ite ht (.raise.2 ht))))

theorem MemOk.respondOk {m : Nat} (hs : MemOk s) : MemOk (s.respondOk m) := .respond hs

/-- A command at a mailbox keeps the canonical form when its own effect does. -/
theorem MemOk.serve {m op : Nat} {used : List (Nat × Nat)} {a : Auth} {body : State → DomNo → State} (hs : MemOk s)
    (hb : ∀ t d, MemOk t → MemOk (body t d)) : MemOk (s.serve m op used a body) := by
  unfold State.serve
  extract_lets x t run
  have ht : MemOk t := .modMgmt.2 hs
  have hrun : MemOk run := by
    refine .finding _ (fun _ hu => .ite (.respond hu) ?_) ht
    split
    · exact .respond hu
    · exact hb _ _ hu
  refine .ite hs (.ite (.respond hs) (.ite hs ?_))
  split
  · exact hrun
  · exact .ite hrun (.respond ht)

@[simp] theorem MemOk.holdCmd {m : Nat} {arg : List Nat} : MemOk (s.holdCmd m arg) ↔ MemOk s := Iff.rfl

@[simp] theorem MemOk.acceptTick {m : Nat} : MemOk (s.acceptTick m) ↔ MemOk s := Iff.rfl

@[simp] theorem MemOk.acceptStaged {m : Nat} {x : Staged} : MemOk (s.acceptStaged m x) ↔ MemOk s := Iff.rfl

theorem MemOk.respondWaiting {op : Nat} {st : Sts} {res : List ResField} (hs : MemOk s) : MemOk (s.respondWaiting op st res) :=
  .foldl (fun _ _ hs => .ite (.respond hs) hs) _ hs

theorem MemOk.doorbell {m : Nat} (hs : MemOk s) : MemOk (s.doorbell m) := by
  unfold State.doorbell
  extract_lets _ _ t
  have ht : MemOk t := .setMbx.2 hs
  exact .ite hs (.ite (.raise.2 (.setMbx.2 hs)) (.ite ht (.respond ht)))

theorem MemOk.abortMbx {m : Nat} (hs : MemOk s) : MemOk (s.abortMbx m) := .ite (.respond hs) hs

theorem MemOk.putHull {pa : Nat} {h : W128} (hs : MemOk s) : MemOk (s.putHull pa h) := .writeMem _ _ hs

@[simp] theorem MemOk.addRight {d : DomNo} {h : W128} : MemOk (s.addRight d h) ↔ MemOk s := Iff.rfl

@[simp] theorem MemOk.setGrnObj {o : Nat} {x : GrnObj} : MemOk (s.setGrnObj o x) ↔ MemOk s := Iff.rfl

theorem MemOk.wear {n : Nat} (hs : MemOk s) : MemOk (s.wear n) := by
  unfold State.wear
  extract_lets _ t
  have ht : MemOk t := .modGrn.2 hs
  exact .ite (.raise.2 ht) ht

@[simp] theorem MemOk.setXfer {x : GrnXfer} : MemOk (s.setXfer x) ↔ MemOk s := Iff.rfl

theorem MemOk.flashLost {o ch u : Nat} (hs : MemOk s) : MemOk (s.flashLost o ch u) := by
  unfold State.flashLost
  extract_lets _ t
  have ht : MemOk t := .raise.2 (.modGrn.2 hs)
  exact .ite (.setGrnObj.2 ht) ht

theorem MemOk.openWrite {o off : Nat} {b : List Byte} (hs : MemOk s) : MemOk (s.openWrite o off b) := .wear (.setGrnObj.2 hs)

theorem MemOk.xferPage {x : GrnXfer} {env : GrnEnv} (hs : MemOk s) : MemOk (s.xferPage x env) := by
  unfold State.xferPage
  extract_lets _ s1
  have h1 : MemOk s1 := .setXfer.2 hs
  split
  · exact .setXfer.2 hs
  · extract_lets s2 s3
    have h2 : MemOk s2.1 := by
      unfold s2
      split
      · exact .readMem h1
      · exact .bwAdd.2 h1
    have h3 : MemOk s3 := by
      unfold s3
      split
      · exact .writeMem _ _ h1
      · exact .bwAdd.2 h1
    split
    · exact .flashLost (.setXfer.2 hs)
    · exact .ite (.setXfer.2 hs) (.ite (.countDie _ _ _ _ (.openWrite h2)) (.countDie _ _ _ _ h3))

theorem OutOk.execGrnTransfer {num : BitVec 32} {env : GrnEnv} {e : ErrMap} (hs : MemOk s) : OutOk (execGrnTransfer num env e s) := by
  change MemOk _
  refine MemOk.finding _ (fun _ hs => ?_) hs
  split
  · exact .ite hs (.xferPage hs)
  · exact hs

theorem MemOk.xferEnd {x : GrnXfer} {status : Nat} (hs : MemOk s) : MemOk (s.xferEnd x status) := by
  unfold State.xferEnd
  extract_lets t
  have ht : MemOk t := .modGrn.2 hs
  split
  · exact ht
  · split
    · exact .objSignal ht
    · exact .objSignal ht
    · exact ht

theorem OutOk.execGrnTransferDone {num : BitVec 32} (hs : MemOk s) : OutOk (execGrnTransferDone num s) := by
  change MemOk _
  split
  · split
    · exact .xferEnd hs
    · exact .ite (.xferEnd hs) hs
  · exact hs

theorem MemOk.cancelXfers {p : GrnXfer → Bool} (hs : MemOk s) : MemOk (s.cancelXfers p) := .foldl (fun _ _ hs => .xferEnd hs) _ hs

theorem MemOk.dropOpen {o : Nat} (hs : MemOk s) : MemOk (s.dropOpen o) := .ite (.setGrnObj.2 hs) hs

@[simp] theorem MemOk.grnCommit {o clen : Nat} : MemOk (s.grnCommit o clen) ↔ MemOk s := Iff.rfl

theorem MemOk.eraseObjects {p : Nat → Bool} (hs : MemOk s) : MemOk (s.eraseObjects p) := .modGrn.2 (.cancelXfers hs)

theorem MemOk.grnDelete {o : Nat} (hs : MemOk s) : MemOk (s.grnDelete o) := .modGrn.2 (.cancelXfers hs)

theorem OutOk.execGrnBlockRefresh {chan : Fin 32} {env : RefreshEnv} (hs : MemOk s) : OutOk (execGrnBlockRefresh chan env s) := by
  change MemOk _
  extract_lets _ t
  have ht : MemOk t := .raise.2 (.modGrn.2 hs)
  exact MemOk.ite (.raise.2 ht) ht

theorem MemOk.grnServe {m op : Nat} {used : List (Nat × Nat)} {a : Auth} {body : State → DomNo → State} (hs : MemOk s)
    (hb : ∀ t d, MemOk t → MemOk (body t d)) : MemOk (s.grnServe m op used a body) :=
  .serve hs fun _ _ ht => .ite (hb _ _ ht) (.respond ht)

theorem OutOk.execGrnKeyCreate {m : Fin 320} (hs : MemOk s) : OutOk (execGrnKeyCreate m s) := by
  change MemOk _
  refine MemOk.grnServe hs fun _ _ hs => ?_
  extract_lets _ t
  have ht : MemOk t.1 := .fresh hs
  split
  · exact .respond hs
  · exact .ite (.respond hs) (.respond (.modGrn.2 ht))

theorem MemOk.keyErase {k who : Nat} (hs : MemOk s) : MemOk (s.keyErase k who) := .raise.2 (.modGrn.2 (.eraseObjects hs))

theorem OutOk.execGrnCreate {m : Fin 320} (hs : MemOk s) : OutOk (execGrnCreate m s) := by
  change MemOk _
  refine MemOk.grnServe hs fun _ _ hs => ?_
  extract_lets _ _ _ _ _ t
  have ht : MemOk t.1 := .fresh hs
  iterate 5 refine .ite (.respond hs) ?_
  split
  · exact .respond hs
  · extract_lets
    refine .ite (.respond (.modGrn.2 ht)) ?_
    split
    · exact .respond hs
    · exact .respond (.addRight.2 (.putHull (.modGrn.2 ht)))

theorem OutOk.execGrnGrant {m : Fin 320} (hs : MemOk s) : OutOk (execGrnGrant m s) := by
  change MemOk _
  refine MemOk.grnServe hs fun _ _ hs => ?_
  iterate 4 refine .ite (.respond hs) ?_
  split
  · exact .respond hs
  · exact .respondOk (.addRight.2 (.putHull hs))

theorem MemOk.grnAccept {m : Nat} {write : Bool} {d : DomNo} (hs : MemOk s) : MemOk (s.grnAccept m write d) := by
  unfold State.grnAccept
  iterate 7 refine .ite (.respond hs) ?_
  split
  · exact .respond hs
  · iterate 5 refine .ite (.respond hs) ?_
    exact .respond (.modGrn.2 hs)

theorem MemOk.grnCommitNow {m : Nat} (hs : MemOk s) : MemOk (s.grnCommitNow m) := .ite (.respond hs) (.respond (.grnCommit.2 hs))

theorem OutOk.execGrnCommit {m : Fin 320} (hs : MemOk s) : OutOk (execGrnCommit m s) := by
  change MemOk _
  extract_lets
  refine MemOk.ite (.ite hs (.grnCommitNow hs)) ?_
  refine .grnServe hs fun _ _ hs => ?_
  split
  · exact .respond hs
  · iterate 4 refine .ite (.respond hs) ?_
    split
    · exact .grnCommitNow hs
    · exact .holdCmd.2 hs

theorem OutOk.execGrnDelete {m : Fin 320} (hs : MemOk s) : OutOk (execGrnDelete m s) := by
  change MemOk _
  refine MemOk.grnServe hs fun _ _ hs => ?_
  extract_lets
  split
  · exact .respond hs
  · exact .ite (.respond hs) (.ite (.respond hs) (.respondOk (.grnDelete hs)))

theorem OutOk.execGrnObjstat {m : Fin 320} (hs : MemOk s) : OutOk (execGrnObjstat m s) := by
  change MemOk _
  refine MemOk.grnServe hs fun _ _ hs => ?_
  extract_lets
  split
  · exact .respond hs
  · exact .ite (.respond hs) (.respond hs)

@[simp] theorem MemOk.setPort {k : Nat} {p : Port} : MemOk (s.setPort k p) ↔ MemOk s := Iff.rfl

@[simp] theorem MemOk.modPort {k : Nat} {f : Port → Port} : MemOk (s.modPort k f) ↔ MemOk s := Iff.rfl

@[simp] theorem MemOk.setSwitch {d : Nat} {x : Switch} : MemOk (s.setSwitch d x) ↔ MemOk s := Iff.rfl

@[simp] theorem MemOk.setLasers {g : Nat} {x : Lasers} : MemOk (s.setLasers g x) ↔ MemOk s := Iff.rfl

@[simp] theorem MemOk.enqueue {k vc cls : Nat} {p : Packet} : MemOk (s.enqueue k vc cls p) ↔ MemOk s := Iff.rfl

theorem OptOk.inject {d vc : Nat} {p : Packet} (hs : MemOk s) : OptOk (s.inject d vc p) := by
  unfold State.inject
  split
  · exact .none
  · exact .some (.enqueue.2 (.bridge hs))

theorem OptOk.sendTracked {d vc : Nat} {p : Packet} {op : TrackOp} (hs : MemOk s) : OptOk (s.sendTracked d vc p op) := by
  unfold State.sendTracked
  split
  · exact .none
  · split
    · exact .none
    · next t ht => exact .some (.update (OptOk.inject hs t ht))

theorem MemOk.ackTo {d : Nat} {p : Packet} {status : Nat} (hs : MemOk s) : MemOk (s.ackTo d p status) := .getD (.inject hs) hs

theorem MemOk.returnFail {d : Nat} {p : Packet} (hs : MemOk s) : MemOk (s.returnFail d p) := .ite hs (.ackTo hs)

theorem MemOk.discard {k : Nat} {p : Packet} (hs : MemOk s) : MemOk (s.discard k p) := .returnFail (.raise.2 hs)

theorem MemOk.forward {k vc : Nat} {p : Packet} (hs : MemOk s) : MemOk (s.forward k vc p) := by
  unfold State.forward
  extract_lets
  refine .ite (.discard hs) (.ite (.enqueue.2 (.bridge hs)) (.ite (.discard hs) ?_))
  split
  · exact .discard hs
  · exact .enqueue.2 (.bridge (.raise.2 hs))

@[simp] theorem MemOk.setChan {c : Nat} {x : StageChan} : MemOk (s.setChan c x) ↔ MemOk s := Iff.rfl

@[simp] theorem MemOk.breakChan {c : Nat} : MemOk (s.breakChan c) ↔ MemOk s := Iff.rfl

theorem OptOk.sendClose {d : Nat} {it : CopyItem} {status : Nat} {op : TrackOp} (hs : MemOk s) : OptOk (s.sendClose d it status op) :=
  .sendTracked hs

theorem MemOk.lasersOff {g : Nat} (hs : MemOk s) : MemOk (s.lasersOff g) := .ite (.setLasers.2 hs) hs

theorem MemOk.portDown {k : Nat} (hs : MemOk s) : MemOk (s.portDown k) := .foldl (fun _ _ hs => .ite (.forward hs) hs) _ (.modPort.2 hs)

theorem MemOk.setMask {k : Nat} {tx : Bool} {m : W16} (hs : MemOk s) : MemOk (s.setMask k tx m) := by
  unfold State.setMask
  exact .ite (.portDown hs) (.foldl (fun _ _ hs => .ite (.raise.2 hs) (.ite (.raise.2 hs) hs)) _ (.setPort.2 hs))

theorem MemOk.startRequest {k : Nat} {on : Bool} (hs : MemOk s) : MemOk (s.startRequest k on) :=
  .ite (.ite (.setPort.2 hs) hs) (.ite (.setPort.2 hs) hs)

theorem MemOk.runLatched {k : Nat} (hs : MemOk s) : MemOk (s.runLatched k) := .ite (.startRequest (.update hs)) hs

theorem MemOk.idConflict {m : Nat} {serial : W64} (hs : MemOk s) : MemOk (s.idConflict m serial) :=
  .alertCause (.raise.2 (.foldl (fun _ _ hs => .setSwitch.2 hs) _ hs))

end Sys2Proof.Machine
end

section
/-! PROOFS. Memory stays canonical: what a core leaves unfinished, tiles, accumulators, the loss unit and update units. -/

namespace Sys2Proof.Machine

variable {s : State}

theorem MemOk.releaseCpwait {c : Nat} (hs : MemOk s) : MemOk (s.releaseCpwait c) := by
  unfold State.releaseCpwait
  refine .foldl (fun _ _ hs => ?_) _ hs
  extract_lets
  split
  · exact .ite (.retire.2 (.park.2 (.modBank.2 hs))) hs
  · exact hs

theorem MemOk.releaseTaskFences {c : Nat} (hs : MemOk s) : MemOk (s.releaseTaskFences c) := by
  unfold State.releaseTaskFences
  refine .foldl (fun _ _ hs => ?_) _ hs
  extract_lets
  split
  · exact .ite (.retire.2 (.park.2 (.modCore.2 hs))) hs
  · exact hs

theorem MemOk.copyDone {it : CopyItem} {status : Nat} (hs : MemOk s) : MemOk (s.copyDone it status) :=
  .signal (.releaseTaskFences (.releaseCpwait (.modCore.2 hs)))

theorem MemOk.cancelCopy {it : CopyItem} (hs : MemOk s) : MemOk (s.cancelCopy it) := by
  unfold State.cancelCopy
  extract_lets _ s1
  have h1 : MemOk s1 := by
    unfold s1
    refine .ite hs ?_
    split
    · next t ht => exact OptOk.sendClose hs t ht
    · exact .breakChan.2 hs
  exact .copyDone h1

theorem MemOk.cancelCopies {l : List CopyItem} (hs : MemOk s) : MemOk (s.cancelCopies l) := .foldl (fun _ _ hs => .cancelCopy hs) _ hs

@[simp] theorem MemOk.setDiePool {d : Nat} {p : DiePool} : MemOk (s.setDiePool d p) ↔ MemOk s := Iff.rfl

theorem MemOk.cancelChannels {c : Nat} {p : CopyItem → Bool} (hs : MemOk s) : MemOk (s.cancelChannels c p) :=
  .foldl (fun _ _ hs => .cancelCopies (.modCore.2 hs)) _ hs

theorem MemOk.cancelDieCopies {p : CopyItem → Bool} (hs : MemOk s) : MemOk (s.cancelDieCopies p) :=
  .foldl (fun _ _ hs => .cancelCopies (.setDiePool.2 hs)) _ hs

theorem MemOk.releaseSwait {c : Nat} {n : W32} {status : Nat} (hs : MemOk s) : MemOk (s.releaseSwait c n status) := by
  unfold State.releaseSwait
  refine .foldl (fun _ _ hs => ?_) _ hs
  extract_lets
  split
  · exact .ite (.retire.2 (.park.2 (.modBank.2 hs))) hs
  · exact hs

theorem MemOk.streamDone {c : Nat} {it : StreamItem} {status : Nat} (hs : MemOk s) : MemOk (s.streamDone c it status) := by
  unfold State.streamDone
  extract_lets _ s1 s2
  have h1 : MemOk s1 := .releaseTaskFences (.releaseSwait (.modCore.2 hs))
  have h2 : MemOk s2 := .ite h1 (.pendVec.2 h1)
  exact .ite h2 (.signal h2)

theorem MemOk.cancelStreamEngine {c : Nat} (hs : MemOk s) : MemOk (s.cancelStreamEngine c) :=
  .foldl (fun _ _ hs => .streamDone hs) _ (.dropWaiter.2 (.modCore.2 hs))

theorem MemOk.cancelCoreCopies {c : Nat} (hs : MemOk s) : MemOk (s.cancelCoreCopies c) :=
  .modCore.2 (.cancelStreamEngine (.cancelDieCopies (.cancelChannels hs)))

@[simp] theorem MemOk.dropCoreWaiters {c : Nat} : MemOk (s.dropCoreWaiters c) ↔ MemOk s := Iff.rfl

@[simp] theorem MemOk.setGroup {c i : Nat} {x : TileGroup} : MemOk (s.setGroup c i x) ↔ MemOk s := Iff.rfl

theorem MemOk.takeOrd {c : Nat} (hs : MemOk s) : MemOk (s.takeOrd c).1 := .modCore.2 hs

@[simp] theorem MemOk.setTileRow {c g t r : Nat} {x : BitVec 1024} : MemOk (s.setTileRow c g t r x) ↔ MemOk s := Iff.rfl

@[simp] theorem MemOk.setTileTable {c g t : Nat} {x : BitVec 256} : MemOk (s.setTileTable c g t x) ↔ MemOk s := Iff.rfl

theorem MemOk.tileErr {c g t row : Nat} {e : MemErr} (hs : MemOk s) : MemOk (s.tileErr c g t row e) := by
  unfold State.tileErr
  split
  · exact .raise.2 (.modCore.2 hs)
  · exact .wantRevoke _ (.raise.2 (.modCore.2 hs))
  · exact hs

theorem MemOk.tileCheck {c g t row n : Nat} {e : ErrMap} {base : Nat} (hs : MemOk s) : MemOk (s.tileCheck c g t row n e base).1 :=
  .foldl_fst (fun _ _ hs => .tileErr hs) hs

theorem MemOk.l1Parity {c pa key : Nat} (hs : MemOk s) : MemOk (s.l1Parity c pa key) := .count (.raise.2 (.modCore.2 hs))

theorem MemOk.coreReadLine {c pa n hint : Nat} {pin chaff : Bool} {alloc : Option Nat} (hs : MemOk s) :
    MemOk (s.coreReadLine c pa n hint pin chaff alloc).1 := by
  unfold State.coreReadLine
  extract_lets s1 s2 _ s3 s4
  have h1 : MemOk s1.1 := .scratchRead hs
  have h2 : MemOk s2 := by
    unfold s2
    split
    · exact .ite hs (.l1Parity hs)
    · exact hs
  have h3 : MemOk s3.1 := .homeRead _ _ _ _ _ h2
  have h4 : MemOk s4.1 := .homeRead _ _ _ _ _ h2
  split
  · exact h1
  · split
    · extract_lets _ s5
      have h5 : MemOk s5 := .modCore.2 h2
      exact .ite (.chaffMark _ h5) h5
    · split
      · exact .modCore.2 h3
      · exact h4

theorem MemOk.coreReadFuel {fuel : Nat} {c pa n hint : Nat} {pin chaff : Bool} {alloc : Option Nat} (hs : MemOk s) :
    MemOk (State.coreReadFuel fuel s c pa n hint pin chaff alloc).1 := by
  induction fuel generalizing s pa n with
  | zero => exact hs
  | succ fuel ih =>
    unfold State.coreReadFuel
    split
    · exact hs
    · exact ih (.coreReadLine hs)

theorem MemOk.coreRead {c : Nat} {l : List (Nat × Nat × W64)} {hint : Nat} {pin : Bool} {alloc : Option Nat} (hs : MemOk s) :
    MemOk (s.coreRead c l hint pin alloc).1 := by
  unfold State.coreRead
  refine .foldl_fst (fun _ _ hs => ?_) hs
  extract_lets t
  have ht : MemOk t.1 := .coreReadFuel hs
  exact ht

theorem MemOk.coreWrite {c : Nat} {l : List (Nat × Nat × W64)} {b : List Byte} {hint : Nat} {pin : Bool} (hs : MemOk s) :
    MemOk (s.coreWrite c l b hint pin) :=
  .foldl_fst (fun _ _ hs => .modCore.2 hs) (.piecesWrite hs)

@[simp] theorem MemOk.modAcc {c : Nat} {f : AccUnit → AccUnit} : MemOk (s.modAcc c f) ↔ MemOk s := Iff.rfl

@[simp] theorem MemOk.modMat {c a : Nat} {f : MatArray → MatArray} : MemOk (s.modMat c a f) ↔ MemOk s := Iff.rfl

theorem MemOk.accErr {c slot row col : Nat} {e : MemErr} (hs : MemOk s) : MemOk (s.accErr c slot row col e) := by
  unfold State.accErr
  split
  · exact .raise.2 (.modAcc.2 hs)
  · exact .wantRevoke _ (.raise.2 (.modAcc.2 hs))
  · exact hs

@[simp] theorem MemOk.setLossSlot {i : Nat} {x : LossSlot} : MemOk (s.setLossSlot i x) ↔ MemOk s := Iff.rfl

@[simp] theorem MemOk.setSchedSlot {i : Nat} {x : SchedSlot} : MemOk (s.setSchedSlot i x) ↔ MemOk s := Iff.rfl

@[simp] theorem MemOk.lossAdd {slot n : Nat} : MemOk (s.lossAdd slot n) ↔ MemOk s := Iff.rfl

theorem MemOk.lossNonFinite {c n : Nat} (hs : MemOk s) : MemOk (s.lossNonFinite c n) := .ite (.lossAdd.2 hs) hs

theorem MemOk.schedEta {i : Nat} (hs : MemOk s) : MemOk (s.schedEta i) := .ite (.setSchedSlot.2 hs) (.setSchedSlot.2 hs)

theorem MemOk.schedAdvance {i : Nat} (hs : MemOk s) : MemOk (s.schedAdvance i) :=
  .raise.2 (.countDie _ _ _ _ (.objSignal (.schedEta (.setSchedSlot.2 (.objSignal hs)))))

theorem MemOk.schedCommit {i : Nat} {t : W32} (hs : MemOk s) : MemOk (s.schedCommit i t) := by
  unfold State.schedCommit
  extract_lets _ t
  have ht : MemOk t := .objSignal hs
  exact .ite (.raise.2 hs) (.ite (.schedAdvance ht) ht)

theorem OutOk.execSchedCommit {slot : Fin 64} (hs : MemOk s) : OutOk (execSchedCommit slot s) := by
  change MemOk _
  split
  · exact hs
  · exact .schedCommit (.update hs)

theorem MemOk.countWrite {i : Nat} {v : W32} (hs : MemOk s) : MemOk (s.countWrite i v) :=
  .raise.2 (.schedEta (.objSignal (.setSchedSlot.2 hs)))

theorem MemOk.lossStore {i : Nat} {loss step : W32} (hs : MemOk s) : MemOk (s.lossStore i loss step) := by
  unfold State.lossStore
  extract_lets _ t
  have ht : MemOk t := .countDie _ _ _ _ hs
  exact .ite ht (.setLossSlot.2 ht)

theorem MemOk.gateClose {i : Nat} {t : W32} {reason : Nat} (hs : MemOk s) : MemOk (s.gateClose i t reason) := by
  unfold State.gateClose
  extract_lets _ _ _ _ t
  have ht : MemOk t := .domainMsix (.countDie _ _ _ _ (.raise.2 (.setLossSlot.2 hs)))
  exact .ite (.pendVec.2 ht) ht

theorem MemOk.decideStore {i : Nat} {t : W32} (hs : MemOk s) : MemOk (s.decideStore i t) :=
  .ite hs (.ite (.gateClose hs) (.ite (.gateClose hs) (.ite (.gateClose hs) (.setLossSlot.2 hs))))

@[simp] theorem MemOk.lossReset {i : Nat} : MemOk (s.lossReset i) ↔ MemOk s := Iff.rfl

@[simp] theorem MemOk.setUpdUnit {x : Nat} {u : UpdUnit} : MemOk (s.setUpdUnit x u) ↔ MemOk s := Iff.rfl

@[simp] theorem MemOk.setUpdQueue {x q : Nat} {y : UpdQueue} : MemOk (s.setUpdQueue x q y) ↔ MemOk s := Iff.rfl

@[simp] theorem MemOk.setUpdHead {x q : Nat} {it : UpdItem} : MemOk (s.setUpdHead x q it) ↔ MemOk s := Iff.rfl

theorem MemOk.qsub {x q core : Nat} {value : W64} (hs : MemOk s) : MemOk (s.qsub x q core value) :=
  .ite (.raise.2 (.setUpdQueue.2 hs)) (.setUpdQueue.2 hs)

@[simp] theorem MemOk.ruleCommit {x r : Nat} : MemOk (s.ruleCommit x r) ↔ MemOk s := Iff.rfl

theorem MemOk.updFinish {x q : Nat} {it : UpdItem} {status : Nat} (hs : MemOk s) : MemOk (s.updFinish x q it status) := by
  unfold State.updFinish
  extract_lets _ _ _ _ _ s1 s2 s3 _ s4 s5
  have h1 : MemOk s1 := .setUpdUnit.2 hs
  have h2 : MemOk s2 := .ite (.lossAdd.2 h1) h1
  have h3 : MemOk s3 := .ite h2 (.raise.2 h2)
  have h4 : MemOk s4 := .ite (.update h3) h3
  have h5 : MemOk s5 := .ite h4 (.pendVec.2 h4)
  exact .ite h5 (.signal h5)

theorem MemOk.updDone {x q : Nat} {it : UpdItem} {status : Nat} (hs : MemOk s) : MemOk (s.updDone x q it status) :=
  .updFinish (.setUpdQueue.2 hs)

theorem MemOk.updFail {x q : Nat} {it : UpdItem} {status : Nat} (hs : MemOk s) : MemOk (s.updFail x q it status) := .updDone hs

theorem MemOk.updWait {x q : Nat} {it : UpdItem} (hs : MemOk s) : MemOk (s.updWait x q it).1 := by
  unfold State.updWait
  extract_lets _ _ _ _ t
  have ht : MemOk t := .objFetch hs
  split
  · exact hs
  · exact hs
  · split
    · split
      · exact .dropWaiter.2 hs
      · exact hs
    · split
      · exact hs
      · split
        · exact ht
        · exact .addWaiter.2 ht

theorem MemOk.updStep8 {x q : Nat} {it : UpdItem} (hs : MemOk s) : MemOk (s.updStep8 x q it).st := by
  unfold State.updStep8
  extract_lets
  split
  · exact .setUpdHead.2 hs
  · exact .updFail (.ite (.raise.2 hs) hs)
  · exact .setUpdUnit.2 (.setUpdHead.2 hs)

theorem MemOk.updStep7 {x q : Nat} {it : UpdItem} (hs : MemOk s) : MemOk (s.updStep7 x q it).st := by
  unfold State.updStep7
  split
  · split
    · exact .setUpdHead.2 hs
    · exact .updFail hs
    · exact .updStep8 hs
  · exact .updStep8 hs

theorem MemOk.updStep5 {x q : Nat} {it : UpdItem} (hs : MemOk s) : MemOk (s.updStep5 x q it).st := by
  unfold State.updStep5
  extract_lets t
  have ht : MemOk t.1 := .updWait hs
  split
  · exact .setUpdHead.2 ht
  · split
    · exact .updFail (.raise.2 ht)
    · exact .updStep7 ht
  · exact .updFail ht

/-- The state that a descriptor's fetch leaves, where there is one. -/
theorem MemOk.updFetch {y : UpdQueue} {addr : Nat} (hs : MemOk s) :
    ∀ r, s.updFetch y addr = some (.inr r) → MemOk r.1 := by
  unfold State.updFetch
  extract_lets h
  intro r
  split
  · exact nofun
  · split
    · exact nofun
    · exact nofun
    · split
      · exact nofun
      · split
        · rintro ⟨⟩; exact .piecesRead hs
        · exact nofun

theorem MemOk.updTry {x q : Nat} {it : UpdItem} (hs : MemOk s) : MemOk (s.updTry x q it).st := by
  unfold State.updTry
  extract_lets y
  split
  · split
    · exact hs
    · exact .updDone hs
    · next r hf =>
      extract_lets it' t
      have ht : MemOk t := .setUpdHead.2 (MemOk.updFetch hs r hf)
      split
      · exact .updFail (.raise.2 ht)
      · split
        · exact .updFail ht
        · split
          · exact .updFail ht
          · exact .updStep5 ht
  · exact .updStep5 hs
  · exact .updStep7 hs
  · exact .updStep8 hs

theorem MemOk.updStart {x : Nat} (hs : MemOk s) : MemOk (s.updStart x) := by
  unfold State.updStart
  refine .ite hs (foldl_keeps (P := fun t : UpdTry => MemOk t.st) (fun t i ht => ?_) _ _ hs)
  extract_lets q
  split
  · exact ht
  · split
    · exact ht
    · exact .updTry ht

theorem MemOk.updRead {d : DomNo} {va n : Nat} (hs : MemOk s) : MemOk (s.updRead d va n).1 := by
  unfold State.updRead
  split
  · exact .piecesRead hs
  · exact hs

theorem MemOk.updWrite {d : DomNo} {va : Nat} {b : List Byte} (hs : MemOk s) : MemOk (s.updWrite d va b) := by
  unfold State.updWrite
  split
  · exact .piecesWrite hs
  · exact hs

theorem MemOk.updReduce {d : DomNo} {va : Nat} {b : List Byte} (hs : MemOk s) : MemOk (s.updReduce d va b) := by
  unfold State.updReduce
  split
  · exact .foldl_fst (fun _ _ hs => .reduceRange hs) hs
  · exact hs

theorem MemOk.updFrozen {dom : DomNo} {d : List Byte} {i : Nat} (hs : MemOk s) : MemOk (s.updFrozen dom d i).1 := by
  unfold State.updFrozen
  extract_lets t
  have ht : MemOk t.1 := .updRead hs
  split
  · exact ht
  · exact hs

theorem MemOk.statsRow {x : Nat} {dom : DomNo} {it : UpdItem} {i : Nat} (hs : MemOk s) : MemOk (s.statsRow x dom it i).1 := by
  unfold State.statsRow
  extract_lets _ _ _ _ s1 _ _ _ _ _ _ _ s2 _ _ s3
  have h1 : MemOk s1.1 := .updRead hs
  have h2 : MemOk s2.1 := .updRead h1
  have h3 : MemOk s3 := .countDie _ _ _ _ (.countDie _ _ _ _ (.updWrite h2))
  exact .pair h3

theorem MemOk.applyRow {x : Nat} {dom : DomNo} {it : UpdItem} {i : Nat} (hs : MemOk s) : MemOk (s.applyRow x dom it i).1 := by
  unfold State.applyRow
  extract_lets _ _ _ _ s1 s2 s3 s4 _ _ s5 _ s6
  have h1 : MemOk s1.1 := .updRead hs
  have h2 : MemOk s2.1 := by
    unfold s2
    split
    · exact .updRead h1
    · exact h1
  have h3 : MemOk s3.1 := .updRead h2
  have h4 : MemOk s4.1 := .updRead h3
  have h5 : MemOk s5 := .updWrite h4
  have h6 : MemOk s6 := .countDie _ _ _ _ (.countDie _ _ _ _ (.ite (.updWrite h5) h5))
  exact h6

theorem MemOk.applyBegin {dom : DomNo} {it : UpdItem} (hs : MemOk s) : MemOk (s.applyBegin dom it).1 := by
  unfold State.applyBegin
  extract_lets _ _ _ _ _ _ _ s1 s2 s3
  have h1 : MemOk s1.1 := .updRead hs
  have h2 : MemOk s2.1 := .updRead h1
  have h3 : MemOk s3.1 := .updRead h2
  split
  · exact hs
  · exact .ite (.updWrite h3) h3

theorem MemOk.statsReduce {dom : DomNo} {it : UpdItem} (hs : MemOk s) : MemOk (s.statsReduce dom it) :=
  .ite hs (.updReduce (.foldl (fun _ _ hs => .updReduce hs) _ hs))

theorem MemOk.updRowsRun {row : State → UpdItem → Nat → State × UpdItem} {dom : DomNo} {rows : Nat} {it : UpdItem}
    (hs : MemOk s) (hrow : ∀ t it i, MemOk t → MemOk (row t it i).1) : MemOk (State.updRowsRun row dom rows s it).1 := by
  induction rows generalizing s it with
  | zero => exact hs
  | succ rows ih =>
    unfold State.updRowsRun
    extract_lets f r
    have hf : MemOk f.1 := .updFrozen hs
    have hr : MemOk r.1 := by
      unfold r
      split
      · exact hf
      · exact hrow _ _ _ hf
    split
    · exact hs
    · exact ih hr

theorem MemOk.raiseFrozen {x : Nat} {dom : DomNo} {fuel n : Nat} (hs : MemOk s) : MemOk (s.raiseFrozen x dom fuel n) := by
  induction fuel generalizing s n with
  | zero => exact hs
  | succ fuel ih => exact .ite hs (ih (.countDie _ _ _ _ (.raiseN.2 hs)))

theorem MemOk.updPass {x rows : Nat} {apply : Bool} (hs : MemOk s) : MemOk (s.updPass x rows apply) := by
  unfold State.updPass
  extract_lets
  split
  · exact hs
  · extract_lets s1 _ s2 s3
    have h1 : MemOk s1.1 := by
      unfold s1
      split
      · exact .applyBegin hs
      · exact hs
    have h2 : MemOk s2.1 := by
      unfold s2
      refine .updRowsRun h1 (fun _ _ _ hs => ?_)
      split
      · exact .applyRow hs
      · exact .statsRow hs
    have h3 : MemOk s3 := .raiseFrozen h2
    exact .ite hs (.ite (.setUpdHead.2 (.ite h3 (.statsReduce h3))) (.setUpdHead.2 h3))

theorem MemOk.updCancelOne {x q : Nat} {it : UpdItem} (hs : MemOk s) : MemOk (s.updCancelOne x q it) := by
  unfold State.updCancelOne
  extract_lets y r
  have hr : MemOk r.1 := by
    unfold r
    split
    · split
      · next r hf => exact MemOk.updFetch hs r hf
      · exact hs
    · exact hs
  exact .updFinish hr

theorem MemOk.updCancelWhere {x q : Nat} {p : UpdItem → Bool} (hs : MemOk s) : MemOk (s.updCancelWhere x q p) := by
  unfold State.updCancelWhere
  extract_lets _ _ _ _ s1 _ s2
  have h1 : MemOk s1 := .ite (.setUpdUnit.2 hs) hs
  have h2 : MemOk s2 := .foldl (fun _ _ hs => .updCancelOne hs) _ (.ite (.dropWaiter.2 h1) h1)
  exact .setUpdQueue.2 h2

theorem MemOk.updCancelQueue {x q : Nat} (hs : MemOk s) : MemOk (s.updCancelQueue x q) := .updCancelWhere hs

theorem MemOk.updUnbind {x q : Nat} (hs : MemOk s) : MemOk (s.updUnbind x q) := .setUpdQueue.2 (.updCancelQueue hs)

theorem MemOk.cancelCoreUpdates {c : Nat} (hs : MemOk s) : MemOk (s.cancelCoreUpdates c) :=
  .foldl (fun _ _ hs => .foldl (fun _ _ hs => .updCancelWhere hs) _ hs) _ hs

theorem OutOk.execUpdDescComplete {unit : Fin 16} (hs : MemOk s) : OutOk (execUpdDescComplete unit s) := by
  change MemOk _
  extract_lets
  split
  · exact hs
  · exact .ite (.updDone (.setUpdUnit.2 hs)) hs

end Sys2Proof.Machine
end

section
/-! PROOFS. Memory stays canonical: faults, the issue of an instruction, accesses, the matrix unit and its drains. -/

namespace Sys2Proof.Machine

variable {s : State}

theorem MemOk.coreIdle {c : Nat} (hs : MemOk s) : MemOk (s.coreIdle c) := .domainMsix (.raise.2 hs)

theorem MemOk.thirdFault {w : Site} {codes : Nat × Nat × Nat} (hs : MemOk s) : MemOk (s.thirdFault w codes) := by
  unfold State.thirdFault
  extract_lets _ _ _ _ _ _ _ _ t
  have ht : MemOk t := .coreIdle (.pendAll (.domainMsix (.raise.2 (.modCore.2 (.dropCoreWaiters.2 (.cancelCoreUpdates
      (.cancelCoreCopies hs)))))))
  exact .ite hs (.ite (.wantRevoke _ ht) ht)

@[simp] theorem MemOk.dropBuf {w : Site} : MemOk (s.dropBuf w) ↔ MemOk s := Iff.rfl

@[simp] theorem MemOk.startHandler {w : Site} {pc : VAddr} : MemOk (s.startHandler w pc) ↔ MemOk s := Iff.rfl

theorem MemOk.handleS2 {w : Site} {e : EntryReq} {pc : VAddr} (hs : MemOk s) : MemOk (s.handleS2 w e pc) := by
  unfold State.handleS2
  extract_lets
  split
  · exact .thirdFault hs
  · exact .park.2 hs
  · exact .startHandler.2 hs

theorem MemOk.enterS2 {w : Site} {e : EntryReq} {first : Nat} (hs : MemOk s) : MemOk (s.enterS2 w e first) := by
  unfold State.enterS2
  extract_lets _ _ _ _ _ t
  have ht : MemOk t := .modStrand.2 (.raise.2 (.count (.dropBuf.2 hs)))
  exact .ite (.handleS2 ht) (.thirdFault ht)

theorem MemOk.vectorRead {c pa : Nat} (hs : MemOk s) : MemOk (s.vectorRead c pa).1 := by
  unfold State.vectorRead
  extract_lets _ _ s1 s2
  have h1 : MemOk s1.1 := .readMem hs
  have h2 : MemOk s2.1 := .readMem hs
  split
  · exact .setCore.2 hs
  · split
    · exact .modCore.2 h1
    · exact h2

theorem MemOk.entryFails {w : Site} {e : EntryReq} {code : Nat} {addr info : W64} (hs : MemOk s) :
    MemOk (s.entryFails w e code addr info) :=
  .enterS2 (.modStrand.2 hs)

theorem MemOk.handleS1 {w : Site} {e : EntryReq} {pc : VAddr} (hs : MemOk s) : MemOk (s.handleS1 w e pc) := by
  unfold State.handleS1
  split
  · exact .entryFails hs
  · exact .park.2 hs
  · exact .count (.startHandler.2 hs)

theorem MemOk.readVector {w : Site} {e : EntryReq} (hs : MemOk s) : MemOk (s.readVector w e) := by
  unfold State.readVector
  refine .ite (.entryFails hs) ?_
  split
  · exact .entryFails hs
  · exact .park.2 hs
  · extract_lets t
    have ht : MemOk t.1 := .vectorRead hs
    exact .ite (.entryFails ht) (.handleS1 ht)

theorem MemOk.enterS1 {w : Site} {e : EntryReq} (hs : MemOk s) : MemOk (s.enterS1 w e) := .readVector (.modStrand.2 (.dropBuf.2 hs))

theorem MemOk.resumeEntry {w : Site} {e : EntryReq} {handler : Option VAddr} (hs : MemOk s) : MemOk (s.resumeEntry w e handler) := by
  unfold State.resumeEntry
  split
  · exact .readVector hs
  · exact .handleS2 hs
  · exact .handleS1 hs

theorem MemOk.takeFault {w : Site} {f : Flt} (hs : MemOk s) : MemOk (s.takeFault w f) := by
  unfold State.takeFault
  split
  · exact hs
  · extract_lets
    refine .ite (.park.2 hs) ?_
    split
    · exact .ite (.enterS2 hs) (.enterS1 hs)
    · exact .enterS2 hs
    · exact .thirdFault hs

theorem MemOk.refill {w : Site} (hs : MemOk s) : MemOk (s.refill w) := .ite hs (.setCore.2 hs)

theorem MemOk.noteIssue {w : Site} {pa : Nat} (hs : MemOk s) : MemOk (s.noteIssue w pa) := .count (.modCore.2 hs)

theorem MemOk.parkFor {w : Site} {p : Park} (hs : MemOk s) : MemOk (s.parkFor w p) := by
  unfold State.parkFor
  split
  · exact hs
  · exact .count (.park.2 hs)
  · exact .count (.park.2 hs)
  · exact .park.2 hs

theorem MemOk.settle {w : Site} {r : Res} (hs : MemOk s) (hr : ResOk r) : MemOk (s.settle w r) := by
  cases r with
  | done t => exact .refill (.retire.2 hr)
  | jump t pc => exact .refill (.count (.setPc.2 (.dropBuf.2 hr)))
  | fault t f => exact .takeFault hr
  | hold t => exact hr
  | wait p => exact .parkFor hs
  | issued p word seed => exact .parkFor (.modStrand.2 hs)

/-- An issue keeps the canonical form when the instruction's own effect does. -/
theorem MemOk.issue {w : Site} {uses : List RegRef} {body : State → Res} (hs : MemOk s)
    (hb : ∀ t, MemOk t → ResOk (body t)) : MemOk (s.issue w uses body) := by
  unfold State.issue
  extract_lets t
  split
  · exact hs
  · split
    · exact .takeFault hs
    · exact .parkFor hs
    · exact .ite (.park.2 hs) (.ite hs (.settle hs (hb _ (.noteIssue hs))))

theorem ResOk.unitBody {w : Site} {r : Res} (hs : MemOk s) (hr : ResOk r) : ResOk (s.unitBody w r) := .ite hs hr

theorem OutOk.opR {w : Site} {d a b : RegField} {f : W64 → W64 → W64} (hs : MemOk s) : OutOk (opR w d a b f s) :=
  MemOk.issue hs (fun _ hs => MemOk.setG.2 hs)

theorem OutOk.opU {w : Site} {d a : RegField} {f : W64 → W64} (hs : MemOk s) : OutOk (opU w d a f s) :=
  MemOk.issue hs (fun _ hs => MemOk.setG.2 hs)

theorem OutOk.opI {w : Site} {d a : RegField} {imm : BitVec 15} {f : W64 → W64 → W64} (hs : MemOk s) : OutOk (opI w d a imm f s) :=
  MemOk.issue hs (fun _ hs => MemOk.setG.2 hs)

theorem OutOk.opShift {w : Site} {d a : RegField} {imm : BitVec 15} {f : W64 → Nat → W64} (hs : MemOk s) : OutOk (opShift w d a imm f s) :=
  MemOk.issue hs (fun _ hs => .ite hs (MemOk.setG.2 hs))

theorem OutOk.branch {w : Site} {a b : RegField} {off : BitVec 15} {cond : W64 → W64 → Bool} (hs : MemOk s) :
    OutOk (branch w a b off cond s) :=
  MemOk.issue hs (fun _ hs => .ite hs hs)

theorem OutOk.execLoop {w : Site} {a : RegField} {len : BitVec 15} (hs : MemOk s) : OutOk (execLoop w a len s) := by
  change MemOk _
  refine MemOk.issue hs fun _ hs => ?_
  extract_lets _ _ t
  have ht : MemOk t := .modBank.2 hs
  exact .ite hs (.ite hs (.ite ht ht))

theorem OptOk.setStrandReg {w : Site} {n : Nat} {x : W64} (hs : MemOk s) : OptOk (s.setStrandReg w n x) := by
  unfold State.setStrandReg
  split
  · exact .some (.modBank.2 hs)
  · exact .some (.modBank.2 hs)
  · exact .some (.modCore.2 hs)
  · exact .some (.ite hs (.modStrand.2 hs))
  · exact .some (.modStrand.2 hs)
  · exact .none

theorem OutOk.execRdsr {w : Site} {d a : RegField} {imm : BitVec 15} (hs : MemOk s) : OutOk (execRdsr w d a imm s) := by
  change MemOk _
  refine MemOk.issue hs fun _ hs => ?_
  refine .ite hs ?_
  split
  · exact hs
  · exact MemOk.setG.2 hs

theorem OutOk.execWrsr {w : Site} {d a : RegField} {imm : BitVec 15} (hs : MemOk s) : OutOk (execWrsr w d a imm s) := by
  change MemOk _
  refine MemOk.issue hs fun _ hs => ?_
  refine .ite hs ?_
  split
  · exact hs
  · next t ht => exact OptOk.setStrandReg hs t ht

theorem MemOk.dropHold {w : Site} (hs : MemOk s) : MemOk (s.dropHold w) := by
  unfold State.dropHold
  extract_lets
  split
  · exact .ite (.setGroup.2 hs) hs
  · exact hs

theorem OutOk.execHalt {w : Site} {d a b : RegField} (hs : MemOk s) : OutOk (execHalt w d a b s) := by
  change MemOk _
  refine MemOk.issue hs fun _ hs => ?_
  extract_lets _ t
  have ht : MemOk t := .modStrand.2 (.dropHold hs)
  exact .ite hs (.ite trivial (.ite ht (MemOk.coreIdle ht)))

theorem ResOk.onPage {w : Site} {d : DomNo} {va hreg : Nat} {kind : AccKind} {k : Nat → W64 → State → Res}
    (hs : MemOk s) (hk : ∀ pa leaf t, MemOk t → ResOk (k pa leaf t)) : ResOk (s.onPage w d va kind hreg k) := by
  unfold State.onPage
  split
  · trivial
  · trivial
  · exact hs
  · exact hk _ _ _ hs

theorem ResOk.startMiss {w : Site} {pa size : Nat} {dest : MissDest} {fill par : Bool} (hs : MemOk s) :
    ResOk (s.startMiss w pa size dest fill par) := by
  unfold State.startMiss
  extract_lets _ _ _ t
  have ht : MemOk t := .count hs
  split
  · exact MemOk.modStrand.2 ht
  · split
    · exact MemOk.count (.modStrand.2 ht)
    · exact trivial

theorem ResOk.pushStore {w : Site} {pa : Nat} {b : List Byte} {hull : Bool} (hs : MemOk s) : ResOk (s.pushStore w pa b hull) :=
  .ite trivial (MemOk.count (.setCore.2 hs))

theorem MemOk.deliver {w : Site} {d : MissDest} {b : List Byte} (hs : MemOk s) : MemOk (s.deliver w d b) := by
  unfold State.deliver
  split
  · exact .modBank.2 hs
  · exact .modBank.2 hs
  · exact .modBank.2 hs
  · exact hs

@[simp] theorem MemOk.missEnds {w : Site} : MemOk (s.missEnds w) ↔ MemOk s := Iff.rfl

theorem MemOk.fillArrives {c i : Nat} (hs : MemOk s) : MemOk (s.fillArrives c i) := by
  unfold State.fillArrives
  extract_lets
  split
  · exact hs
  · extract_lets _ t
    have ht : MemOk t.1 := .homeRead _ _ _ _ _ (.modCore.2 hs)
    refine .ite ht ?_
    refine .foldl (fun _ _ hs => ?_) _ (.ite (.modCore.2 ht) ht)
    extract_lets
    split
    · exact .ite (.missEnds.2 (.deliver hs)) hs
    · exact hs

theorem OutOk.execMwld {w : Site} {d a b : RegField} {tw xmask : BitVec 4} {same z : Bool} (hs : MemOk s) :
    OutOk (execMwld w d a b tw xmask same z s) := by
  change MemOk _
  extract_lets
  refine MemOk.issue hs fun _ hs => ?_
  extract_lets _ _ _ t
  have ht : MemOk t.1 := .takeOrd hs
  exact .ite trivial (.ite hs (.unitBody hs (.ite hs (.ite hs (MemOk.park.2 (.modCore.2 ht))))))

theorem MemOk.feed {c : Nat} {arrays : List Nat} {weight : Bool} {tag : Nat} (hs : MemOk s) : MemOk (s.feed c arrays weight tag) := by
  unfold State.feed
  extract_lets _ t
  have ht : MemOk t := .foldl (fun _ _ hs => .count hs) _ hs
  split
  · exact ht
  · exact .count (.foldl (fun _ _ hs => .modMat.2 hs) _ ht)

theorem MemOk.feedRows {c g : Nat} {arrays : List Nat} {weight : Bool} {l : List (Nat × Nat × Nat)} {e : ErrMap} (hs : MemOk s) :
    MemOk (s.feedRows c g arrays weight l e).1 := by
  unfold State.feedRows
  refine .foldl_fst (fun _ _ hs => ?_) hs
  extract_lets _ _ _ t
  have ht : MemOk t.1 := by
    unfold t
    split
    · exact hs
    · exact .tileCheck hs
  exact .feed ht

theorem MemOk.validateReads {c : Nat} {loads : List (Nat × Reload)} {e : ErrMap} (hs : MemOk s) : MemOk (s.validateReads c loads e).1 := by
  unfold State.validateReads
  refine .foldl_fst (fun _ _ hs => ?_) hs
  split
  · extract_lets t
    have ht : MemOk t.1 := .feedRows hs
    exact ht
  · exact hs

theorem OutOk.execMwldValidate {w : Site} {e : ErrMap} (hs : MemOk s) : OutOk (execMwldValidate w e s) := by
  change MemOk _
  extract_lets
  split
  · exact hs
  · extract_lets t
    have ht : MemOk t.1 := .validateReads hs
    refine .ite hs (.ite ht ?_)
    split
    · exact .takeFault (.park.2 (.modCore.2 ht))
    · exact .retire.2 (.foldl (fun _ _ hs => .modMat.2 hs) _ (.park.2 (.modCore.2 ht)))

theorem OutOk.execWeightShift {core : Fin 256} {array : Fin 4} {e : ErrMap} (hs : MemOk s) : OutOk (execWeightShift core array e s) := by
  change MemOk _
  extract_lets
  split
  · extract_lets _ s1 _ s2
    have h1 : MemOk s1.1 := by
      unfold s1
      split
      · exact hs
      · exact .feedRows hs
    have h2 : MemOk s2 := .ite (.foldl (fun _ _ hs => .modMat.2 hs) _ h1) h1
    exact .ite hs (.ite h1 (.count (.modMat.2 h2)))
  · exact hs

theorem OutOk.execWeightActivate {core : Fin 256} {array : Fin 4} (hs : MemOk s) : OutOk (execWeightActivate core array s) := by
  change MemOk _
  split
  · exact .ite hs (.modMat.2 hs)
  · exact hs

theorem ResOk.enterPass {w : Site} {l : List (Nat × Nat)} {mk : Nat → Nat → Nat → Pass} (hs : MemOk s) : ResOk (s.enterPass w l mk) := by
  unfold State.enterPass
  extract_lets _ t
  have ht : MemOk t.1 := .takeOrd hs
  exact MemOk.foldl (fun _ _ hs => .modMat.2 hs) _ ht

theorem OutOk.execMma {w : Site} {ga gb b : RegField} {ta : BitVec 4} {q : BitVec 3} {nomask zero z : Bool} (hs : MemOk s) :
    OutOk (execMma w ga gb b ta q nomask zero z s) := by
  change MemOk _
  extract_lets
  refine MemOk.issue hs fun _ hs => ?_
  extract_lets
  refine .ite trivial (.ite hs ?_)
  refine .unitBody hs ?_
  split
  · exact hs
  · exact .enterPass hs

theorem OutOk.execMmaq {w : Site} {ga vb h : RegField} {ta : BitVec 4} {q : BitVec 3} {nomask zero z : Bool} (hs : MemOk s) :
    OutOk (execMmaq w ga vb h ta q nomask zero z s) := by
  change MemOk _
  refine MemOk.issue hs fun _ hs => ?_
  refine .ite trivial (.ite hs ?_)
  refine .unitBody hs ?_
  split
  · exact hs
  · refine .ite hs ?_
    split
    · exact hs
    · exact .enterPass hs

theorem MemOk.slotInto {c a : Nat} {p : Pass} {sl : Nat × List Nat} (hs : MemOk s) : MemOk (s.slotInto c a p sl) := .count (.modMat.2 hs)

theorem MemOk.beginPass {c a : Nat} {p : Pass} (hs : MemOk s) : MemOk (s.beginPass c a p) := .count (.ite (.modAcc.2 hs) hs)

@[simp] theorem MemOk.setNext {c a n : Nat} : MemOk (s.setNext c a n) ↔ MemOk s := Iff.rfl

theorem MemOk.feedSlots {fuel : Nat} {c : Nat} {l : List (Nat × Pass)} {n : Nat} {e : ErrMap} (hs : MemOk s) :
    MemOk (State.feedSlots fuel s c l n e).1 := by
  induction fuel generalizing s n with
  | zero => exact hs
  | succ fuel ih =>
    unfold State.feedSlots
    split
    · exact hs
    · split
      · exact hs
      · extract_lets reads q
        have hq : MemOk q.1 := .foldl_fst (fun _ _ hr => .feedRows hr) hs
        split
        · exact .foldl (fun _ _ hs => .count hs) _ hs
        · split
          · exact hq
          · exact ih (.foldl (fun _ _ hs => .slotInto hs) _ hq)

theorem OutOk.execPassStart {core : Fin 256} {array : Fin 4} {e : ErrMap} (hs : MemOk s) : OutOk (execPassStart core array e s) := by
  change MemOk _
  extract_lets
  split
  · exact hs
  · extract_lets _ _ _ _ s1 s2
    have h1 : MemOk s1 := .ite (.foldl (fun _ _ hs => .beginPass hs) _ hs) hs
    have h2 : MemOk s2.1 := .feedSlots h1
    refine .ite hs ?_
    split
    · exact .foldl (fun _ _ hs => .setNext.2 hs) _ h1
    · exact .ite (.feedSlots hs) (.foldl (fun _ _ hs => .setNext.2 hs) _ h2)

theorem MemOk.parityErrs {c a j : Nat} {new : List Nat} (hs : MemOk s) : MemOk (s.parityErrs c a j new) :=
  .ite hs (.wantRevoke _ (.foldl (fun _ _ hs => .raise.2 hs) _ (.modMat.2 hs)))

theorem OutOk.execAccResultAdd {core : Fin 256} {array : Fin 4} {row col : Fin 64} {perr : List (Fin 64)} {e : MemErr} (hs : MemOk s) :
    OutOk (execAccResultAdd core array row col perr e s) := by
  change MemOk _
  extract_lets
  split
  · exact hs
  · split
    · exact hs
    · extract_lets _ _ _ _ _ t
      have ht : MemOk t := .parityErrs (.accErr (.count (.modMat.2 hs)))
      exact .ite hs (.ite (.foldl (fun _ _ hs => .count hs) _ hs) (.ite ht (.ite (.modAcc.2 (.update ht)) (.modAcc.2 ht))))

@[simp] theorem MemOk.changeModes {c m : Nat} {mode : SlotMode} : MemOk (s.changeModes c m mode) ↔ MemOk s := Iff.rfl

theorem OutOk.execSlotClear {core : Fin 256} {slot : Fin 32} (hs : MemOk s) : OutOk (execSlotClear core slot s) := by
  change MemOk _
  extract_lets
  split
  · exact hs
  · exact .ite hs (.modAcc.2 hs)

theorem ResOk.enterDrain {w : Site} {gd : RegField} {mk : Nat → W32 → DrainItem} (hs : MemOk s) : ResOk (s.enterDrain w gd mk) := by
  unfold State.enterDrain
  extract_lets _ t
  have ht : MemOk t.1 := .takeOrd hs
  exact MemOk.setG.2 (.modStrand.2 (.modAcc.2 ht))

theorem ResOk.withRanges {w : Site} {hreg : Nat} {write : Bool} {l : List (Nat × Nat)} {k : Res} (hs : MemOk s)
    (hk : ResOk k) : ResOk (s.withRanges w hreg write l k) := by
  unfold State.withRanges
  extract_lets h
  split
  · exact hs
  · trivial
  · exact hk

theorem ResOk.keepDrain {word seed : W64} {r : Res} (hr : ResOk r) : ResOk (r.keepDrain word seed) := by
  cases r with
  | wait p => trivial
  | _ => exact hr

theorem OutOk.execMdrain {w : Site} {gd ga gb : RegField} {slot : BitVec 5} {dst z : Bool} (hs : MemOk s) :
    OutOk (execMdrain w gd ga gb slot dst z s) := by
  unfold Machine.execMdrain
  extract_lets
  refine MemOk.issue hs fun _ hs => ?_
  extract_lets t
  have ht : MemOk t := .modCore.2 hs
  refine .ite trivial (.ite ht ?_)
  refine .unitBody ht ?_
  refine .ite ht (.ite ht (.ite ht (.ite ht (.ite ht (.ite (.keepDrain (.ite (.enterDrain ht) (.ite ht (.withRanges ht
      (.enterDrain ht))))) ?_)))))
  refine .keepDrain ?_
  refine .withRanges ht ?_
  split
  · exact .ite (.enterDrain ht) (.ite ht (.withRanges ht (.enterDrain ht)))
  · exact ht

theorem OutOk.opImage {w : Site} {gd ga h : RegField} {slot : BitVec 5} {z : BitVec 2} {restore : Bool} (hs : MemOk s) :
    OutOk (opImage w gd ga h slot z restore s) := by
  unfold Machine.opImage
  refine MemOk.issue hs fun _ hs => ?_
  refine .ite trivial (.ite hs ?_)
  refine .unitBody hs ?_
  refine .ite hs (.ite hs ?_)
  refine .withRanges hs ?_
  split
  · exact hs
  · exact .enterDrain hs

@[simp] theorem MemOk.setDrain {c i : Nat} {d : DrainItem} : MemOk (s.setDrain c i d) ↔ MemOk s := Iff.rfl

theorem OutOk.execDrainStart {core : Fin 256} {e : ErrMap} (hs : MemOk s) : OutOk (execDrainStart core e s) := by
  change MemOk _
  extract_lets
  split
  · refine .ite hs (.ite ?_ (.setDrain.2 hs))
    split
    · refine .ite hs ?_
      refine .finding _ (fun _ hs => ?_) hs
      extract_lets t
      have ht : MemOk t.1 := .coreRead hs
      exact .setDrain.2 ht
    · exact .ite (.setDrain.2 hs) hs
  · exact hs

theorem MemOk.countNonFinite {c : Nat} {l : List Seen} (hs : MemOk s) : MemOk (s.countNonFinite c l) := by
  unfold State.countNonFinite
  extract_lets _ _ _ _ _ t
  have ht : MemOk t := .modAcc.2 hs
  exact .ite hs (.lossNonFinite (.ite (.pendVec.2 ht) ht))

theorem MemOk.unitWrite {c : Nat} {h : W128} {va : Nat} {b : List Byte} (hs : MemOk s) : MemOk (s.unitWrite c h va b) := by
  unfold State.unitWrite
  split
  · exact .coreWrite hs
  · exact hs

theorem MemOk.writeDrainRow {c : Nat} {d : DrainItem} {o : Nat} {els scales : List Nat} (hs : MemOk s) :
    MemOk (s.writeDrainRow c d o els scales) := by
  unfold State.writeDrainRow
  extract_lets _ _ _ _ _ _ _ _ _ _ _ _ s1 _ s2 s3
  have h1 : MemOk s1 := .setTileRow.2 hs
  have h2 : MemOk s2 := .unitWrite hs
  have h3 : MemOk s3 := .ite h2 (.unitWrite h2)
  exact .ite (.ite (.setTileRow.2 h1) h1) (.ite (.unitWrite h3) h3)

theorem OutOk.execDrainRow {core : Fin 256} {e : ErrMap} (hs : MemOk s) : OutOk (execDrainRow core e s) := by
  change MemOk _
  extract_lets
  split
  · exact hs
  · extract_lets _ _ _ _ _ s1 _ _ s2
    have h1 : MemOk s1 := .foldl (fun _ _ hs => .accErr hs) _ hs
    have h2 : MemOk s2 := .count (.countNonFinite (.ite h1 (.writeDrainRow h1)))
    exact .ite hs (.setDrain.2 (.ite (.modAcc.2 h2) h2))

theorem OutOk.execSaveRestoreRun {core : Fin 256} {e m : ErrMap} (hs : MemOk s) : OutOk (execSaveRestoreRun core e m s) := by
  change MemOk _
  extract_lets
  split
  · exact hs
  · refine .ite hs ?_
    refine .finding _ (fun _ hs => ?_) hs
    extract_lets s1 s2
    have h1 : MemOk s1 := .setDrain.2 hs
    have h2 : MemOk s2 := .foldl (fun _ _ hs => .accErr hs) _ h1
    refine .ite (.ite h2 (.unitWrite h2)) ?_
    split
    · extract_lets s3
      have h3 : MemOk s3.1 := .piecesRead h1
      exact .ite h1 (.modAcc.2 h3)
    · exact h1

theorem OutOk.execDrainComplete {core : Fin 256} (hs : MemOk s) : OutOk (execDrainComplete core s) := by
  change MemOk _
  extract_lets
  split
  · exact hs
  · exact .ite hs (.releaseTaskFences (.modCore.2 (.modAcc.2 hs)))

theorem OutOk.execActTableStore {core : Fin 256} {off : BitVec 12} {value : BitVec 64} (hs : MemOk s) :
    OutOk (execActTableStore core off value s) := by
  change MemOk _
  split
  · exact hs
  · exact .ite hs (.modAcc.2 (.modCore.2 hs))

end Sys2Proof.Machine
end

section
/-! PROOFS. Memory stays canonical: hull and sync instructions, streams, copies and rings. -/

namespace Sys2Proof.Machine

variable {s : State}

theorem OutOk.execHderive {w : Site} {hd ha gb gc gr : RegField} (hs : MemOk s) : OutOk (execHderive w hd ha gb gc gr s) := by
  change MemOk _
  refine MemOk.issue hs fun _ hs => ?_
  refine .ite hs ?_
  split
  · exact hs
  · exact MemOk.setH.2 hs

theorem OutOk.execHseal {w : Site} {hd ha : RegField} (hs : MemOk s) : OutOk (execHseal w hd ha s) := by
  change MemOk _
  refine MemOk.issue hs fun _ hs => ?_
  extract_lets
  refine .ite hs ?_
  split
  · exact hs
  · exact .ite hs (MemOk.setH.2 hs)

theorem OutOk.execHld {w : Site} {hd ga hb : RegField} {off : BitVec 7} (hs : MemOk s) : OutOk (execHld w hd ga hb off s) := by
  change MemOk _
  refine MemOk.issue hs fun _ hs => ?_
  refine .ite hs (.ite hs ?_)
  split
  · exact hs
  · exact .onPage hs (fun _ _ _ hs => .startMiss hs)

theorem OutOk.execHst {w : Site} {hd ga hb : RegField} {off : BitVec 7} (hs : MemOk s) : OutOk (execHst w hd ga hb off s) := by
  change MemOk _
  refine MemOk.issue hs fun _ hs => ?_
  refine .ite hs (.ite hs ?_)
  split
  · exact hs
  · exact .onPage hs (fun _ _ _ hs => .ite hs (.pushStore hs))

theorem OutOk.execHcall {w : Site} {ha : RegField} (hs : MemOk s) : OutOk (execHcall w ha s) := by
  change MemOk _
  refine MemOk.issue hs fun _ hs => ?_
  extract_lets
  refine .ite hs ?_
  split
  · exact hs
  · exact .ite hs (.ite trivial (.ite trivial (.onPage hs (fun _ _ _ hs => MemOk.park.2 (.modStrand.2 (.count hs))))))

theorem OutOk.execHret {w : Site} (hs : MemOk s) : OutOk (execHret w s) := by
  change MemOk _
  refine MemOk.issue hs fun _ hs => ?_
  extract_lets
  split
  · exact hs
  · split
    · exact hs
    · exact .ite trivial (.ite trivial (MemOk.modStrand.2 (.dropBuf.2 hs)))

theorem MemOk.hcallArrive {w : Site} {dom : DomNo} {block : List Byte} (hs : MemOk s) : MemOk (s.hcallArrive w dom block) := by
  unfold State.hcallArrive
  extract_lets _ _ _ t
  have ht : MemOk t := .modStrand.2 hs
  refine .ite (.takeFault ht) ?_
  split
  · exact .takeFault ht
  · exact .modStrand.2 (.dropBuf.2 ht)

theorem MemOk.remoteErr {c status obj modu : Nat} (hs : MemOk s) : MemOk (s.remoteErr c status obj modu) :=
  .pendVec.2 (.raise.2 (.update hs))

theorem ResOk.remoteOp {w : Site} {gd : RegField} {dom obj modu : Nat} {op : ObjOp} (hs : MemOk s) :
    ResOk (s.remoteOp w gd dom obj modu op) := by
  unfold State.remoteOp
  extract_lets c l t tag
  refine .ite (MemOk.setG.2 (.remoteErr hs)) (.ite trivial ?_)
  split
  · trivial
  · next t ht => exact MemOk.setG.2 (.update (OptOk.sendTracked hs t ht))

theorem OutOk.syncOp {w : Site} {gd ga gb : RegField} {h : BitVec 4} {mask : Nat} {narrow : Bool} {op : W64 → ObjOp} {old : W64 → W64}
    (hs : MemOk s) : OutOk (syncOp w gd ga gb h mask narrow op old s) := by
  unfold Machine.syncOp
  refine MemOk.issue hs fun _ hs => ?_
  extract_lets
  refine .ite hs ?_
  split
  · exact hs
  · exact .ite trivial (.remoteOp hs)
  · split
    · exact hs
    · refine .ite trivial ?_
      split
      · exact .ite (MemOk.park.2 (.addWaiter.2 (.objFetch hs))) (MemOk.setG.2 (.objPerform hs))
      · exact MemOk.setG.2 (.objPerform hs)

theorem OutOk.ywaitOp {w : Site} {gd ga gb : RegField} {h : BitVec 4} {poll : Bool} (hs : MemOk s) :
    OutOk (ywaitOp w gd ga gb h poll s) := by
  unfold Machine.ywaitOp
  refine MemOk.issue hs fun _ hs => ?_
  extract_lets _ _ _ t
  have ht : MemOk t := .objFetch hs
  split
  · exact hs
  · exact .ite (MemOk.setG.2 ht) (.ite (MemOk.setG.2 ht) (MemOk.park.2 (.addWaiter.2 ht)))

theorem MemOk.syncAcked {core t status : Nat} (hs : MemOk s) : MemOk (s.syncAcked core t status) := by
  unfold State.syncAcked
  extract_lets _ _ t
  have ht : MemOk t := .update hs
  split
  · exact hs
  · exact .ite ht (.remoteErr ht)

theorem OutOk.execRemoteSyncAck {core : Fin 256} {k : Fin 16} {status : BitVec 8} (hs : MemOk s) :
    OutOk (execRemoteSyncAck core k status s) := by
  change MemOk _
  split
  · exact hs
  · exact .syncAcked (.update hs)

theorem OutOk.execSsub {w : Site} {gd ga : RegField} {z : Bool} {hd src tab : BitVec 4} {z2 : BitVec 2} {e : ErrMap}
    (hs : MemOk s) : OutOk (execSsub w gd ga z hd src tab z2 e s) := by
  change MemOk _
  refine MemOk.issue hs fun _ hs => ?_
  refine .ite trivial (.ite hs (.unitBody hs (.ite hs (.withRanges hs ?_))))
  split
  · extract_lets s1 _ _ s2
    have h1 : MemOk s1.1 := .reading hs (fun _ hs => .coreRead hs)
    have h2 : MemOk s2.1 := .takeOrd h1
    refine .ite trivial ?_
    split
    · exact h1
    · refine .ite h1 (.ite h1 (.ite h1 (.ite h1 (.ite h1 ?_))))
      split
      · exact h1
      · split
        · exact h1
        · exact MemOk.setG.2 (.modCore.2 h2)
  · exact trivial

theorem MemOk.chainErr {c buf gran : Nat} {e : MemErr} (hs : MemOk s) : MemOk (s.chainErr c buf gran e) := by
  unfold State.chainErr
  split
  · exact .raise.2 (.modCore.2 hs)
  · exact .wantRevoke _ (.raise.2 (.modCore.2 hs))
  · exact hs

theorem MemOk.strCheck {key : Nat} {note : State → MemErr → State} {st : State × StrTally} (hst : MemOk st.1)
    (hn : ∀ t e, MemOk t → MemOk (note t e)) : MemOk (strCheck key note st).1.1 := by
  unfold Machine.strCheck
  extract_lets e
  split
  · exact hst
  · split
    · exact hst
    · exact hn _ _ hst

theorem MemOk.strGet {v : StrEnv} {b : TBlock} {i : List Nat} {st : State × StrTally} (hst : MemOk st.1) :
    MemOk (strGet v b i st).1.1 := by
  unfold Machine.strGet
  extract_lets a g r
  split
  · split
    · exact .strCheck hst fun _ _ ht => .scratchErr _ _ ht
    · exact hst
  · exact .strCheck hst fun _ _ ht => .chainErr ht

theorem MemOk.strGets {v : StrEnv} {l : List (TBlock × List Nat)} {st : State × StrTally} (hst : MemOk st.1) :
    MemOk (strGets v l st).1.1 := by
  induction l generalizing st with
  | nil => exact hst
  | cons x l ih => exact ih (.strGet hst)

theorem MemOk.strPut {v : StrEnv} {b : TBlock} {i : List Nat} {x : Nat} (hs : MemOk s) : MemOk (s.strPut v b i x) := by
  unfold State.strPut
  refine .ite ?_ (.modCore.2 hs)
  split
  · exact .writeMem _ _ hs
  · exact hs

theorem MemOk.strWrite {d : List Byte} {v : StrEnv} {n : Nat} {i : List Nat} {x : Fv} {st : State × StrTally} (hst : MemOk st.1) :
    MemOk (strWrite d v n i x st).1 := .strPut hst

theorem MemOk.strPoint {d : List Byte} {c : StrClass} {v : StrEnv} {n : Nat} {st : State × StrTally} (hst : MemOk st.1) :
    MemOk (strPoint d c v n st).1 := by
  unfold Machine.strPoint
  extract_lets i ins q xs x isInt r
  have hq : MemOk q.1.1 := .strGets hst
  split
  · exact hq
  · exact .strWrite hq

theorem MemOk.strReducePoint {d : List Byte} {v : StrEnv} {n : Nat} {st : State × StrTally} (hst : MemOk st.1) :
    MemOk (strReducePoint d v n st).1 := by
  unfold Machine.strReducePoint
  extract_lets r sh i x0 q
  have hq : MemOk q.1.1 := .strGets hst
  split
  · exact hq
  · exact .strWrite hq

theorem MemOk.strIndexPoint {d : List Byte} {c : StrClass} {v : StrEnv} {n : Nat} {st : State × StrTally} (hst : MemOk st.1) :
    MemOk (strIndexPoint d c v n st).1 := by
  unfold Machine.strIndexPoint
  extract_lets i r st' y _ oob q
  have hr : MemOk r.1.1 := .strGet hst
  have hq : MemOk q.1.1 := .strGet hr
  split
  · exact hr
  · extract_lets e inRange at0 q' o
    have hq' : MemOk q'.1.1 := .strGet hr
    have ho : MemOk o.1.1 := .strGet hq
    split
    · split
      · split
        · exact .strPut hq'
        · exact hq'
      · exact .strPut hr
    · split
      · exact hr
      · split
        · exact hq
        · split
          · exact .strPut hq
          · split
            · exact ho
            · exact .strWrite ho

theorem MemOk.strRoutePair {d : List Byte} {v : StrEnv} {p : Nat} {st : (State × StrTally) × Table Nat} (hst : MemOk st.1.1) :
    MemOk (strRoutePair d v p st).1.1 := by
  unfold Machine.strRoutePair
  extract_lets sh t c pos q experts
  have pos_ok {x : Nat} {u : State} (hu : MemOk u) : MemOk (pos x u) := .strPut hu
  have hq : MemOk q.1.1 := .strGet hst
  split
  · exact hq
  · extract_lets e n' r
    have hr : MemOk r.1 := by
      refine .foldl_fst (fun _ _ ha => ?_) hq
      extract_lets g
      have hg : MemOk g.1.1 := .strGet ha
      split
      · exact .strPut hg
      · exact hg
    split
    · exact pos_ok hq
    · split
      · exact pos_ok hq
      · exact pos_ok hr

/-- The points of an element phase in turn keep the canonical form when each does. -/
theorem MemOk.strFold {α : Type} {f : Nat → State × α → State × α} (hf : ∀ i r, MemOk r.1 → MemOk (f i r).1) (n : Nat)
    {r : State × α} (hr : MemOk r.1) : MemOk (n.fold (fun i _ r => f i r) r).1 := by
  induction n with
  | zero => exact hr
  | succ n ih => exact hf _ _ ih

theorem MemOk.strRun {d : List Byte} {c : StrClass} {v : StrEnv} (hs : MemOk s) : MemOk (s.strRun d c v).1.1 := by
  unfold State.strRun
  extract_lets sh st0 points
  have points_ok {n : Nat} {f : Nat → State × StrTally → State × StrTally} (hf : ∀ i r, MemOk r.1 → MemOk (f i r).1) :
      MemOk (points n f).1.1 := .strFold hf n hs
  split
  · exact points_ok fun _ _ hr => .strPoint hr
  · exact points_ok fun _ _ hr => .strPoint hr
  · exact points_ok fun _ _ hr => .strReducePoint hr
  · generalize sh.getD 1 1 * sh.getD 2 1 = n
    induction n with
    | zero => exact hs
    | succ n ih => exact .strRoutePair ih
  · exact points_ok fun _ _ hr => .strIndexPoint hr

theorem MemOk.strCounts {c : Nat} {t : StrTally} (hs : MemOk s) : MemOk (s.strCounts c t) := by
  unfold State.strCounts
  extract_lets _ _ _ s1 s2
  have h1 : MemOk s1 := .modCore.2 hs
  have h2 : MemOk s2 := .ite (.pendVec.2 h1) h1
  exact .ite h2 (.lossNonFinite h2)

theorem MemOk.strWait {c : Nat} {it : StreamItem} (hs : MemOk s) : MemOk (s.strWait c it).1 := by
  unfold State.strWait
  extract_lets _ _ _ _ t
  have ht : MemOk t := .objFetch hs
  split
  · exact hs
  · exact hs
  · split
    · split
      · exact .dropWaiter.2 hs
      · exact hs
    · split
      · exact hs
      · split
        · exact ht
        · exact .addWaiter.2 ht

@[simp] theorem MemOk.setStreamHead {c : Nat} {it : StreamItem} : MemOk (s.setStreamHead c it) ↔ MemOk s := Iff.rfl

theorem MemOk.streamRun {c : Nat} {it : StreamItem} {cl : StrClass} (hs : MemOk s) : MemOk (s.streamRun c it cl) := by
  unfold State.streamRun
  extract_lets t
  have ht : MemOk t.1.1 := .strRun hs
  exact .setStreamHead.2 (.count (.strCounts ht))

theorem MemOk.streamStart {c : Nat} (hs : MemOk s) : MemOk (s.streamStart c) := by
  unfold State.streamStart
  split
  · exact hs
  · extract_lets t
    have ht : MemOk t.1 := .strWait hs
    refine .ite hs ?_
    split
    · exact hs
    · split
      · exact ht
      · exact .setStreamHead.2 ht
      · split
        · exact .setStreamHead.2 ht
        · exact .setStreamHead.2 ht
        · exact .streamRun ht

theorem OutOk.execStreamDescComplete {core : Fin 256} (hs : MemOk s) : OutOk (execStreamDescComplete core s) := by
  change MemOk _
  extract_lets
  split
  · exact hs
  · extract_lets s1 s2
    have h1 : MemOk s1 := .modCore.2 hs
    have h2 : MemOk s2 := .ite (.foldl (fun _ _ hs => .objSignal hs) _ h1) h1
    exact .ite hs (.streamDone h2)

theorem MemOk.copyPush {c eng : Nat} {it : CopyItem} (hs : MemOk s) : MemOk (s.copyPush c eng it).1 := by
  unfold State.copyPush
  split
  · exact .modCore.2 hs
  · exact .setDiePool.2 (.modCore.2 hs)

theorem ResOk.hullsReady {w : Site} {l : List Nat} {k : Res} (hk : ResOk k) : ResOk (s.hullsReady w l k) := .ite trivial (.ite trivial hk)

theorem OutOk.execCpy {w : Site} {gd ga : RegField} {hd : BitVec 4} {eng : BitVec 3} {e : ErrMap} (hs : MemOk s) :
    OutOk (execCpy w gd ga hd eng e s) := by
  change MemOk _
  refine MemOk.issue hs fun _ hs => ?_
  refine .ite trivial (.ite hs ?_)
  refine .unitBody hs ?_
  refine .ite hs ?_
  refine .withRanges hs ?_
  split
  · extract_lets s1 _ _ _ _ _ _ _ s2
    have h1 : MemOk s1.1 := .reading hs (fun _ hs => .coreRead hs)
    have h2 : MemOk s2.1 := .copyPush (.ite (.setChan.2 h1) h1)
    refine .ite trivial ?_
    refine .hullsReady ?_
    split
    · exact h1
    · exact MemOk.setG.2 h2
  · exact trivial

theorem MemOk.setCopy {e : Engine} {it : Option CopyItem} (hs : MemOk s) : MemOk (s.setCopy e it) := by
  unfold State.setCopy
  split
  · exact .modCore.2 hs
  · exact .setDiePool.2 hs

theorem OutOk.execCopyStart {e : Engine} (hs : MemOk s) : OutOk (execCopyStart e s) := by
  change MemOk _
  split
  · split
    · exact .ite hs (.setCopy hs)
    · exact hs
  · extract_lets
    refine .ite hs ?_
    split
    · exact hs
    · split
      · exact hs
      · exact .ite hs (.setDiePool.2 hs)

theorem OptOk.sendAll {d vc m : Nat} {l : List (Packet × TrackOp)} (hs : MemOk s) : OptOk (s.sendAll d vc m l) := by
  induction l generalizing s with
  | nil => exact .some hs
  | cons p l ih =>
    unfold State.sendAll
    split
    · exact .none
    · next t ht => exact ih (OptOk.sendTracked hs t ht)

theorem MemOk.countRow {e : Engine} {it : CopyItem} (hs : MemOk s) : MemOk (s.countRow e it) := by
  unfold State.countRow
  extract_lets s1 s2
  have h1 : MemOk s1 := by
    unfold s1
    split
    · exact .count hs
    · exact .countDie _ _ _ _ hs
  have h2 : MemOk s2 := .ite (.bwAdd.2 h1) h1
  exact .ite (.bwAdd.2 h2) h2

theorem MemOk.rowOut {e : Engine} {it : CopyItem} {dst : List (Nat × Nat × W64)} {b : List Byte} {pcie : Bool} (hs : MemOk s) :
    MemOk (s.rowOut e it dst b pcie) := by
  unfold State.rowOut
  extract_lets
  split
  · split
    · exact .setCopy (.countRow (.piecesWrite hs))
    · exact .setCopy (.countRow (.foldl_fst (fun _ _ hs => .reduceRange hs) hs))
  · exact .ite (.setCopy hs) (.setCopy (.countRow hs))
  · refine .ite (.setCopy hs) (.ite hs ?_)
    split
    · exact hs
    · next t ht => exact .setCopy (OptOk.sendAll hs t ht)

theorem MemOk.rowBegin {e : Engine} {it : CopyItem} {env : RowEnv} (hs : MemOk s) : MemOk (s.rowBegin e it env) := by
  unfold State.rowBegin
  extract_lets
  split
  · exact hs
  · exact .setCopy hs
  · extract_lets s1
    have h1 : MemOk s1.1 := .piecesRead hs
    split
    · exact .rowOut h1
    · split
      · exact .setCopy hs
      · exact .rowOut hs
      · exact hs
    · refine .ite (.setCopy hs) (.ite hs ?_)
      split
      · exact hs
      · next t ht => exact .setCopy (OptOk.sendAll hs t ht)

theorem OutOk.execCopyRow {e : Engine} {env : RowEnv} {m : ErrMap} (hs : MemOk s) : OutOk (execCopyRow e env m s) := by
  change MemOk _
  refine MemOk.finding _ (fun _ hs => ?_) hs
  split
  · exact hs
  · extract_lets
    refine .ite hs (.ite (.ite hs (.rowBegin hs)) (.ite hs (.ite (.setCopy hs) (.ite (.setCopy (.countRow hs)) ?_))))
    split
    · exact hs
    · exact .setCopy hs
    · exact .ite hs (.rowOut hs)

theorem MemOk.copyReply {e : Engine} {seq : W32} {status : Nat} {data : Option (Nat × List Byte)} (hs : MemOk s) :
    MemOk (s.copyReply e seq status data) := by
  unfold State.copyReply
  split
  · exact hs
  · exact .ite hs (.setCopy hs)

theorem OutOk.execCopyComplete {e : Engine} (hs : MemOk s) : OutOk (execCopyComplete e s) := by
  change MemOk _
  split
  · exact hs
  · extract_lets
    refine .ite hs (.ite (.copyDone (.setCopy hs)) (.ite (.ite hs (.ite (.copyDone (.setCopy hs)) (.copyDone (.setCopy hs)))) (.ite
        (.copyDone (.setCopy (.breakChan.2 hs))) (.ite hs ?_))))
    split
    · exact hs
    · next t ht => exact .setCopy (OptOk.sendClose hs t ht)

theorem OutOk.execPcieCompletionTimeout {e : Engine} (hs : MemOk s) : OutOk (execPcieCompletionTimeout e s) := by
  change MemOk _
  split
  · exact hs
  · exact .ite (.setCopy hs) hs

theorem OutOk.execPstream {w : Site} {ga : RegField} {hd sn : BitVec 4} {e : ErrMap} (hs : MemOk s) :
    OutOk (execPstream w ga hd sn e s) := by
  change MemOk _
  refine MemOk.issue hs fun _ hs => ?_
  refine .unitBody hs ?_
  refine .ite hs ?_
  refine .withRanges hs ?_
  split
  · extract_lets t
    have ht : MemOk t.1 := .reading hs (fun _ hs => .coreRead hs)
    refine .ite trivial (.ite ht (.ite (MemOk.modCore.2 ht) ?_))
    refine .hullsReady ?_
    split
    · exact ht
    · exact MemOk.modCore.2 ht
  · exact trivial

theorem MemOk.streamStep {c n : Nat} {p : PStream} (hs : MemOk s) : MemOk (s.streamStep c n p) := by
  unfold State.streamStep
  extract_lets
  split
  · exact .modCore.2 hs
  · exact .modCore.2 hs
  · exact .modCore.2 hs
  · exact .count (.modCore.2 (.modCore.2 hs))
  · exact hs

theorem OutOk.execPstreamFill {core : Fin 256} {sn : Fin 16} {arrives : Option (BitVec 8)} {e : ErrMap} (hs : MemOk s) :
    OutOk (execPstreamFill core sn arrives e s) := by
  change MemOk _
  split
  · exact .ite (.streamStep hs) hs
  · exact .ite hs (.finding _ (fun _ hs => .fillArrives hs) hs)

@[simp] theorem MemOk.setRing {c : Nat} {x : RingChan} : MemOk (s.setRing c x) ↔ MemOk s := Iff.rfl

theorem OutOk.execRingSubmit {chan : Fin 4096} {core : Fin 256} {value : BitVec 64} (hs : MemOk s) :
    OutOk (execRingSubmit chan core value s) := by
  change MemOk _
  exact MemOk.ite hs (.ite (.raise.2 (.setRing.2 hs)) (.setRing.2 hs))

theorem MemOk.ringDone {c : Nat} {it : RingItem} {status : Nat} (hs : MemOk s) : MemOk (s.ringDone c it status) := by
  unfold State.ringDone
  extract_lets _ _ _ s1 s2
  have h1 : MemOk s1 := .dropWaiter.2 (.dropWaiter.2 (.setRing.2 hs))
  have h2 : MemOk s2 := .ite h1 (.pendVec.2 h1)
  exact .ite h2 (.signal h2)

theorem MemOk.ringCancel {c : Nat} (hs : MemOk s) : MemOk (s.ringCancel c) := .foldl (fun _ _ hs => .ringDone hs) _ hs

@[simp] theorem MemOk.setRingHead {c : Nat} {it : RingItem} : MemOk (s.setRingHead c it) ↔ MemOk s := Iff.rfl

theorem MemOk.ringStart {c : Nat} {x : RingChan} {it : RingItem} (hs : MemOk s) : MemOk (s.ringStart c x it) := by
  unfold State.ringStart
  split
  · exact .ringDone hs
  · split
    · exact hs
    · exact .ringDone hs
    · extract_lets t
      have ht : MemOk t.1 := .piecesRead hs
      exact .ite hs (.ite (.ringDone ht) (.ite (.ringDone ht) (.ite (.ringDone ht) (.setRingHead.2 ht))))

theorem MemOk.ringWait {p : WaitParty} {d : DomNo} {obj n : Nat} (hs : MemOk s) : MemOk (s.ringWait p d obj n).1 := by
  unfold State.ringWait
  extract_lets
  split
  · exact .ite (.dropWaiter.2 hs) hs
  · split
    · split
      · exact .ite (.dropWaiter.2 hs) hs
      · exact hs
    · exact .addWaiter.2 (.objFetch hs)

theorem OptOk.ringSendAll {c m : Nat} {seq : W32} {l : List Packet} (hs : MemOk s) : OptOk (s.ringSendAll c m seq l) := by
  induction l generalizing s with
  | nil => exact .some hs
  | cons p l ih =>
    unfold State.ringSendAll
    split
    · exact .none
    · next t ht => exact ih (OptOk.sendTracked hs t ht)

theorem MemOk.ringSend {c : Nat} {x : RingChan} {it : RingItem} (hs : MemOk s) : MemOk (s.ringSend c x it) := by
  unfold State.ringSend
  extract_lets
  split
  · exact .ringDone hs
  · split
    · exact hs
    · exact .ringDone hs
    · extract_lets s1
      have h1 : MemOk s1.1 := .piecesRead hs
      refine .ite (.ringDone hs) (.ite hs ?_)
      split
      · exact hs
      · next t ht => exact .setRingHead.2 (OptOk.ringSendAll h1 t ht)

theorem MemOk.ringStep {c : Nat} (hs : MemOk s) : MemOk (s.ringStep c) := by
  unfold State.ringStep
  extract_lets
  split
  · exact hs
  · extract_lets s1 s2
    have h1 : MemOk s1.1 := by
      unfold s1
      split
      · exact .ringWait hs
      · exact hs
    have h2 : MemOk s2.1 := by
      unfold s2
      split
      · exact .ringWait h1
      · exact h1
    exact .ite (.ringStart hs) (.ite hs (.ite (.ringDone hs) (.ite (.setRingHead.2 hs) (.ite (.ite h1 (.ite h2 (.ringSend h2))) (.ite hs
        (.ringDone hs))))))

theorem MemOk.ringCreditSend {c : Nat} (hs : MemOk s) : MemOk (s.ringCreditSend c) := by
  unfold State.ringCreditSend
  extract_lets
  split
  · exact hs
  · extract_lets _ s1
    have h1 : MemOk s1.1 := .ringWait hs
    refine .ite hs (.ite h1 (.ite (.ringDone h1) (.ite h1 ?_)))
    split
    · exact h1
    · next t ht => exact .setRingHead.2 (OptOk.sendTracked h1 t ht)

theorem MemOk.ringReply {c : Nat} {seq : W32} {status : Nat} {credit : Bool} (hs : MemOk s) : MemOk (s.ringReply c seq status credit) := by
  unfold State.ringReply
  split
  · exact hs
  · exact .ite (.setRingHead.2 hs) hs

end Sys2Proof.Machine
end

section
/-! PROOFS. Memory stays canonical: domains, their pages and their revocation. -/

namespace Sys2Proof.Machine

variable {s : State}

@[simp] theorem MemOk.dropTlb {d : DomNo} {va n : Nat} : MemOk (s.dropTlb d va n) ↔ MemOk s := Iff.rfl

theorem MemOk.dropLines {pa n : Nat} {back : Bool} (hs : MemOk s) : MemOk (s.dropLines pa n back) := by
  unfold State.dropLines
  extract_lets _ s1
  have h1 : MemOk s1 := by
    unfold s1
    refine .ite ?_ hs
    refine .foldl (fun _ _ hs => ?_) _ hs
    extract_lets s2
    have h2 : MemOk s2 := .foldl (fun _ _ hs => .ite (.evictWay _ _ hs) hs) _ hs
    exact .foldl (fun _ _ hs => .ite (.evictLine _ _ hs) hs) _ h2
  exact .update h1

theorem MemOk.loseLines {pa n : Nat} (hs : MemOk s) : MemOk (s.loseLines pa n) := by
  unfold State.loseLines
  extract_lets outside t
  have ht : MemOk t := .dropLines hs
  refine .ite hs ⟨?_, ht.2⟩
  refine foldl_keeps (P := fun m => Memory.wf m = true) (fun m c hm => ?_) _ _ (tkeep_wf ht.1)
  split
  · exact hm
  · exact tset_wf hm

theorem MemOk.huskPages {l : List (Nat × Nat)} (hs : MemOk s) : MemOk (s.huskPages l) :=
  .foldl (fun _ _ hs => .huskRange _ _ (.dropLines hs)) _ hs

theorem MemOk.sweepHulls {d : DomNo} (hs : MemOk s) : MemOk (s.sweepHulls d) :=
  .update (.update (.foldl (fun _ _ hs => .writeMem _ _ hs) _ hs))

theorem MemOk.endCalls {d : DomNo} (hs : MemOk s) : MemOk (s.endCalls d) := by
  unfold State.endCalls
  refine .foldl (fun _ _ hs => ?_) _ hs
  refine .ite hs ?_
  refine .foldl (fun _ _ hs => ?_) _ hs
  extract_lets
  split
  · exact .takeFault (.dropWaiter.2 (.setStrand.2 (.dropBuf.2 hs)))
  · exact hs

theorem MemOk.cancelInOrder {c : Nat} {p : CopyItem → Bool} (hs : MemOk s) : MemOk (s.cancelInOrder c p) :=
  .foldl (fun _ _ hs => .cancelCopies (.modCore.2 hs)) _ hs

theorem MemOk.cancelStreamsOf {c : Nat} {d : DomNo} (hs : MemOk s) : MemOk (s.cancelStreamsOf c d) :=
  .foldl (fun _ _ hs => .streamDone hs) _ (.modCore.2 (.ite hs (.dropWaiter.2 hs)))

theorem MemOk.cancelForeign {c : Nat} {d : DomNo} (hs : MemOk s) : MemOk (s.cancelForeign c d) := by
  unfold State.cancelForeign
  exact .modCore.2 (.cancelStreamsOf (.cancelInOrder hs))

theorem MemOk.cancelUpdates {d : DomNo} (hs : MemOk s) : MemOk (s.cancelUpdates d) :=
  .foldl (fun _ _ hs => .foldl (fun _ _ hs => .ite (.updUnbind hs) (.ite (.setUpdQueue.2 (.updCancelQueue hs)) hs)) _ hs) _ hs

theorem MemOk.cancelRings {d : DomNo} (hs : MemOk s) : MemOk (s.cancelRings d) :=
  .foldl (fun _ _ hs => .ite (.setRing.2 (.ringCancel hs)) (.ite (.ringCancel hs) hs)) _ hs

theorem MemOk.returnGrants {d : DomNo} (hs : MemOk s) : MemOk (s.returnGrants d) := by
  unfold State.returnGrants
  extract_lets _ _ _ _ _ _ t
  have ht : MemOk t := .foldl (fun _ _ hs => .ite (.dropOpen hs) hs) _ (.cancelXfers (.update (.update (.cancelRings hs))))
  exact .modGrn.2 ht

theorem MemOk.dropMailboxes {d : DomNo} (hs : MemOk s) : MemOk (s.dropMailboxes d) := by
  unfold State.dropMailboxes
  extract_lets t
  have ht : MemOk t := .foldl (fun _ _ hs => .ite (.setMbx.2 (.abortMbx hs)) (.ite (.abortMbx hs) hs)) _ hs
  exact .modMgmt.2 ht

@[simp] theorem MemOk.vacateCore {c : Nat} : MemOk (s.vacateCore c) ↔ MemOk s := Iff.rfl

theorem MemOk.revokeBegin {d : DomNo} (hs : MemOk s) : MemOk (s.revokeBegin d) := by
  unfold State.revokeBegin
  extract_lets _ _ _ _ s1 _ s2 _ _ _ s3 _ s4
  have h1 : MemOk s1 := by
    unfold s1
    refine .foldl (fun _ _ hs => ?_) _ (.domainMsix (.modDom.2 hs))
    extract_lets s5
    have h5 : MemOk s5 := .dropCoreWaiters.2 (.cancelCoreUpdates (.cancelCoreCopies hs))
    exact .modCore.2 h5
  have h2 : MemOk s2 := .foldl (fun _ _ hs => .ite hs (.cancelForeign hs)) _ (.endCalls h1)
  have h3 : MemOk s3 := .foldl (fun _ _ hs => .ite (.pendAll hs) hs) _ (.dropMailboxes (.returnGrants (.cancelUpdates
      (.cancelDieCopies h2))))
  have h4 : MemOk s4 := .foldl (fun _ _ hs => .loseLines hs) _ (.resetNamespace h3)
  exact .ite hs (.update (.modDom.2 h4))

theorem MemOk.revokeEnd {d : DomNo} {us : Nat} (hs : MemOk s) : MemOk (s.revokeEnd d us) := by
  unfold State.revokeEnd
  extract_lets _ _ s1 _ _ s2 _ _ _ _ s3
  have h1 : MemOk s1 := .foldl (fun _ _ hs => .raise.2 (.setPod.2 hs)) _ hs
  have h2 : MemOk s2 := .raise.2 (.huskPages (.sweepHulls h1))
  have h3 : MemOk s3 := .foldl (fun _ _ hs => .vacateCore.2 hs) _ (.update (.ite (.setGrnObj.2 h2) h2))
  exact .ite hs (.raise.2 (.setDom.2 (.foldl (fun _ _ hs => .raise.2 hs) _ h3)))

theorem MemOk.revoke {d : DomNo} {us : Nat} (hs : MemOk s) : MemOk (s.revoke d us) := .revokeEnd (.revokeBegin hs)

theorem OutOk.execDomainRevoke {m : Fin 320} {us : BitVec 32} (hs : MemOk s) : OutOk (execDomainRevoke m us s) := by
  change MemOk _
  extract_lets
  split
  · exact .ite (.respond (.revokeEnd hs)) hs
  · refine .serve hs fun _ _ hs => ?_
    extract_lets t
    have ht : MemOk t := .revokeBegin hs
    exact .ite (.holdCmd.2 ht) ht

theorem MemOk.writePte {a : Nat} {e : W64} (hs : MemOk s) : MemOk (s.writePte a e) := .writeMem _ _ hs

theorem MemOk.setPte {d : DomNo} {level va : Nat} {e : W64} (hs : MemOk s) : MemOk (s.setPte d level va e) := by
  unfold State.setPte
  split
  · exact .writePte hs
  · exact hs

theorem MemOk.newTable {d : DomNo} {level : Nat} (hs : MemOk s) : ∀ r, s.newTable d level = some r → MemOk r.1 := by
  unfold State.newTable
  extract_lets r n
  intro q
  split
  · exact nofun
  · refine memOk_of_some_eq ?_
    exact .modDom.2 (.huskPages (.fresh hs))

theorem MemOk.makeTable {d : DomNo} {va level : Nat} (hs : MemOk s) : ∀ r, s.makeTable d va level = some r → MemOk r.1 := by
  induction level with
  | zero => simp [State.makeTable]
  | succ level ih =>
    intro t
    unfold State.makeTable
    split
    · exact nofun
    · exact memOk_of_some_eq hs
    · next n _ hn =>
      obtain rfl := Nat.succ.inj hn
      split
      · exact nofun
      · next r hr =>
        extract_lets a e
        split
        · exact memOk_of_some_eq (ih r hr)
        · split
          · exact nofun
          · next q hq =>
            refine memOk_of_some_eq ?_
            exact .writePte (MemOk.newTable (ih r hr) q hq)

/-- A fold over a state that may not be there keeps the canonical form when each of its steps does. -/
theorem OptOk.foldl {β : Type} {f : Option State → β → Option State} (hf : ∀ o b, OptOk o → OptOk (f o b)) (l : List β)
    {o : Option State} (ho : OptOk o) : OptOk (l.foldl f o) := foldl_keeps (P := OptOk) hf l o ho

theorem OptOk.bind {o : Option State} {f : State → Option State} (ho : OptOk o) (hf : ∀ t, MemOk t → OptOk (f t)) :
    OptOk (o.bind f) := by
  cases o with
  | none => exact .none
  | some t => exact hf t (ho t rfl)

theorem OptOk.map {o : Option State} {f : State → State} (ho : OptOk o) (hf : ∀ t, MemOk t → MemOk (f t)) : OptOk (o.map f) := by
  cases o with
  | none => exact .none
  | some t => exact .some (hf t (ho t rfl))

theorem OptOk.putLeaf {d : DomNo} {level va : Nat} {e : W64} (hs : MemOk s) : OptOk (s.putLeaf d level va e) := by
  unfold State.putLeaf
  cases h : s.makeTable d va level with
  | none => exact .none
  | some r => exact .some (.writePte (MemOk.makeTable hs r h))

@[simp] theorem MemOk.own {d : DomNo} {pa n : Nat} : MemOk (s.own d pa n) ↔ MemOk s := Iff.rfl

theorem MemOk.freeFrame {d : DomNo} {pa n : Nat} (hs : MemOk s) : MemOk (s.freeFrame d pa n) := .modDom.2 (.huskPages hs)

theorem OptOk.mapHbm {d : DomNo} {x va n : Nat} (hs : MemOk s) : OptOk (s.mapHbm d x va n) := by
  induction n generalizing s va with
  | zero => exact .some hs
  | succ n ih =>
    unfold State.mapHbm
    extract_lets r
    split
    · exact .none
    · split
      · exact .none
      · next t ht => exact ih (OptOk.putLeaf (.own.2 (.fresh hs)) t ht)

theorem OptOk.mapStacks {d : DomNo} {n va : Nat} {l : List Nat} (hs : MemOk s) : OptOk (s.mapStacks d n va l) := by
  induction l generalizing s va with
  | nil => exact .some hs
  | cons x l ih =>
    unfold State.mapStacks
    split
    · exact .none
    · next t ht => exact ih (OptOk.mapHbm hs t ht)

theorem OptOk.mapScratch {d : DomNo} {c : Nat} (hs : MemOk s) : OptOk (s.mapScratch d c) :=
  .foldl (fun _ _ ho => .bind ho fun _ ht => .putLeaf (.own.2 ht)) _ (.some hs)

@[simp] theorem MemOk.giveMailbox {d : DomNo} {i : Nat} : MemOk (s.giveMailbox d i) ↔ MemOk s := Iff.rfl

@[simp] theorem MemOk.assignCore {d : DomNo} {c : Nat} : MemOk (s.assignCore d c) ↔ MemOk s := Iff.rfl

theorem OptOk.createDomain {d i : Nat} {cores hbmStacks : List Nat} {hbm backing quota : Nat} (hs : MemOk s) :
    OptOk (s.createDomain d i cores hbmStacks hbm backing quota) := by
  unfold State.createDomain
  -- The picker of frames stays a variable: the kernel would run it to compare the branches.
  obtain ⟨pick, hpick⟩ : ∃ f, State.pickFrame = f := ⟨_, rfl⟩
  rw [hpick]
  extract_lets _ t0
  split
  · exact .none
  · next r hr =>
    extract_lets t1
    have h1 : MemOk t1 := .modDom.2 (MemOk.newTable (.setDom.2 hs) r hr)
    split
    · exact .none
    · next t2 h2 =>
      have h2 := OptOk.mapStacks h1 t2 h2
      extract_lets r2
      split
      · exact .none
      · split
        · exact .none
        · next t3 h3 =>
          have h3 := OptOk.putLeaf (.own.2 (.fresh h2)) t3 h3
          refine .map (.foldl (fun _ _ ho => .map (.bind ho fun _ ht => .mapScratch ht) fun _ ht => .assignCore.2 ht) _ (.some h3)) ?_
          exact fun _ ht => .giveMailbox.2 ht

theorem MemOk.applyDomainCreate {m : Nat} (hs : MemOk s) : MemOk (s.applyDomainCreate m) := by
  unfold State.applyDomainCreate
  extract_lets _ _ _ _ _ s1
  have h1 : MemOk s1.1 := .fresh hs
  refine .ite (.respond hs) ?_
  split
  · exact .respond hs
  · iterate 4 refine .ite (.respond hs) ?_
    split
    · split
      · next t ht => exact .respond (OptOk.createDomain h1 t ht)
      · exact .respond hs
    · exact .respond hs

theorem OutOk.execDomainStart {m : Fin 320} (hs : MemOk s) : OutOk (execDomainStart m s) := by
  change MemOk _
  refine MemOk.serve hs fun _ _ hs => ?_
  iterate 4 refine .ite (.respond hs) ?_
  split
  · exact .respond hs
  · exact .respondOk (.setStrand.2 hs)

theorem OutOk.execPageMap {m : Fin 320} (hs : MemOk s) : OutOk (execPageMap m s) := by
  change MemOk _
  refine MemOk.serve hs fun s d hs => ?_
  extract_lets _ _ _ va _ level n _ _ _ e done r spot
  have hdone (t : State) (f : Nat) (ht : MemOk t) : MemOk (done t f) := by
    unfold done
    split
    · next u hu => exact .respond (OptOk.putLeaf (.own.2 ht) u hu)
    · exact .respond ht
  clear_value done spot level n
  refine .ite (.respond hs) (.ite (.respond hs) (.ite (.respond hs) ?_))
  split
  · exact .respond hs
  · split
    · exact .respond hs
    · iterate 3 refine .ite (.respond hs) ?_
      exact hdone _ _ (.ite hs (.fresh hs))

theorem MemOk.unmapDone {m : Nat} {d : DomNo} {pa n free : Nat} (hs : MemOk s) : MemOk (s.unmapDone m d pa n free) :=
  .ite (.holdCmd.2 hs) (.respondOk (.ite (.freeFrame hs) hs))

theorem OutOk.execPageUnmap {m : Fin 320} (hs : MemOk s) : OutOk (execPageUnmap m s) := by
  change MemOk _
  extract_lets
  split
  · exact .ite (.finding _ (fun _ hs => .unmapDone hs) hs) hs
  · refine .serve hs fun _ _ hs => ?_
    extract_lets _ _ t
    have ht : MemOk t := .modDom.2 (.dropTlb.2 (.setPte hs))
    refine .ite (.respond hs) (.ite (.respond hs) (.ite (.respond hs) ?_))
    split
    · exact .respond hs
    · exact .ite (.respond hs) (.ite hs (.ite (.respondOk (.setGrnObj.2 ht)) (.unmapDone ht)))

theorem MemOk.applyQuotaSet {m : Nat} (hs : MemOk s) : MemOk (s.applyQuotaSet m) := .ite (.respond hs) (.respondOk (.modDom.2 hs))

theorem MemOk.wakeEntries (hs : MemOk s) : MemOk s.wakeEntries := by
  unfold State.wakeEntries
  refine .foldl (fun _ _ hs => ?_) _ hs
  refine .foldl (fun _ _ hs => ?_) _ hs
  extract_lets
  split
  · exact .resumeEntry hs
  · exact hs

theorem MemOk.wakePage {d : DomNo} {base n : Nat} (hs : MemOk s) : MemOk (s.wakePage d base n) := .wakeEntries (.update hs)

theorem OutOk.execPageIn {dom : DomId} {va : Nat} {supplied : Bool} {err : ErrMap} (hs : MemOk s) :
    OutOk (execPageIn dom va supplied err s) := by
  change MemOk _
  extract_lets
  refine MemOk.finding _ (fun _ hs => ?_) hs
  extract_lets _ t
  have ht : MemOk t.1 := .fresh hs
  split
  · exact hs
  · extract_lets
    refine .ite hs (.ite (.wakePage (.modDom.2 (.raise.2 (.modGrn.2 ht)))) (.ite hs ?_))
    split
    · exact hs
    · exact .wakePage (.countDie _ _ _ _ (.raise.2 (.modDom.2 (.setGrnObj.2 (.setPte (.writeMem _ _ (.own.2 ht)))))))

theorem OutOk.execPageOut {dom : DomId} {va : Nat} {e : ErrMap} (hs : MemOk s) : OutOk (execPageOut dom va e s) := by
  change MemOk _
  extract_lets
  refine MemOk.finding _ (fun _ hs => ?_) hs
  extract_lets
  split
  · exact hs
  · extract_lets _ _ _ _ _ _ t
    have ht : MemOk t.1 := .fresh (.dropLines (.dropTlb.2 (.setPte hs)))
    exact .ite hs (.ite hs (.raise.2 (.freeFrame (.countDie _ _ _ _ (.wear (.setGrnObj.2 ht))))))

end Sys2Proof.Machine
end

section
/-! PROOFS. Memory stays canonical: links and packets, grants, the recorder and tile transfers. -/

namespace Sys2Proof.Machine

variable {s : State}

theorem OutOk.execFlitSend {port : Fin 36} (hs : MemOk s) : OutOk (execFlitSend port s) := by
  change MemOk _
  extract_lets _ _ t
  have ht : MemOk t := .countDie _ _ _ _ hs
  refine MemOk.ite hs ?_
  split
  · exact .setPort.2 ht
  · split
    · exact .setPort.2 ht
    · exact .setPort.2 (.bwAdd.2 ht)

theorem MemOk.arrive {k key : Nat} {p : Packet} {charges : List Bool} (hs : MemOk s) : MemOk (s.arrive k key p charges) :=
  .ite (.discard (.modPort.2 hs)) (.ite (.raise.2 (.modPort.2 hs)) (.modPort.2 hs))

theorem MemOk.cutPackets {fuel : Nat} {k key : Nat} (hs : MemOk s) : MemOk (State.cutPackets fuel s k key) := by
  induction fuel generalizing s with
  | zero => exact hs
  | succ fuel ih =>
    unfold State.cutPackets
    extract_lets c
    split
    · exact hs
    · exact .ite hs (ih (.arrive (.modPort.2 hs)))

@[simp] theorem MemOk.rejectFlit {k seq : Nat} {unread : Bool} : MemOk (s.rejectFlit k seq unread) ↔ MemOk s := Iff.rfl

theorem OutOk.execFlitReceive {port : Fin 36} {block : List Byte} (hs : MemOk s) : OutOk (execFlitReceive port block s) := by
  change MemOk _
  refine MemOk.ite hs ?_
  split
  · exact .rejectFlit.2 (.modPort.2 hs)
  · extract_lets s1 _ s2
    have h1 : MemOk s1 := .modPort.2 hs
    have h2 : MemOk s2 := .modPort.2 h1
    exact .ite (.rejectFlit.2 h1) (.ite h2 (.ite (.rejectFlit.2 h2) (.cutPackets (.setPort.2 (.bwAdd.2 (.countDie _ _ _ _ h2))))))

theorem OutOk.execRetrain {port : Fin 36} {fails : Bool} {locked : BitVec 16} (hs : MemOk s) : OutOk (execRetrain port fails locked s) := by
  change MemOk _
  extract_lets _ _ _ _ t
  have ht : MemOk t := .setPort.2 hs
  exact MemOk.ite hs (.ite (.portDown ht) (.ite ht (.setMask ht)))

theorem OutOk.execLaneMaskChange {port : Fin 36} {tx : Bool} (hs : MemOk s) : OutOk (execLaneMaskChange port tx s) := by
  change MemOk _
  extract_lets
  split
  · exact .ite (.setMask hs) hs
  · exact hs

theorem MemOk.rxMaskAsked {k : Nat} {m : W16} (hs : MemOk s) : MemOk (s.rxMaskAsked k m) := by
  unfold State.rxMaskAsked
  extract_lets t
  have ht : MemOk t := .setMask hs
  exact .ite (.modPort.2 ht) ht

theorem MemOk.dropWl {g wl : Nat} (hs : MemOk s) : MemOk (s.dropWl g wl) := by
  unfold State.dropWl
  refine .foldl (fun _ _ hs => ?_) _ hs
  extract_lets _ _ t
  have ht : MemOk t := .setPort.2 hs
  exact .ite (.setMask ht) ht

theorem OutOk.execLaserFail {group : Fin 9} {wl : Option (Fin 16)} (hs : MemOk s) : OutOk (execLaserFail group wl s) := by
  change MemOk _
  extract_lets _ _ s1
  have h1 : MemOk s1 := .raise.2 (.setLasers.2 hs)
  split
  · refine .ite hs ?_
    split
    · exact .raise.2 (.setLasers.2 h1)
    · exact h1
  · extract_lets _ _ s2
    have h2 : MemOk s2 := .dropWl (.setLasers.2 hs)
    exact .ite (.raise.2 (.dropWl (.setLasers.2 hs))) (.ite hs (.ite (.raise.2 h2) h2))

theorem OutOk.execLaserTakeover {group : Fin 9} (hs : MemOk s) : OutOk (execLaserTakeover group s) := by
  change MemOk _
  extract_lets
  split
  · exact .ite hs (.raise.2 (.setLasers.2 hs))
  · exact hs

theorem MemOk.pctlRequest {k : Nat} {turnOn : Bool} (hs : MemOk s) : MemOk (s.pctlRequest k turnOn) :=
  .ite (.raise.2 (.setPort.2 hs)) (.startRequest (.setPort.2 hs))

theorem MemOk.upFails {k step : Nat} (hs : MemOk s) : MemOk (s.upFails k step) := .runLatched (.raise.2 (.modPort.2 hs))

theorem OutOk.execPortPowerUp {port : Fin 36} {env : PortEnv} (hs : MemOk s) : OutOk (execPortPowerUp port env s) := by
  change MemOk _
  extract_lets _ _ _ _ s1 _ _ _ s2 s3
  have h1 : MemOk s1 := .setLasers.2 hs
  have h2 : MemOk s2 := .setPort.2 h1
  have h3 : MemOk s3 := .ite (.idConflict h2) h2
  exact MemOk.ite hs (.ite (.upFails hs) (.ite (.upFails h1) (.ite (.upFails h1) (.ite (.upFails h1) (.ite (.upFails h3) (.runLatched
      (.raise.2 (.update (.setPort.2 h3)))))))))

theorem MemOk.portOff {k : Nat} (hs : MemOk s) : MemOk (s.portOff k) := .runLatched (.lasersOff (.modPort.2 hs))

@[simp] theorem MemOk.rxTake {k vc cls : Nat} {x : RxPkt} : MemOk (s.rxTake k vc cls x) ↔ MemOk s := Iff.rfl

theorem OutOk.execPacketForward {port : Fin 36} {vc : Fin 8} {cls : Fin 4} (hs : MemOk s) : OutOk (execPacketForward port vc cls s) := by
  change MemOk _
  split
  · exact .ite (.forward (.rxTake.2 hs)) hs
  · exact hs

theorem MemOk.takeOrWait {d : Nat} {f : State → Packet → State} {p : Packet} (hs : MemOk s)
    (hf : ∀ t p, MemOk t → MemOk (f t p)) : MemOk (s.takeOrWait d f p) := .ite hs (hf _ _ hs)

theorem MemOk.onPacket {port : Fin 36} {vc : Fin 8} {cls : Fin 4} {kind : Nat} {f : State → Packet → State} (hs : MemOk s)
    (hf : ∀ t p, MemOk t → MemOk (f t p)) : MemOk (s.onPacket port vc cls kind f) := by
  unfold State.onPacket
  split
  · exact .ite (.takeOrWait (.rxTake.2 hs) hf) hs
  · exact hs

theorem MemOk.rdreq {d : Nat} {p : Packet} (hs : MemOk s) : MemOk (s.rdreq d p) := by
  unfold State.rdreq
  refine .ite (.ackTo hs) (.ite (.ackTo hs) ?_)
  split
  · extract_lets t
    have ht : MemOk t.1 := .piecesRead hs
    exact .getD (.inject ht) ht
  · exact .ackTo hs
  · exact .ackTo hs

theorem MemOk.trackerDone {t : Tracker} {status : Nat} {data : List Byte} (hs : MemOk s) : MemOk (s.trackerDone t status data) := by
  unfold State.trackerDone
  extract_lets _ t
  have ht : MemOk t := .update hs
  split
  · exact .copyReply ht
  · exact .copyReply ht
  · exact .copyReply (.ite ht (.breakChan.2 ht))
  · exact .ite ht (.breakChan.2 ht)
  · exact .syncAcked ht
  · exact .ringReply ht
  · exact .ringReply ht
  · exact ht

theorem MemOk.reply {tag status : Nat} {data : List Byte} (hs : MemOk s) : MemOk (s.reply tag status data) := by
  unfold State.reply
  split
  · exact .trackerDone hs
  · exact hs

theorem MemOk.noteRefused {p : Packet} {refuse : Bool} (hs : MemOk s) : MemOk (s.noteRefused p refuse) :=
  .ite (.setChan.2 hs) (.ite (.setChan.2 hs) hs)

theorem MemOk.land {d : Nat} {p : Packet} {reduce : Bool} (hs : MemOk s) : MemOk (s.land d p reduce) := by
  unfold State.land
  extract_lets _ s1
  have h1 : MemOk s1 := .noteRefused hs
  split
  · exact .ackTo (.noteRefused hs)
  · split
    · exact .ackTo h1
    · exact .ackTo h1
    · refine .ite (.ackTo (.piecesWrite h1)) ?_
      split
      · exact .ackTo h1
      · extract_lets s2
        have h2 : MemOk s2.1 := .foldl_fst (fun _ _ hs => .reduceRange hs) h1
        exact .ackTo h2

theorem MemOk.takeClose {fuel : Nat} {c : Nat} (hs : MemOk s) : MemOk (State.takeClose fuel s c) := by
  induction fuel generalizing s with
  | zero => exact hs
  | succ fuel ih =>
    unfold State.takeClose
    extract_lets ch
    split
    · exact hs
    · extract_lets t
      exact ih (.ackTo (.ite (.objSignal (.setChan.2 hs)) (.setChan.2 hs)))

theorem MemOk.remoteSync {p : Packet} (hs : MemOk s) : MemOk (s.remoteSync p).1 := by
  unfold State.remoteSync
  split
  · exact hs
  · extract_lets
    split
    · exact hs
    · split
      · exact hs
      · extract_lets
        split
        · exact hs
        · exact .objPerform hs

theorem OutOk.execSync {port : Fin 36} {vc : Fin 8} {cls : Fin 4} (hs : MemOk s) : OutOk (execSync port vc cls s) := by
  change MemOk _
  refine MemOk.onPacket hs fun _ _ hs => ?_
  extract_lets t
  have ht : MemOk t.1 := .remoteSync hs
  exact .ackTo ht

theorem MemOk.ringLand {d : Nat} {p : Packet} (hs : MemOk s) : MemOk (s.ringLand d p) := by
  unfold State.ringLand
  refine .ite (.ackTo hs) ?_
  split
  · extract_lets t
    have ht : MemOk t := .piecesWrite hs
    exact .ackTo (.ite (.objSignal ht) ht)
  · exact .ackTo hs
  · exact .ackTo hs

theorem MemOk.podPortsGo (hs : MemOk s) : MemOk s.podPortsGo :=
  .foldl (fun _ _ hs => .takeOrWait hs (fun _ _ hs => .ite (.rdreq hs) (.ite (.land hs) (.ringLand hs)))) _ (.update hs)

theorem OutOk.execIdClaimReceive {id : BitVec 12} {serial : BitVec 64} {hops : Fin 4} (hs : MemOk s) :
    OutOk (execIdClaimReceive id serial hops s) := by
  change MemOk _
  extract_lets _ _ t
  have ht : MemOk t := .ite (.idConflict hs) hs
  exact MemOk.ite ht (.update ht)

theorem MemOk.routeCommit {d : Nat} (hs : MemOk s) : MemOk (s.routeCommit d) := .ite hs (.setSwitch.2 hs)

theorem OutOk.execRouteEpochRetire {die : Fin 4} (hs : MemOk s) : OutOk (execRouteEpochRetire die s) := by
  change MemOk _
  extract_lets _ _ t
  have ht : MemOk t := .raise.2 (.setSwitch.2 hs)
  exact MemOk.ite hs (.ite ht (.respondWaiting ht))

theorem OutOk.execHullLend {m : Fin 320} (hs : MemOk s) : OutOk (execHullLend m s) := by
  change MemOk _
  refine MemOk.serve hs fun _ _ hs => ?_
  iterate 5 refine .ite (.respond hs) ?_
  split
  · exact .respond hs
  · exact .respondOk (.putHull (.modDom.2 hs))

theorem MemOk.ownSlots {d : DomNo} {k a n : Nat} (hs : MemOk s) : MemOk (s.ownSlots d k a n) :=
  .foldl (fun _ _ hs => .ite (.setSchedSlot.2 hs) (.ite (.setLossSlot.2 hs) hs)) _ hs

theorem OutOk.execRightGrant {m : Fin 320} (hs : MemOk s) : OutOk (execRightGrant m s) := by
  change MemOk _
  refine MemOk.serve hs fun _ _ hs => ?_
  extract_lets _ _ _ _ _ _ r spot t
  have ht : MemOk t := .ite (.fresh hs) hs
  clear_value spot
  iterate 6 refine .ite (.respond hs) ?_
  split
  · exact .respond hs
  · split
    · exact .respond hs
    · exact .respond (.addRight.2 (.putHull (.ownSlots ht)))

theorem OutOk.execSyncGrant {m : Fin 320} (hs : MemOk s) : OutOk (execSyncGrant m s) := by
  change MemOk _
  refine MemOk.serve hs fun _ _ hs => ?_
  extract_lets _ _ _ r spot t
  have ht : MemOk t := .ite (.fresh hs) hs
  clear_value spot
  iterate 4 refine .ite (.respond hs) ?_
  split
  · exact .respond hs
  · split
    · exact .respond hs
    · exact .respond hs
    · exact .respond (.putHull (.update ht))

theorem OutOk.execUpdqBind {m : Fin 320} (hs : MemOk s) : OutOk (execUpdqBind m s) := by
  change MemOk _
  refine MemOk.serve hs fun _ _ hs => ?_
  extract_lets _ _ _ r spot t
  have ht : MemOk t := .ite (.fresh hs) hs
  clear_value spot
  refine .ite (.respond hs) (.ite (.respond hs) (.ite (.respond hs) ?_))
  split
  · exact .respond hs
  · split
    · exact .respond hs
    · exact .respond hs
    · exact .respond (.putHull (.setUpdQueue.2 ht))

theorem OutOk.execMbxGrant {m : Fin 320} (hs : MemOk s) : OutOk (execMbxGrant m s) := by
  change MemOk _
  refine MemOk.serve hs fun _ _ hs => ?_
  extract_lets t
  have ht : MemOk t.1 := .fresh hs
  split
  · exact .respond hs
  · split
    · exact .respond hs
    · exact .respond (.putHull (.giveMailbox.2 ht))

theorem OutOk.execPeerPair {m : Fin 320} (hs : MemOk s) : OutOk (execPeerPair m s) := by
  refine MemOk.serve hs fun _ _ hs => ?_
  iterate 4 refine .ite (.respond hs) ?_
  exact .respondOk (.update hs)

theorem MemOk.grantChan {d : DomNo} {kind c : Nat} (hs : MemOk s) : MemOk (s.grantChan d kind c) := .ite hs (.addRight.2 hs)

theorem MemOk.configSender {m : Nat} {d : DomNo} {c : Nat} (hs : MemOk s) : MemOk (s.configSender m d c) := by
  unfold State.configSender
  extract_lets
  split
  · exact .respond hs
  · refine .ite (.respond hs) (.ite (.respond hs) ?_)
    split
    · exact .respond hs
    · exact .respondOk (.putHull (.grantChan (.setChan.2 hs)))

theorem MemOk.configReceiver {m : Nat} {d : DomNo} {c : Nat} (hs : MemOk s) : MemOk (s.configReceiver m d c) := by
  unfold State.configReceiver
  extract_lets
  split
  · exact .respond hs
  · iterate 5 refine .ite (.respond hs) ?_
    exact .respondOk (.setChan.2 hs)

theorem MemOk.configRing {m : Nat} {d : DomNo} {c : Nat} (hs : MemOk s) : MemOk (s.configRing m d c) := by
  unfold State.configRing
  extract_lets
  split
  · exact .respond hs
  · iterate 7 refine .ite (.respond hs) ?_
    split
    · exact .respondOk (.putHull (.putHull (.grantChan (.setRing.2 (.ringCancel hs)))))
    · exact .respond hs
    · exact .respond hs
    · exact .respond hs
    · exact .respond hs

theorem OutOk.execChanConfig {m : Fin 320} (hs : MemOk s) : OutOk (execChanConfig m s) := by
  refine MemOk.serve hs fun _ _ hs => ?_
  iterate 3 refine .ite (.respond hs) ?_
  exact .ite (.configSender hs) (.ite (.configReceiver hs) (.configRing hs))

theorem OutOk.execChanUnconfig {m : Fin 320} (hs : MemOk s) : OutOk (execChanUnconfig m s) := by
  refine MemOk.serve hs fun _ _ hs => ?_
  iterate 2 refine .ite (.respond hs) ?_
  exact .ite (.ite (.respond hs) (.respondOk (.setRing.2 (.ringCancel hs)))) (.ite (.respond hs) (.respondOk (.setChan.2 hs)))

@[simp] theorem MemOk.writeRoute {d m : Nat} {e : W64} : MemOk (s.writeRoute d m e) ↔ MemOk s := Iff.rfl

theorem OutOk.execRouteWrite {m : Fin 320} (hs : MemOk s) : OutOk (execRouteWrite m s) := by
  change MemOk _
  refine MemOk.serve hs fun _ _ hs => ?_
  refine .ite (.respond hs) (.ite (.respond hs) ?_)
  split
  · exact .respond hs
  · exact .ite (.respond hs) (.respondOk (.foldl (fun _ _ hs => .foldl (fun _ _ hs => .writeRoute.2 hs) _ hs) _ hs))

theorem OutOk.execPortPower {m : Fin 320} (hs : MemOk s) : OutOk (execPortPower m s) := by
  refine MemOk.serve hs fun _ _ hs => ?_
  exact .ite (.respond hs) (.ite (.respond hs) (.respondOk (.foldl (fun _ _ hs => .ite (.pctlRequest hs) hs) _ hs)))

theorem OutOk.execConflictClear {m : Fin 320} (hs : MemOk s) : OutOk (execConflictClear m s) := by
  change MemOk _
  refine MemOk.serve hs fun _ _ hs => ?_
  extract_lets _ _ _ _ t
  have ht : MemOk t := .update (.foldl (fun _ _ hs => .setSwitch.2 hs) _ hs)
  exact .ite (.respond hs) (.respondOk (.ite ht (.alertGone ht)))

@[simp] theorem MemOk.setEvrRec {c : Nat} {r : EvrRec} : MemOk (s.setEvrRec c r) ↔ MemOk s := Iff.rfl

@[simp] theorem MemOk.evrClear {first last : Nat} {dom : DomNo} {mbx : Option Nat} :
    MemOk (s.evrClear first last dom mbx) ↔ MemOk s := Iff.rfl

theorem MemOk.evrClrGo {dom : DomNo} {first last : Nat} (hs : MemOk s) : MemOk (s.evrClrGo dom first last) := by
  unfold State.evrClrGo
  split
  · exact hs
  · exact .evrClear.2 hs

theorem MemOk.evrCleared (hs : MemOk s) : MemOk s.evrCleared := by
  unfold State.evrCleared
  extract_lets s1
  have h1 : MemOk s1 := .modEvr.2 hs
  split
  · exact hs
  · extract_lets s2
    have h2 : MemOk s2 := by
      unfold s2
      split
      · exact .respondOk h1
      · exact h1
    split
    · exact h2
    · exact .evrClear.2 (.modEvr.2 h2)

theorem MemOk.applyOcc {o : Occ} (hs : MemOk s) : MemOk (s.applyOcc o) := by
  unfold State.applyOcc
  extract_lets _ t
  have ht : MemOk t := .countDie _ _ _ _ (.setEvrRec.2 hs)
  exact .ite (.evrCleared ht) ht

theorem OutOk.execOccurrenceApply (hs : MemOk s) : OutOk (execOccurrenceApply s) := by
  change MemOk _
  split
  · exact hs
  · exact .applyOcc (.modEvr.2 hs)

theorem MemOk.persist {c : Nat} {works : Bool} (hs : MemOk s) : MemOk (s.persist c works) := by
  unfold State.persist
  split
  · exact .raise.2 hs
  · exact .modEvr.2 (.modGrn.2 hs)

theorem MemOk.notify {n : Note} (hs : MemOk s) : MemOk (s.notify n) := by
  unfold State.notify
  extract_lets _ t
  have ht : MemOk t := .modEvr.2 hs
  exact .ite (.ite (.msix ht) ht) (.raise.2 (.modEvr.2 hs))

theorem MemOk.noteCode {c : Nat} {works : Bool} (hs : MemOk s) : MemOk (s.noteCode c works) := by
  unfold State.noteCode
  extract_lets _ _ _ s1 s2
  have h1 : MemOk s1 := .setEvrRec.2 hs
  have h2 : MemOk s2 := .ite (.persist h1) h1
  exact .setEvrRec.2 (.ite (.notify h2) h2)

theorem MemOk.noteTick {works : Bool} (hs : MemOk s) : MemOk (s.noteTick works) := .foldl (fun _ _ hs => .noteCode hs) _ hs

theorem MemOk.captureAll {mode : Nat} {skewed : Bool} (hs : MemOk s) : MemOk (s.captureAll mode skewed) :=
  .update (.foldl (fun _ _ hs => .modCore.2 hs) _ hs)

theorem OutOk.execPmcCaptureTc (hs : MemOk s) : OutOk (execPmcCaptureTc s) := by
  change MemOk _
  extract_lets
  split
  · exact hs
  · extract_lets _ t
    have ht : MemOk t := .captureAll (.update hs)
    split
    · exact .respond ht
    · exact ht

theorem MemOk.pmcWrap {set n weight : Nat} (hs : MemOk s) : MemOk (s.pmcWrap set n weight) :=
  .ite (.ite (.setCore.2 hs) hs) (.ite (.foldl (fun _ _ hs => .ite (.pendVec.2 hs) hs) _ (.update hs)) hs)

@[simp] theorem MemOk.setMon {m : Nat} {x : BwMon} : MemOk (s.setMon m x) ↔ MemOk s := Iff.rfl

theorem MemOk.bwWindowEnd {m : Nat} (hs : MemOk s) : MemOk (s.bwWindowEnd m) := by
  unfold State.bwWindowEnd
  extract_lets _ _ t
  have ht : MemOk t.1 := by
    unfold t
    split
    · exact .fresh hs
    · exact hs
  exact .setMon.2 ht

@[simp] theorem MemOk.bwClear {m : Nat} : MemOk (s.bwClear m) ↔ MemOk s := Iff.rfl

@[simp] theorem MemOk.bwFlip {m : Nat} {win : BitVec 17} : MemOk (s.bwFlip m win) ↔ MemOk s := Iff.rfl

theorem OutOk.execEvrRead {m : Fin 320} (hs : MemOk s) : OutOk (execEvrRead m s) := by
  change MemOk _
  refine MemOk.serve hs fun _ _ hs => ?_
  refine .ite (.respond hs) ?_
  split <;> exact .respond hs

theorem OutOk.execEvrClear {m : Fin 320} (hs : MemOk s) : OutOk (execEvrClear m s) := by
  change MemOk _
  refine MemOk.serve hs fun _ _ hs => ?_
  extract_lets _ _ _ t
  have ht : MemOk t := .holdCmd.2 hs
  refine .ite (.respond hs) (.ite (.respond hs) ?_)
  split
  · exact .modEvr.2 ht
  · exact .evrClear.2 ht

theorem OutOk.execPmcCapture {m : Fin 320} (hs : MemOk s) : OutOk (execPmcCapture m s) := by
  change MemOk _
  refine MemOk.serve hs fun _ _ hs => ?_
  refine .ite (.respond hs) (.ite (.respond hs) (.ite ?_ (.ite (.respond (.captureAll hs)) (.respond hs))))
  split
  · exact .respond (.requestCapture hs)
  · exact .requestCapture (.holdCmd.2 hs)

theorem RowOk.xferRow {c g : Nat} {x : TileXfer} {r : Nat} {e : ErrMap} (hs : MemOk s) : RowOk (s.xferRow c g x r e) := by
  unfold State.xferRow
  extract_lets _ _ _ _ _ s1 s2
  have h1 : MemOk s1 := .count hs
  have h2 : MemOk s2.1 := .tileCheck h1
  split
  · exact trivial
  · split
    · exact trivial
    · exact hs
    · extract_lets s3 s4
      have h3 : MemOk s3 := .ite (.count (.modCore.2 h1)) h1
      have h4 : MemOk s4.1 := .coreRead h3
      exact .ite hs (.ite (.ite hs (MemOk.ite h2 (.coreWrite h2))) (.ite hs (MemOk.ite (.setTileTable.2 h4) (.setTileRow.2 h4))))

theorem RowOk.moveRow {c g : Nat} {x : TileXfer} {r : Nat} {e : ErrMap} (hs : MemOk s) : RowOk (s.moveRow c g x r e) := by
  unfold State.moveRow
  refine .ite hs ?_
  split
  · extract_lets t
    have ht : MemOk t.1 := .tileCheck hs
    exact .ite hs (MemOk.ite (.setTileTable.2 ht) (.setTileRow.2 ht))
  · exact MemOk.ite (.setTileTable.2 hs) (.setTileRow.2 hs)

theorem RowOk.xferOne {c g : Nat} {x : TileXfer} {r : Nat} {e : ErrMap} (hs : MemOk s) : RowOk (s.xferOne c g x r e) := by
  unfold State.xferOne
  split
  · exact .xferRow hs
  · exact .xferRow hs
  · exact .moveRow hs

theorem MemOk.xferLoop {fuel : Nat} {c g : Nat} {x : TileXfer} {e : ErrMap} (hs : MemOk s) :
    MemOk (State.xferLoop fuel s c g x e).1 := by
  induction fuel generalizing s x with
  | zero => exact hs
  | succ fuel ih =>
    have h := RowOk.xferOne (c := c) (g := g) (x := x) (r := x.next) (e := e) hs
    unfold State.xferLoop
    split
    · exact hs
    · split
      · next t ht => rw [ht] at h; exact ih h
      · next t ht => rw [ht] at h; exact h
      · exact hs

theorem MemOk.runXfer {c g : Nat} {x : TileXfer} {e : ErrMap} (hs : MemOk s) : MemOk (s.runXfer c g x e).1 := by
  unfold State.runXfer
  extract_lets t
  have ht : MemOk t.1 := .xferLoop hs
  exact ht

theorem OutOk.opTransfer {w : Site} {store : Bool} {tile ga gb : RegField} {h : BitVec 4} {hint : BitVec 2} {tbl noalloc : Bool}
    {z : BitVec 2} {e : ErrMap} (hs : MemOk s) : OutOk (opTransfer w store tile ga gb h hint tbl noalloc z e s) := by
  unfold Machine.opTransfer
  extract_lets
  refine MemOk.finding _ (fun _ hs => ?_) hs
  refine .issue hs fun _ hs => ?_
  extract_lets _ _ _ _ _ s1 _ _ _ s2
  have h1 : MemOk s1.1 := .takeOrd hs
  have h2 : MemOk s2.1 := .runXfer (.setGroup.2 h1)
  refine .ite trivial (.ite hs ?_)
  refine .unitBody hs ?_
  refine .ite hs (.ite hs (.ite hs ?_))
  split
  · exact MemOk.setGroup.2 h2
  · exact MemOk.park.2 (.setGroup.2 h2)

theorem OutOk.execTileTransferDone {core : Fin 256} {group : Fin 2} {e : ErrMap} (hs : MemOk s) :
    OutOk (execTileTransferDone core group e s) := by
  change MemOk _
  extract_lets
  split
  · exact hs
  · extract_lets
    refine .ite hs ?_
    refine .finding _ (fun _ hs => ?_) hs
    extract_lets t
    have ht : MemOk t.1 := .runXfer hs
    split
    · exact .releaseTaskFences (.takeFault (.park.2 (.setGroup.2 ht)))
    · refine .ite (.setGroup.2 ht) ?_
      split
      · exact .setGroup.2 ht
      · exact .setGroup.2 ht
      · exact .releaseTaskFences (.retire.2 (.park.2 (.setGroup.2 ht)))

theorem ResOk.startEngine {w : Site} {kind : XferKind} {td : Nat} {table : Bool} {e : ErrMap} (hs : MemOk s) :
    ResOk (s.startEngine w kind td table e) := by
  unfold State.startEngine
  extract_lets _ _ s1 _ _ s2
  have h1 : MemOk s1.1 := .takeOrd hs
  have h2 : MemOk s2.1 := .runXfer (.setGroup.2 h1)
  exact MemOk.setGroup.2 h2

theorem MemOk.countBlock {w : Site} {pa : Nat} (hs : MemOk s) : MemOk (s.countBlock w pa) := by
  unfold State.countBlock
  extract_lets t
  have ht : MemOk t := .count hs
  exact .ite hs (.ite (.count ht) ht)

theorem OutOk.execTcfg {w : Site} {d ga b : RegField} {h : BitVec 4} {z : BitVec 6} {e : ErrMap} (hs : MemOk s) :
    OutOk (execTcfg w d ga b h z e s) := by
  change MemOk _
  refine MemOk.finding _ (fun _ hs => ?_) hs
  refine .issue hs fun _ hs => ?_
  refine .ite trivial (.ite hs ?_)
  refine .unitBody hs ?_
  refine .ite hs ?_
  split
  · exact hs
  · refine .onPage hs fun _ _ _ hs => ?_
    extract_lets s1 _ s2
    have h1 : MemOk s1.1 := .coreRead (.countBlock hs)
    have h2 : MemOk s2.1 := .takeOrd h1
    refine .ite trivial (.ite trivial ?_)
    split
    · exact h1
    · exact MemOk.park.2 (.setGroup.2 h2)

@[simp] theorem MemOk.applyCfg {c g : Nat} {block : List Nat} : MemOk (s.applyCfg c g block) ↔ MemOk s := Iff.rfl

theorem OutOk.execTcfgApply {core : Fin 256} {group : Fin 2} (hs : MemOk s) : OutOk (execTcfgApply core group s) := by
  change MemOk _
  extract_lets
  split
  · exact hs
  · exact .ite hs (.retire.2 (.park.2 (.applyCfg.2 hs)))

end Sys2Proof.Machine
end

section
/-! PROOFS. Memory stays canonical: power, resets and boot (the reset state has memory in canonical form). -/

namespace Sys2Proof.Machine

variable {s : State}

@[simp] theorem MemOk.setDmon {i : Nat} {x : DMon} : MemOk (s.setDmon i x) ↔ MemOk s := Iff.rfl

theorem MemOk.dmonClear {mask : BitVec 37} (hs : MemOk s) : MemOk (s.dmonClear mask) := .foldl (fun _ _ hs => .ite (.setDmon.2 hs) hs) _ hs

@[simp] theorem MemOk.startSequence {p : Nat} {park : Bool} : MemOk (s.startSequence p park) ↔ MemOk s := Iff.rfl

theorem MemOk.parkRequest {p : Nat} {park : Bool} (hs : MemOk s) : MemOk (s.parkRequest p park) :=
  .ite (.ite (.startSequence.2 hs) hs) (.ite (.ite hs (.startSequence.2 hs)) (.ite (.ite (.setPod.2 hs) hs) (.raise.2 (.setPod.2 hs))))

theorem MemOk.podLatched {p : Nat} (hs : MemOk s) : MemOk (s.podLatched p) := .ite (.parkRequest (.setPod.2 hs)) hs

theorem MemOk.answerParks (hs : MemOk s) : MemOk s.answerParks := by
  unfold State.answerParks
  refine .foldl (fun _ _ hs => ?_) _ hs
  extract_lets
  split
  · exact .ite (.ite (.respond hs) hs) hs
  · exact hs

theorem MemOk.noteAbandoned {p : Nat} (hs : MemOk s) : MemOk (s.noteAbandoned p) := by
  unfold State.noteAbandoned
  refine .foldl (fun _ _ hs => ?_) _ hs
  extract_lets
  split
  · exact .ite (.setMbx.2 hs) hs
  · exact hs

theorem MemOk.parkTick {p : Nat} (hs : MemOk s) : MemOk (s.parkTick p) :=
  .ite (.podLatched (.raise.2 (.setPod.2 hs))) (.ite (.podLatched (.raise.2 (.setPod.2 hs))) hs)

theorem MemOk.sampleTemps {env : TickEnv} (hs : MemOk s) : MemOk (s.sampleTemps env) := .foldl (fun _ _ hs => .modPwr.2 hs) _ hs

theorem MemOk.sampleRail {env : TickEnv} {r : Nat} (hs : MemOk s) : MemOk (s.sampleRail env r) := by
  unfold State.sampleRail
  extract_lets _ _ _ _ _ s1 _ s2 _ s3
  have h1 : MemOk s1 := .modPwr.2 hs
  have h2 : MemOk s2 := .ite (.alertCause (.raiseAos.2 h1)) h1
  have h3 : MemOk s3 := .setPod.2 h2
  exact .ite (.ite (.parkRequest h3) h3) h2

theorem MemOk.sampleRails {env : TickEnv} (hs : MemOk s) : MemOk (s.sampleRails env) :=
  .foldl (fun _ _ hs => .sampleRail hs) _ (.alertGone hs)

theorem MemOk.sampleModule {env : TickEnv} (hs : MemOk s) : MemOk (s.sampleModule env) := by
  unfold State.sampleModule
  extract_lets _ _ _ s1 s2
  have h1 : MemOk s1 := .modPwr.2 hs
  have h2 : MemOk s2 := .ite (.raise.2 h1) h1
  exact .ite (.alertCause h2) (.alertGone h2)

theorem MemOk.thermalPod {p : Nat} (hs : MemOk s) : MemOk (s.thermalPod p) := by
  unfold State.thermalPod
  extract_lets _ _ s1 _ _ _ _ _ s2
  have h1 : MemOk s1 := .ite (.raise.2 hs) hs
  have h2 : MemOk s2 := .setPod.2 h1
  exact .ite (.setPod.2 h1) (.ite (.raise.2 (.setPod.2 h1)) (.ite (.ite h2 (.raise.2 h2)) (.ite (.setPod.2 h1) (.setPod.2 h1))))

theorem MemOk.thermalTick (hs : MemOk s) : MemOk s.thermalTick := by
  unfold State.thermalTick
  extract_lets _ t
  have ht : MemOk t := .foldl (fun _ _ hs => .ite (.raise.2 hs) hs) _ (.foldl (fun _ _ hs => .thermalPod hs) _ hs)
  exact .ite (.alertCause ht) (.alertGone ht)

theorem MemOk.repace {p : Nat} {x : PodReg} (hs : MemOk s) : MemOk (s.repace p x) := by
  unfold State.repace
  extract_lets _ t
  have ht : MemOk t := .setPod.2 hs
  exact .ite (.pendAll ht) ht

theorem MemOk.capTick {power : Nat} (hs : MemOk s) : MemOk (s.capTick power) := by
  unfold State.capTick
  extract_lets l _ _ _ _ t1
  have h1 : MemOk t1 := by
    unfold t1
    split
    · exact .setPod.2 hs
    · exact hs
  clear_value t1 l
  split
  · exact hs
  · extract_lets _ _ _ _ t2 t3
    have h2 : MemOk t2 := .foldl (fun _ _ hs => .setPod.2 hs) _ h1
    have h3 : MemOk t3 := .ite (.raise.2 h2) h2
    refine .ite ?_ h3
    split
    · exact .raise.2 (.repace h3)
    · exact .raise.2 h3

theorem MemOk.floorTick (hs : MemOk s) : MemOk s.floorTick := by
  unfold State.floorTick
  refine .foldl (fun _ _ hs => ?_) _ hs
  extract_lets _ t
  have ht : MemOk t := .setDmon.2 hs
  exact .ite hs (.ite (.ite (.raise.2 (.setPod.2 ht)) (.raise.2 (.parkRequest ht))) (.raise.2 ht))

theorem MemOk.targetTick {p : Nat} (hs : MemOk s) : MemOk (s.targetTick p) := by
  unfold State.targetTick
  extract_lets _ _ t
  have ht : MemOk t := .setPod.2 hs
  exact .ite (.pendAll ht) ht

@[simp] theorem MemOk.modEpoch {f : Epoch → Epoch} : MemOk (s.modEpoch f) ↔ MemOk s := Iff.rfl

theorem MemOk.epochTick (hs : MemOk s) : MemOk s.epochTick := by
  unfold State.epochTick
  extract_lets
  split
  · exact .ite hs (.modEpoch.2 hs)
  · exact hs

theorem MemOk.epochRetire (hs : MemOk s) : MemOk s.epochRetire := by
  unfold State.epochRetire
  extract_lets _ _ t
  have ht : MemOk t := .raise.2 (.modEpoch.2 hs)
  split
  · exact .respondOk ht
  · exact ht

theorem MemOk.epochCommit (hs : MemOk s) : MemOk s.epochCommit := by
  unfold State.epochCommit
  extract_lets
  split
  · extract_lets t
    have ht : MemOk t := .modEpoch.2 hs
    exact .ite hs (.ite (.epochRetire ht) ht)
  · exact hs

theorem OptOk.unitFlip {u : EpochUnit} (hs : MemOk s) : OptOk (s.unitFlip u) := by
  unfold State.unitFlip
  split
  · extract_lets
    split
    · exact .some (.setSlice.2 hs)
    · exact .none
  · extract_lets
    split
    · exact .some (.setSlice.2 hs)
    · exact .none
  · exact .some (.bwFlip.2 hs)
  · split
    · exact .some (.update hs)
    · exact .none
  · exact .none

theorem OutOk.execEpochUnitFlip {u : EpochUnit} (hs : MemOk s) : OutOk (execEpochUnitFlip u s) := by
  change MemOk _
  extract_lets
  refine MemOk.ite ?_ hs
  split
  · exact hs
  · next t ht =>
      extract_lets s1
      have h1 : MemOk s1 := .modEpoch.2 (OptOk.unitFlip hs t ht)
      exact .ite (.epochRetire h1) h1

theorem OutOk.execReferenceLoss (hs : MemOk s) : OutOk (execReferenceLoss s) := by
  change MemOk _
  extract_lets s1 s2 s3 s4 s5 s6
  have h2 : MemOk s2 := .foldl (fun _ _ hs => .setPod.2 hs) _ (.aosWrite.2 hs)
  have h3 : MemOk s3 := .of_mem (dropHbm_wf h2.1) rfl
  have h4 : MemOk s4 := .foldl (fun _ _ hs => .ite hs (.portDown hs)) _ h3
  have h5 : MemOk s5 := .foldl (fun _ _ hs => .setStack.2 hs) _ h4
  exact .ite hs (.alertCause (.modBoot.2 (.modGrn.2 h5)))

theorem OutOk.execPllLockLoss {island : Island} (hs : MemOk s) : OutOk (execPllLockLoss island s) := by
  change MemOk _
  extract_lets t
  have ht : MemOk t := .raise.2 hs
  split
  · exact .modMgmt.2 ht
  · exact .modMgmt.2 ht
  · exact .ite ht (.portDown ht)
  · exact .setStack.2 ht
  · exact .modGrn.2 ht

theorem MemOk.applyPodVoltage {m : Nat} (hs : MemOk s) : MemOk (s.applyPodVoltage m) :=
  .respondOk (.foldl (fun _ _ hs => .ite (.setPod.2 hs) hs) _ hs)

theorem MemOk.applyPowerCap {m : Nat} (hs : MemOk s) : MemOk (s.applyPowerCap m) := .respondOk (.modPwr.2 hs)

theorem MemOk.applyPodPark {m : Nat} (hs : MemOk s) : MemOk (s.applyPodPark m) := by
  unfold State.applyPodPark
  extract_lets _ _ _ t
  have ht : MemOk t := .foldl (fun _ _ hs => .ite (.parkRequest hs) hs) _ hs
  exact .answerParks (.setMbx.2 ht)

theorem MemOk.moduleReset {cause : Nat} : MemOk (s.moduleReset cause) := reset_memOk

theorem MemOk.dueReset (hs : MemOk s) : MemOk s.dueReset := by
  unfold State.dueReset
  split
  · exact .moduleReset
  · exact hs

theorem MemOk.useHoldup {ms : Nat} (hs : MemOk s) : MemOk (s.useHoldup ms) := .ite (.modGrn.2 hs) hs

theorem MemOk.applyModuleReset {m : Nat} (hs : MemOk s) : MemOk (s.applyModuleReset m) := .modBoot.2 (.respondOk hs)

theorem MemOk.luamiFails {cause : Nat} (hs : MemOk s) : MemOk (s.luamiFails cause) := .ite hs .moduleReset

theorem MemOk.powerDown : MemOk s.powerDown := .modBoot.2 .moduleReset

theorem OutOk.execThermalTrip {sensor : Fin 324} (hs : MemOk s) : OutOk (execThermalTrip sensor s) := by
  change MemOk _
  split
  · exact hs
  · exact hs
  · exact .alertCause .powerDown

theorem MemOk.trainStacks {l : List Nat} (hs : MemOk s) : MemOk (s.trainStacks l) := .foldl (fun _ _ hs => .setStack.2 hs) _ hs

theorem MemOk.applyAos (hs : MemOk s) : MemOk s.applyAos := by
  unfold State.applyAos
  refine .foldl (fun _ _ hs => ?_) _ hs
  exact .update hs

theorem MemOk.finishBoot {env : BootEnv} : MemOk (s.finishBoot env) := by
  unfold State.finishBoot
  extract_lets _ _ _ _ t0 t1 _ t2 _ t3 t4 t5 _ _ _ _ t6
  have h0 : MemOk t0 := ⟨rfl, rfl⟩
  have h1 : MemOk t1.1 := .fresh h0
  have h2 : MemOk t2 := .foldl (fun _ _ hs => .setPod.2 hs) _ (.raise.2 h1)
  have h3 : MemOk t3 := .foldl (fun _ _ hs => .raise.2 hs) _ (.applyAos h2)
  have h4 : MemOk t4 := .ite (.raise.2 h3) h3
  have h5 : MemOk t5 := by
    unfold t5
    split
    · exact .raise.2 h4
    · exact h4
  have h6 : MemOk t6.1 := .fresh (.modMgmt.2 (.raise.2 h5))
  exact .modBoot.2 (.update h6)

theorem MemOk.bootFrom4 {env : BootEnv} (hs : MemOk s) : MemOk (s.bootFrom4 env) := by
  unfold State.bootFrom4
  refine .ite (.alertCause (.modBoot.2 hs)) ?_
  split
  · exact .modBoot.2 hs
  · exact .finishBoot

@[simp] theorem MemOk.pinsHigh : MemOk s.pinsHigh ↔ MemOk s := Iff.rfl

theorem MemOk.runBoot {env : BootEnv} (hs : MemOk s) : MemOk (s.runBoot env) := by
  unfold State.runBoot
  extract_lets _ _ t
  have ht : MemOk t := .modBoot.2 (.modBoot.2 (.pinsHigh.2 hs))
  split
  · exact .modBoot.2 ht
  · exact .bootFrom4 (.update ht)

theorem OutOk.execBoot {env : BootEnv} (hs : MemOk s) : OutOk (execBoot env s) := by
  change MemOk _
  extract_lets t
  have ht : MemOk t := .dueReset hs
  exact MemOk.ite ht (.ite (.modBoot.2 (.pinsHigh.2 ht)) (.runBoot ht))

theorem OutOk.execVinReaches40v {env : BootEnv} (hs : MemOk s) : OutOk (execVinReaches40v env s) := by
  change MemOk _
  extract_lets _ t
  have ht : MemOk t := .modBoot.2 hs
  exact MemOk.ite hs (.ite (.runBoot ht) ht)

@[simp] theorem MemOk.dropSync {c : Nat} : MemOk (s.dropSync c) ↔ MemOk s := Iff.rfl

theorem MemOk.resetCores {l : List Nat} (hs : MemOk s) : MemOk (s.resetCores l) := by
  unfold State.resetCores
  extract_lets t
  have ht : MemOk t := .foldl (fun _ _ hs => .modCore.2 (.dropSync.2 (.cancelCoreUpdates (.dropCoreWaiters.2 hs)))) _ hs
  exact .foldl (fun _ _ hs => .huskPages hs) _ ht

theorem MemOk.revokeAll {p : State → DomNo → Domain → Bool} (hs : MemOk s) : MemOk (s.revokeAll p) :=
  .foldl (fun _ _ hs => .ite (.revoke (.fresh hs)) hs) _ hs

@[simp] theorem MemOk.clearObjects {d : Nat} : MemOk (s.clearObjects d) ↔ MemOk s := Iff.rfl

theorem MemOk.dieReset {d us : Nat} (hs : MemOk s) : MemOk (s.dieReset d us) := by
  unfold State.dieReset
  extract_lets t1 t2 t3 mine _ _ _ t5 _ _ _ _ _ _ _ _ t6
  have h1 : MemOk t1 := .revokeAll hs
  have h2 : MemOk t2 := .foldl (fun _ _ hs => .lasersOff (.setPort.2 (.portDown hs))) _ h1
  have h3 : MemOk t3 := .resetCores h2
  have h5 : MemOk t5 := .foldl (fun _ _ hs => .setStack.2 hs) _ (.of_mem (tkeep_wf h3.1) (tkeep_wf h3.2))
  have h6 : MemOk t6 := .foldl (fun _ _ hs => .setPod.2 hs) _ (.update (.setSwitch.2 (.modMgmt.2 (.clearObjects.2 (.trainStacks h5)))))
  exact .raise.2 (.raise.2 h6)

theorem MemOk.podReset {p us : Nat} (hs : MemOk s) : MemOk (s.podReset p us) :=
  .raise.2 (.raise.2 (.podPortsGo (.setPod.2 (.resetCores (.revokeAll hs)))))

@[simp] theorem MemOk.acceptReset {m us : Nat} : MemOk (s.acceptReset m us) ↔ MemOk s := Iff.rfl

theorem MemOk.applyReset {m : Nat} {die : Bool} (hs : MemOk s) : MemOk (s.applyReset m die) :=
  .ite (.respond hs) (.respond (.ite (.dieReset hs) (.podReset hs)))

theorem OutOk.execRuntimeLoad {m : Fin 320} (hs : MemOk s) : OutOk (execRuntimeLoad m s) := by
  change MemOk _
  refine MemOk.serve hs fun _ _ hs => ?_
  refine .ite (.respond hs) (.ite (.respond hs) ?_)
  split
  · exact hs
  · exact .respond hs
  · exact .respond (.foldl (fun _ _ hs => .writeMem _ _ hs) _ hs)

theorem MemOk.dropStaged {comp : Nat} (hs : MemOk s) : MemOk (s.dropStaged comp) := by
  unfold State.dropStaged
  split
  · exact .modBoot.2 (.modGrn.2 hs)
  · exact hs

theorem OptOk.putStaged {comp len : Nat} {img : FwImage} (hs : MemOk s) : OptOk (s.putStaged comp len img) := by
  unfold State.putStaged
  extract_lets _ _ t
  have ht : MemOk t.1 := .fresh (.dropStaged hs)
  split
  · exact .none
  · extract_lets
    split
    · exact .none
    · exact .some (.modBoot.2 (.wear (.modGrn.2 ht)))

@[simp] theorem MemOk.activate {comp : Nat} {i : FwImage} : MemOk (s.activate comp i) ↔ MemOk s := Iff.rfl

theorem OutOk.execFwStage {m : Fin 320} {img : Option FwImage} (hs : MemOk s) : OutOk (execFwStage m img s) := by
  change MemOk _
  refine MemOk.serve hs fun _ _ hs => ?_
  iterate 5 refine .ite (.respond hs) ?_
  split
  · exact .respond hs
  · refine .ite (.respond hs) ?_
    split
    · exact .respond hs
    · next t ht => exact .respond (OptOk.putStaged hs t ht)

theorem OutOk.execFwActivate {m : Fin 320} (hs : MemOk s) : OutOk (execFwActivate m s) := by
  change MemOk _
  refine MemOk.serve hs fun _ _ hs => ?_
  refine .ite (.respond hs) ?_
  split
  · exact .respond hs
  · exact .respondOk (.activate.2 hs)

@[simp] theorem MemOk.modLc {f : LifeCycle → LifeCycle} : MemOk (s.modLc f) ↔ MemOk s := Iff.rfl

theorem OutOk.execLcChallenge {m : Fin 320} (hs : MemOk s) : OutOk (execLcChallenge m s) := by
  change MemOk _
  refine MemOk.serve hs fun _ _ hs => ?_
  extract_lets s1
  have h1 : MemOk s1.1 := by
    unfold s1
    refine .foldl_fst (fun _ _ hs => ?_) hs
    extract_lets s2
    have h2 : MemOk s2.1 := .fresh hs
    exact h2
  exact .respond (.modLc.2 h1)

theorem MemOk.eraseAll (hs : MemOk s) : MemOk s.eraseAll :=
  .modBoot.2 (.modGrn.2 (.eraseObjects (.foldl (fun _ _ hs => .keyErase hs) _ hs)))

theorem OutOk.execLcTransition {m : Fin 320} (hs : MemOk s) : OutOk (execLcTransition m s) := by
  change MemOk _
  refine MemOk.serve hs fun _ _ hs => ?_
  extract_lets _ _ _ _ _ t
  have ht : MemOk t := .modEvr.2 (.eraseAll (.revokeAll (.update hs)))
  exact .ite (.respond hs) (.ite (.respond hs) (.modBoot.2 (.respondOk (.modLc.2 (.ite (.modEvr.2 ht) ht)))))

end Sys2Proof.Machine
end

section
/-! PROOFS. Memory stays canonical: the board, the host, interrupts and the registers. -/

namespace Sys2Proof.Machine

variable {s : State}

theorem OutOk.execPowerLoss {holdMs : BitVec 8} (hs : MemOk s) : OutOk (execPowerLoss holdMs s) := by
  change MemOk _
  split
  · exact hs
  · exact .alertCause (.modBoot.2 .powerDown)

theorem OutOk.execInputLockout (hs : MemOk s) : OutOk (execInputLockout s) := by
  change MemOk _
  split
  · exact hs
  · exact .modMgmt.2 (.modEvr.2 (.modBoot.2 .powerDown))

theorem MemOk.tapLoad {code : BitVec 8} (hs : MemOk s) : MemOk (s.tapLoad code) := .ite hs (.modMgmt.2 hs)

@[simp] theorem MemOk.sideReply {p : SidePath} {r : Option Reply} : MemOk (s.sideReply p r) ↔ MemOk s := Iff.rfl

theorem MemOk.sideServe {p : SidePath} {f : State → State × Reply} (hs : MemOk s) (hf : ∀ t, MemOk t → MemOk (f t).1) :
    MemOk (s.sideServe p f) := .ite (.sideReply.2 (hf _ hs)) (.sideReply.2 hs)

@[simp] theorem MemOk.setSpdm {p : SidePath} {n : Nat} : MemOk (s.setSpdm p n) ↔ MemOk s := Iff.rfl

theorem MemOk.spdmServe {p : SidePath} {n : Nat} {f : State → State × Reply} (hs : MemOk s)
    (hf : ∀ t, MemOk t → MemOk (f t).1) : MemOk (s.spdmServe p n f) := by
  refine .sideServe hs fun _ ht => ?_
  split
  · exact ht
  · exact hf _ ht

theorem MemOk.sign {transcript : List Byte} (hs : MemOk s) : MemOk (s.sign transcript).1 := by
  unfold State.sign
  extract_lets t
  have ht : MemOk t.1 := .fresh hs
  exact ht

theorem OutOk.execChallenge {p : SidePath} {nonce : List Byte} (hs : MemOk s) : OutOk (execChallenge p nonce s) := by
  change MemOk _
  refine MemOk.spdmServe hs fun _ hs => ?_
  extract_lets t
  have ht : MemOk t.1 := .sign hs
  split
  · exact hs
  · exact ht

theorem OutOk.execGetMeasurements {p : SidePath} {index : BitVec 8} {nonce : Option (List Byte)} (hs : MemOk s) :
    OutOk (execGetMeasurements p index nonce s) := by
  change MemOk _
  refine MemOk.spdmServe hs fun _ hs => ?_
  extract_lets
  split
  · exact hs
  · split
    · exact hs
    · extract_lets t
      have ht : MemOk t.1 := .sign hs
      split
      · exact hs
      · exact ht

theorem MemOk.pldmStep {x : PldmStep} (hs : MemOk s) : MemOk (s.pldmStep x).1 := by
  unfold State.pldmStep
  split
  · split
    · exact hs
    · split
      · next t ht => exact OptOk.putStaged hs t ht
      · exact hs
  · split
    · exact .activate.2 hs
    · exact hs

theorem OutOk.execEntdaa {addr : BitVec 7} (hs : MemOk s) : OutOk (execEntdaa addr s) := by
  change MemOk _
  split
  · exact hs
  · exact hs
  · exact .modMgmt.2 hs

theorem OutOk.execMctpControlMessage {p : SidePath} {eid : Option (BitVec 8)} (hs : MemOk s) : OutOk (execMctpControlMessage p eid s) := by
  change MemOk _
  refine MemOk.ite ?_ hs
  refine .sideServe hs fun _ hs => ?_
  split
  · exact hs
  · split
    · exact hs
    · exact .modMgmt.2 hs

@[simp] theorem MemOk.bar0Event {f off : Nat} : MemOk (s.bar0Event f off) ↔ MemOk s := Iff.rfl

theorem MemOk.msixWrite {f off : Nat} {v : W64} (hs : MemOk s) : MemOk (s.msixWrite f off v) := by
  unfold State.msixWrite
  extract_lets _ _ _ _ t
  have ht : MemOk t := .setFunc.2 hs
  exact .ite (.msix (.setFunc.2 ht)) ht

theorem MemOk.mbxWrite {m off : Nat} {v rw : W64} (hs : MemOk s) : MemOk (s.mbxWrite m off v rw) := by
  unfold State.mbxWrite
  extract_lets _ t
  have ht : MemOk t := .setMbx.2 hs
  exact .ite (.setMbx.2 hs) (.ite (.ite (.doorbell ht) ht) (.ite (.setMbx.2 hs) hs))

theorem MemOk.hostWrite {f off : Nat} {v : W64} (hs : MemOk s) : MemOk (s.hostWrite f off v) :=
  .ite hs (.ite (.bar0Event.2 hs) (.ite (.mbxWrite hs) (.ite (.msixWrite hs) hs)))

theorem OutOk.execBar0HoleAccess {f : Fin 64} {off : BitVec 26} {write : Option (BitVec 64)} (hs : MemOk s) :
    OutOk (execBar0HoleAccess f off write s) := by
  change MemOk _
  refine MemOk.ite hs ?_
  split <;> exact .ite (.bar0Event.2 hs) hs

theorem MemOk.bar2Fail {f off n : Nat} {read : Bool} (hs : MemOk s) : MemOk (s.bar2Fail f off n read) := by
  unfold State.bar2Fail
  extract_lets t
  have ht : MemOk t := .raise.2 hs
  exact .ite (.setFunc.2 ht) ht

theorem MemOk.pcieCount {dir n : Nat} (hs : MemOk s) : MemOk (s.pcieCount dir n) := by
  unfold State.pcieCount
  extract_lets t
  have ht : MemOk t := .countDie _ _ _ _ (.bwAdd.2 hs)
  exact .ite (.countDie _ _ _ _ ht) ht

theorem MemOk.bar2 {f : Nat} {acc : HostAcc} (hs : MemOk s) : MemOk (s.bar2 f acc) := by
  unfold State.bar2
  extract_lets
  refine .ite hs ?_
  split
  · exact .bar2Fail hs
  · refine .ite (.bar2Fail hs) ?_
    split
    · exact .bar2Fail hs
    · exact hs
    · extract_lets t
      have ht : MemOk t.1 := .piecesRead hs
      refine .ite (.bar2Fail hs) (.ite hs ?_)
      split
      · exact .ite (.bar2Fail ht) (.setFunc.2 (.pcieCount ht))
      · exact .pcieCount (.piecesWrite hs)

@[simp] theorem MemOk.flr {f : Nat} : MemOk (s.flr f) ↔ MemOk s := Iff.rfl

theorem OutOk.execIrqBind {m : Fin 320} (hs : MemOk s) : OutOk (execIrqBind m s) := by
  refine MemOk.serve hs fun _ _ hs => ?_
  iterate 4 refine .ite (.respond hs) ?_
  exact .respondOk (.setFunc.2 hs)

theorem OutOk.execFaultEntry {w : Site} {code : BitVec 8} {addr info : BitVec 64} (hs : MemOk s) :
    OutOk (execFaultEntry w code addr info s) := by
  change MemOk _
  split
  · exact hs
  · exact .issue hs (fun _ hs => hs)

theorem OutOk.execFret {w : Site} {commit : Bool} (hs : MemOk s) : OutOk (execFret w commit s) := by
  change MemOk _
  refine MemOk.issue hs fun _ hs => ?_
  extract_lets _ _ t
  have ht : MemOk t := .setStrand.2 (.dropBuf.2 hs)
  refine .ite hs (.ite trivial ?_)
  split
  · exact .ite (MemOk.dropHold ht) ht
  · exact ht

/-- The state that an interrupt finds a parked strand in, where it need not wait. -/
theorem MemOk.abandonWait {w : Site} (hs : MemOk s) : ∀ r, s.abandonWait w = some r → MemOk r.1 := by
  unfold State.abandonWait
  extract_lets c gr
  intro r
  split
  case h_2 =>
    split
    · split
      · exact nofun
      · refine memOk_of_some_eq ?_; exact .dropWaiter.2 hs
    · exact nofun
  case h_8 => refine memOk_of_some_eq ?_; exact .modCore.2 hs
  case h_9 =>
    split
    · split
      · exact nofun
      · refine memOk_of_some_eq ?_; exact .releaseTaskFences (.setGroup.2 hs)
    · exact nofun
  case h_10 => exact nofun
  all_goals exact memOk_of_some_eq hs

theorem OutOk.execInterruptEntry {w : Site} (hs : MemOk s) : OutOk (execInterruptEntry w s) := by
  change MemOk _
  split
  · exact hs
  · refine .ite hs ?_
    split
    · exact hs
    · next _ t info ht => exact .enterS1 (.park.2 (.modCore.2 (MemOk.abandonWait hs _ ht)))

@[simp] theorem MemOk.softInt {c : Nat} {soft : W16} : MemOk (s.softInt c soft) ↔ MemOk s := Iff.rfl

@[simp] theorem MemOk.modStr {c : Nat} {f : StreamUnit → StreamUnit} : MemOk (s.modStr c f) ↔ MemOk s := Iff.rfl

@[simp] theorem MemOk.modCpy {c : Nat} {f : CopyUnit → CopyUnit} : MemOk (s.modCpy c f) ↔ MemOk s := Iff.rfl

@[simp] theorem MemOk.modCnt {c n : Nat} {f : PmcCnt → PmcCnt} : MemOk (s.modCnt c n f) ↔ MemOk s := Iff.rfl

@[simp] theorem MemOk.modDcnt {d n : Nat} {f : PmcCnt → PmcCnt} : MemOk (s.modDcnt d n f) ↔ MemOk s := Iff.rfl

@[simp] theorem MemOk.stage {x : Staged} : MemOk (s.stage x) ↔ MemOk s := Iff.rfl

theorem MemOk.routeReg {d t id : Nat} {v : W64} (hs : MemOk s) : MemOk (s.routeReg d t id v) := .ite hs (.writeRoute.2 hs)

theorem MemOk.hulWrite {d : Nat} {v : W64} (hs : MemOk s) : MemOk (s.hulWrite d v) := .ite hs (.setDom.2 (.ite (.wantRevoke _ hs) hs))

theorem MemOk.sweepWrite {v : W64} (hs : MemOk s) : MemOk (s.sweepWrite v) := by
  unfold State.sweepWrite
  extract_lets _ t
  have ht : MemOk t := .update hs
  exact .ite (.sweepHulls ht) ht

theorem MemOk.schWrite {n i : Nat} {v : W64} (hs : MemOk s) : MemOk (s.schWrite n i v) := by
  unfold State.schWrite
  split
  · exact .setSchedSlot.2 hs
  · exact .setSchedSlot.2 hs
  · exact .setSchedSlot.2 hs
  · exact .setSchedSlot.2 hs
  · exact .countWrite hs
  · exact .setSchedSlot.2 hs
  · exact .ite (.schedEta hs) hs
  · exact hs

theorem MemOk.lmonWrite {n i : Nat} {v : W64} (hs : MemOk s) : MemOk (s.lmonWrite n i v) := by
  unfold State.lmonWrite
  extract_lets _ t
  have ht : MemOk t := .setLossSlot.2 hs
  split
  · exact .setLossSlot.2 hs
  · exact .ite (.lossReset.2 ht) ht
  · exact .lossStore hs
  · exact .decideStore hs
  · exact hs

theorem MemOk.ringSubmit {c core : Nat} {v : W64} (hs : MemOk s) : MemOk (s.ringSubmit c core v) := by
  have h := OutOk.execRingSubmit (chan := Fin.ofNat 4096 c) (core := Fin.ofNat 256 core) (value := v) hs
  unfold State.ringSubmit
  split
  · next t ht => rw [ht] at h; exact h
  · exact hs

theorem MemOk.qsubWrite {u q core : Nat} {v : W64} (hs : MemOk s) : MemOk (s.qsubWrite u q core v) := .ite (.qsub hs) hs

theorem MemOk.tableWrite {c off : Nat} {v : W64} (hs : MemOk s) : MemOk (s.tableWrite c off v) := by
  unfold State.tableWrite
  split
  · exact .modCore.2 hs
  · exact hs

theorem MemOk.writeCoreReg {r : Reg} {v : W64} (hs : MemOk s) : MemOk (s.writeCoreReg r v) := by
  unfold State.writeCoreReg
  split
  · exact .modCore.2 hs
  · exact .modCore.2 hs
  · exact .modMat.2 hs
  · exact .modAcc.2 hs
  · extract_lets s1
    have h1 : MemOk s1 := .modAcc.2 hs
    exact .ite (.modAcc.2 h1) h1
  · exact .modAcc.2 hs
  · exact .tableWrite hs
  · extract_lets s2
    have h2 : MemOk s2 := .modStr.2 hs
    exact .ite (.modStr.2 h2) h2
  · exact .ite (.modStr.2 hs) hs
  · exact .modStr.2 hs
  · exact .modCpy.2 hs
  · exact .modCpy.2 hs
  · exact .modCpy.2 hs
  · exact .modCpy.2 hs
  · exact .ite (.modCore.2 hs) hs
  · exact .modCnt.2 hs
  · exact .modCnt.2 hs
  · exact .modCnt.2 hs
  · exact hs

theorem MemOk.writeDieReg {u : RegUser} {r : Reg} {v : W64} (hs : MemOk s) : MemOk (s.writeDieReg u r v) := by
  unfold State.writeDieReg
  split
  · exact .stage.2 hs
  · exact .ite (.setSlice.2 hs) hs
  · exact .setSlice.2 hs
  · exact .ite (.setStack.2 hs) hs
  · exact .setStack.2 hs
  · exact .ite (.setUpdUnit.2 hs) hs
  · exact .setUpdUnit.2 hs
  · exact .ite (.ruleCommit.2 hs) hs
  · split
    · exact .qsubWrite hs
    · exact hs
  · exact .setUpdQueue.2 hs
  · exact .pctlRequest hs
  · exact .modPort.2 hs
  · exact .modPort.2 hs
  · exact .ite (.modPort.2 hs) hs
  · exact .ite (.modPort.2 hs) hs
  · exact .routeReg hs
  · exact .update hs
  · extract_lets _ t
    have ht : MemOk t := .setSwitch.2 hs
    exact .ite (.routeCommit ht) ht
  · exact .ite (.setSwitch.2 hs) hs
  · exact .ite (.update hs) hs
  · exact .update hs
  · split
    · exact .ringSubmit hs
    · exact hs
  · exact .setRing.2 hs
  · exact .modDcnt.2 hs
  · exact .modDcnt.2 hs
  · exact .stage.2 hs
  · exact .ite (.bwClear.2 hs) hs
  · exact hs

theorem MemOk.writeDieMReg {u : RegUser} {r : Reg} {v : W64} (hs : MemOk s) : MemOk (s.writeDieMReg u r v) := by
  unfold State.writeDieMReg
  extract_lets _ t
  have ht : MemOk t := .modEpoch.2 hs
  split
  · exact .update hs
  · exact .mbxWrite hs
  · exact .modPwr.2 hs
  · exact .ite (.epochCommit ht) ht
  · exact .repace hs
  · exact .setDmon.2 hs
  · exact .dmonClear hs
  · exact .modPwr.2 hs
  · exact .ite (.evrClrGo hs) hs
  · exact .modEvr.2 hs
  · exact .ite (.modGrn.2 hs) hs
  · exact .schWrite hs
  · exact .lmonWrite hs
  · exact .stage.2 hs
  · exact .update hs
  · exact .hulWrite hs
  · exact .sweepWrite hs
  · exact .modDom.2 hs
  · exact .modDom.2 hs
  · exact hs

theorem MemOk.regWrite {u : RegUser} {pa : Nat} {v : W64} (hs : MemOk s) : MemOk (s.regWrite u pa v) := by
  unfold State.regWrite
  split
  · exact hs
  · split
    · exact .writeCoreReg hs
    · split
      · exact .writeDieReg hs
      · exact .writeDieReg hs
      · exact .writeDieReg hs
      · exact .writeDieReg hs
      · exact .writeDieMReg hs
    · exact .writeDieReg hs

theorem MemOk.strandWrite {w : Site} {h addr : Nat} {v : W64} (hs : MemOk s) : MemOk (s.strandWrite w h addr v) := by
  unfold State.strandWrite
  refine .ite hs (.ite (.takeFault hs) ?_)
  split
  · exact .takeFault hs
  · exact .regWrite hs

theorem OutOk.execRegWrite {p : RegPath} {value : BitVec 64} (hs : MemOk s) : OutOk (execRegWrite p value s) := by
  change MemOk _
  split
  · exact .regWrite hs
  · exact .hostWrite hs
  · exact .strandWrite hs

end Sys2Proof.Machine
end

section
/-! PROOFS. Memory stays canonical: loads and stores, the idle tick, vector instructions and waiters. -/

namespace Sys2Proof.Machine

variable {s : State}

theorem ResOk.resolve {w : Site} {h : RegField} {addr size : Nat} {write wide : Bool} {k : Acc → State → Res}
    (hs : MemOk s) (hk : ∀ acc t, MemOk t → ResOk (k acc t)) : ResOk (s.resolve w h addr size write wide k) := by
  unfold State.resolve
  extract_lets hv unit
  refine .ite hs (.ite hs (.ite ?_ ?_))
  · split
    · exact hs
    · exact hk _ _ hs
  · split
    · exact hs
    · exact .onPage hs fun _ _ _ ht => hk _ _ ht

theorem ResOk.loadFrom {w : Site} {acc : Acc} {va size : Nat} {dest : MissDest} {dom : DomNo} {e : MemErr} (hs : MemOk s) :
    ResOk (s.loadFrom w acc va size dest dom e) := by
  unfold State.loadFrom
  extract_lets _ _ t
  have ht : MemOk t := .count (.modCore.2 hs)
  split
  · exact .startMiss hs
  · extract_lets
    split
    · exact .ite (MemOk.deliver (.scratchErr _ _ hs)) (.ite trivial (MemOk.modStrand.2 (.scratchErr _ _ hs)))
    · split
      · exact .ite (.startMiss (.l1Parity ht)) (MemOk.deliver (.modCore.2 ht))
      · exact .startMiss ht

theorem OutOk.loadOp {w : Site} {t a h : RegField} {off : BitVec 10} {e : MemErr} {size : Nat} {signed : Bool} (hs : MemOk s) :
    OutOk (loadOp w t a h off e size signed s) :=
  MemOk.issue hs (fun _ hs => .resolve hs (fun _ _ hs => .loadFrom hs))

theorem ResOk.storeReg {w : Site} {pa : Nat} {b : List Byte} (hs : MemOk s) : ResOk (s.storeReg w pa b) := by
  unfold State.storeReg
  split
  · split
    · exact .ite trivial (MemOk.modAcc.2 (.modCore.2 hs))
    · exact .pushStore hs
  · exact .pushStore hs

theorem OutOk.storeOp {w : Site} {t : RegRef} {a h : RegField} {off : BitVec 10} {size : Nat} {val : State → Nat}
    (hs : MemOk s) : OutOk (storeOp w t a h off size val s) := by
  refine MemOk.issue hs fun _ hs => .resolve hs fun acc _ hs => ?_
  cases acc with
  | reg pa => exact .storeReg hs
  | mem pa leaf => exact .pushStore hs

theorem OutOk.amoOp {op : Nat} {w : Site} {d a b : RegField} {h : BitVec 4} {size : BitVec 2} (hs : MemOk s) :
    OutOk (amoOp op w d a b h size s) := by
  unfold Machine.amoOp
  refine MemOk.issue hs fun _ hs => ?_
  refine .ite hs ?_
  refine .resolve hs fun _ _ hs => ?_
  split
  · exact hs
  · exact .startMiss hs

theorem ResOk.gatherLoop {w : Site} {vd ga vb : RegField} {h : BitVec 4} {size n : Nat} {m : ErrMap} {fuel i : Nat}
    (hs : MemOk s) : ResOk (gatherLoop w vd ga vb h size n m fuel i s) := by
  induction fuel generalizing i s with
  | zero => trivial
  | succ fuel ih =>
    unfold Machine.gatherLoop
    extract_lets es s1 c e addr hv stop lane r
    have stop_ok {t : State} (ht : MemOk t) : MemOk (stop t) := .modBank.2 ht
    have hr : ResOk r := by
      refine .resolve hs fun acc t ht => ?_
      split
      · exact ht
      · split
        · exact .ite trivial (MemOk.count (.modBank.2 (.scratchErr _ _ ht)))
        · extract_lets t1 t2
          have h1 : MemOk t1 := .modCore.2 ht
          have h2 : MemOk t2 := by
            unfold t2
            split
            · exact .l1Parity h1
            · exact h1
          split
          · exact MemOk.count (.modBank.2 (.modCore.2 h2))
          · exact .ite (MemOk.park.2 h2) (MemOk.park.2 (.modStrand.2 h2))
    clear_value r
    split
    · exact MemOk.modStrand.2 (.modBank.2 hs)
    · cases r with
      | done t => exact ih hr
      | fault t f => exact stop_ok hr
      | hold t => exact stop_ok hr
      | wait p => exact MemOk.parkFor (stop_ok hs)
      | jump t pc => exact hr
      | issued p word seed => exact hr

theorem MemOk.atomicRead {pa n : Nat} (hs : MemOk s) : MemOk (s.atomicRead pa n).1 := by
  unfold State.atomicRead
  split
  · exact .llcArrive _ _ hs
  · exact .scratchRead hs

theorem MemOk.missPerform {w : Site} {m : Miss} (hs : MemOk s) : MemOk (s.missPerform w m) := by
  unfold State.missPerform
  extract_lets _ _ s1 _ s2
  have h1 : MemOk s1.1 := .readMem hs
  have h2 : MemOk s2.1 := .readMem hs
  split
  · extract_lets s3
    have h3 : MemOk s3.1 := .atomicRead hs
    exact .modBank.2 (.modCore.2 (.writeMem _ _ h3))
  · exact hs
  · exact .ite (.deliver hs) (.ite (.deliver (.ite (.modCore.2 h1) h1)) (.deliver h2))

theorem OutOk.execMissDataDeliver {w : Site} {e : ErrMap} (hs : MemOk s) : OutOk (execMissDataDeliver w e s) := by
  change MemOk _
  refine MemOk.finding _ (fun _ hs => ?_) hs
  split
  · exact hs
  · extract_lets t
    have ht : MemOk t.1 := .readMem hs
    refine .ite hs (.ite hs ?_)
    split
    · exact .hcallArrive ht
    · split
      · exact .fillArrives hs
      · exact .missEnds.2 (.missPerform hs)

theorem MemOk.l1iInstall {c pa : Nat} (hs : MemOk s) : MemOk (s.l1iInstall c pa) := by
  unfold State.l1iInstall
  extract_lets t
  have ht : MemOk t.1 := .readMem hs
  exact .modCore.2 ht

theorem MemOk.l1iParity {w : Site} (hs : MemOk s) : MemOk (s.l1iParity w) := by
  unfold State.l1iParity
  extract_lets
  split
  · extract_lets
    split
    · exact .ite hs (.parkFor (.raise.2 (.modCore.2 hs)))
    · exact hs
  · exact hs

theorem OutOk.execL1iFill {w : Site} {parity : Bool} {e : ErrMap} (hs : MemOk s) : OutOk (execL1iFill w parity e s) := by
  change MemOk _
  refine MemOk.finding _ (fun _ hs => ?_) hs
  extract_lets t
  have ht : MemOk t := .ite (.l1iParity hs) hs
  split
  · exact .refill (.park.2 (.l1iInstall ht))
  · split
    · exact .refill (.l1iInstall ht)
    · exact ht

theorem MemOk.walkReads {va fuel level t : Nat} (hs : MemOk s) : MemOk (s.walkReads va fuel level t) := by
  induction fuel generalizing s level t with
  | zero => exact hs
  | succ fuel ih =>
    unfold State.walkReads
    exact .ite (ih (.readMem hs)) (.readMem hs)

theorem OutOk.execTableWalkDone {w : Site} {e : ErrMap} (hs : MemOk s) : OutOk (execTableWalkDone w e s) := by
  change MemOk _
  refine MemOk.finding _ (fun _ hs => ?_) hs
  split
  · extract_lets t
    have ht : MemOk t := .ite hs (.walkReads hs)
    split
    · exact .takeFault (.park.2 ht)
    · extract_lets
      split
      · exact .takeFault (.park.2 ht)
      · exact .park.2 ht
      · exact .countDie _ _ _ _ (.park.2 (.modCore.2 ht))
  · exact hs

theorem OutOk.execStorePerformed {core : Fin 256} {n : Fin 16} {e : ErrMap} (hs : MemOk s) : OutOk (execStorePerformed core n e s) := by
  change MemOk _
  refine MemOk.finding _ (fun _ hs => ?_) hs
  extract_lets _ s1
  have h1 : MemOk s1 := .setCore.2 hs
  split
  · exact hs
  · extract_lets _ s2
    have h2 : MemOk s2 := .ite (.regWrite h1) (.modCore.2 (.writeMem _ _ h1))
    exact .ite hs (.releaseTaskFences (.modCore.2 h2))

theorem OutOk.execScratchpadLoadReturn {w : Site} {k : Fin 4} (hs : MemOk s) : OutOk (execScratchpadLoadReturn w k s) := by
  change MemOk _
  split
  · exact hs
  · exact .ite hs (.modStrand.2 (.deliver hs))

theorem MemOk.applyTickCmd {m : Nat} (hs : MemOk s) : MemOk (s.applyTickCmd m) := by
  unfold State.applyTickCmd
  refine .ite hs ?_
  split
  · exact .applyModuleReset hs
  · exact .applyDomainCreate hs
  · exact .applyQuotaSet hs
  · exact .applyPodVoltage hs
  · exact .applyPowerCap hs
  · exact .applyPodPark hs
  · exact .applyReset hs
  · exact .applyReset hs
  · exact hs

theorem MemOk.applyTickCmds (hs : MemOk s) : MemOk s.applyTickCmds := .foldl (fun _ _ hs => .applyTickCmd hs) _ (.modPwr.2 hs)

theorem MemOk.tick {env : TickEnv} (hs : MemOk s) : MemOk (s.tick env) := by
  unfold State.tick
  extract_lets _ _ _ _ s1 _ s2 s3
  have h1 : MemOk s1 := .sampleModule (.sampleRails (.sampleTemps (.applyTickCmds (.update (.modPwr.2 hs)))))
  have h2 : MemOk s2 := .foldl (fun _ _ hs => .targetTick hs) _ (.floorTick (.capTick (.thermalTick h1)))
  have h3 : MemOk s3 := .answerParks (.foldl (fun _ _ hs => .parkTick hs) _ h2)
  exact .noteTick (.epochTick h3)

theorem MemOk.idleTick (hs : MemOk s) : MemOk s.idleTick := by
  unfold State.idleTick
  extract_lets t
  have ht : MemOk t := .modMgmt.2 hs
  refine .ite (.dueReset hs) ?_
  split
  · exact .update ht
  · exact .update ht
  · exact .update ht
  · exact ht

theorem OutOk.opVint {w : Site} {lw : BitVec 2} {vd va vb : RegField} {f : Nat → Nat → Nat → Nat → Nat} (hs : MemOk s) :
    OutOk (opVint w lw vd va vb f s) :=
  MemOk.issue hs (fun _ hs => MemOk.setV.2 hs)

theorem OutOk.opVbit {w : Site} {vd va vb : RegField} {f : W128 → W128 → W128 → W128} (hs : MemOk s) : OutOk (opVbit w vd va vb f s) :=
  MemOk.issue hs (fun _ hs => MemOk.setV.2 hs)

theorem OutOk.opVfp {w : Site} {lf : BitVec 2} {vd va vb : RegField} {f : Nat → Nat → Nat → Nat → Nat} (hs : MemOk s) :
    OutOk (opVfp w lf vd va vb f s) := by
  unfold Machine.opVfp
  refine MemOk.issue hs fun _ hs => ?_
  split
  · exact hs
  · exact MemOk.setV.2 hs

theorem OutOk.opVfp32 {w : Site} {lf : BitVec 2} {vd va vb : RegField} {f : Nat → Nat → Nat} (hs : MemOk s) :
    OutOk (opVfp32 w lf vd va vb f s) := by
  unfold Machine.opVfp32
  refine MemOk.issue hs fun _ hs => ?_
  split
  · exact hs
  · exact .ite hs (MemOk.setV.2 hs)

theorem MemOk.strandReleased {c i : Nat} {word : W64} {status : Nat} (hs : MemOk s) : MemOk (s.strandReleased c i word status) := by
  unfold State.strandReleased
  extract_lets
  split
  · exact .retire.2 (.park.2 (.modBank.2 hs))
  · exact .retire.2 (.park.2 (.modBank.2 hs))
  · exact hs

theorem OutOk.execWaiterRelease {p : WaitParty} {e : ErrMap} (hs : MemOk s) : OutOk (execWaiterRelease p e s) := by
  change MemOk _
  refine MemOk.finding _ (fun _ hs => ?_) hs
  split
  · exact hs
  · split
    · split
      · exact .strandReleased (.dropWaiter.2 hs)
      · exact .streamStart hs
      · exact .updStart hs
      · exact .ringStep hs
      · exact .ite (.ringCreditSend hs) (.ringStep hs)
    · exact hs

end Sys2Proof.Machine
end

section
/-! PROOFS. Every command, and so every step, keeps memory canonical. -/

namespace Sys2Proof.Machine

/-- R20, R302, R330: every command keeps memory in canonical form, each by the rule of the operation it comes to. -/
theorem OutOk.exec {c : Instr} {s : State} (hs : MemOk s) : OutOk (exec c s) := by
  cases c <;> unfold Machine.exec
  case add | sub | and | or | xor | andn | sll | srl | sra | rotr | slt | sltu | min | minu | max | maxu | mul | mulh | mulhu | mulhsu |
      div | divu | rem | remu => exact .opR hs
  case clz | ctz | popc | sextb | sexth | sextw | zextw => exact .opU hs
  case cmov => exact MemOk.issue hs (fun _ hs => MemOk.ite (.setG.2 hs) hs)
  case addi | andi | ori | xori | slti | sltiu => exact .opI hs
  case slli | srli | srai => exact .opShift hs
  case lui | auipc | jal | jalr | rdtime => exact MemOk.issue hs (fun _ hs => MemOk.setG.2 hs)
  case ldb | ldbu | ldh | ldhu | ldw | ldwu | ldd => exact .loadOp hs
  case stb | sth | stw | std | stv => exact .storeOp hs
  case ldv => exact MemOk.issue hs (fun _ hs => .resolve hs (fun _ _ hs => .loadFrom hs))
  case amoAdd | amoSwap | amoAnd | amoOr | amoXor | amoMax | amoMin | amoMaxu | amoMinu | amoCas => exact .amoOp hs
  case beq | bne | blt | bge | bltu | bgeu => exact .branch hs
  case loop => exact .execLoop hs
  case lbrk => exact MemOk.issue hs (fun _ hs => .ite hs (MemOk.modBank.2 hs))
  case rdsr => exact .execRdsr hs
  case wrsr => exact .execWrsr hs
  case nop => exact MemOk.issue hs (fun _ hs => hs)
  case halt => exact .execHalt hs
  case strst => exact MemOk.issue hs (fun _ hs => .unitBody hs (.ite hs (MemOk.modStrand.2 (.dropBuf.2 hs))))
  case vintAdd | vintSub | vintAdds | vintAddus | vintSubs | vintSubus | vintMul | vintMulh | vintMulhu | vintMin | vintMinu | vintMax |
      vintMaxu | vintSll | vintSrl | vintSra | cmpeq | cmplt | cmpltu | vintAbs | vintNeg => exact .opVint hs
  case vintAnd | vintOr | vintXor | vintAndn | bsel => exact .opVbit hs
  case fadd | fsub | fmul | fma | fmin | fmax | fabs | fneg | fcmpeq | fcmplt | fcmple => exact .opVfp hs
  case fdiv | fsqrt => exact .opVfp32 hs
  case vmulw | vdot | vsplat | vins | vperm | vcvt => exact MemOk.issue hs (fun _ hs => .ite hs (MemOk.setV.2 hs))
  case vgather => exact MemOk.issue hs (fun _ hs => .ite trivial (.ite hs (.ite hs (.gatherLoop (.modStrand.2 hs)))))
  case vext | hchk => exact MemOk.issue hs (fun _ hs => .ite hs (MemOk.setG.2 hs))
  case missDataDeliver => exact .execMissDataDeliver hs
  case l1iFill => exact .execL1iFill hs
  case tableWalkDone => exact .execTableWalkDone hs
  case storePerformed => exact .execStorePerformed hs
  case faultEntry => exact .execFaultEntry hs
  case interruptEntry => exact .execInterruptEntry hs
  case fret => exact .execFret hs
  case timerInterrupt => exact MemOk.ite (.setCore.2 hs) hs
  case softInterruptSet => exact MemOk.softInt.2 hs
  case hderive => exact .execHderive hs
  case hseal => exact .execHseal hs
  case hcall => exact .execHcall hs
  case hret => exact .execHret hs
  case hld => exact .execHld hs
  case hst => exact .execHst hs
  case hmov | hclr => exact MemOk.issue hs (fun _ hs => .ite hs (MemOk.setH.2 hs))
  case tcfg => exact .execTcfg hs
  case tcfgApply => exact .execTcfgApply hs
  case tld | tst => exact .opTransfer hs
  case tileTransferDone => exact .execTileTransferDone hs
  case tzero => exact MemOk.issue hs (fun _ hs => .ite trivial (.ite hs (.unitBody hs (.ite hs (.startEngine hs)))))
  case tmov => exact MemOk.issue hs (fun _ hs => .ite trivial (.ite hs (.unitBody hs (.ite hs (.ite hs (.startEngine hs))))))
  case mwld => exact .execMwld hs
  case mwldValidate => exact .execMwldValidate hs
  case weightShift => exact .execWeightShift hs
  case weightActivate => exact .execWeightActivate hs
  case mma => exact .execMma hs
  case mmaq => exact .execMmaq hs
  case passStart => exact .execPassStart hs
  case accResultAdd => exact .execAccResultAdd hs
  case manch | mord => exact MemOk.issue hs (fun _ hs => .ite hs (.unitBody hs (MemOk.changeModes.2 hs)))
  case slotClear => exact .execSlotClear hs
  case mdrain => exact .execMdrain hs
  case drainStart => exact .execDrainStart hs
  case drainRow => exact .execDrainRow hs
  case drainComplete => exact .execDrainComplete hs
  case msave | mrestore => exact .opImage hs
  case saveRestoreRun => exact .execSaveRestoreRun hs
  case actTableStore => exact .execActTableStore hs
  case drainSeedWrite | accCeClr | accNfClr => exact MemOk.modAcc.2 hs
  case ssub => exact .execSsub hs
  case swait | cpwait => exact MemOk.issue hs (fun _ hs => .ite hs (.unitBody hs (.ite (MemOk.setG.2 hs) (MemOk.park.2 hs))))
  case streamDescStart => exact MemOk.finding _ (fun _ hs => .streamStart hs) hs
  case streamDescComplete => exact .execStreamDescComplete hs
  case yinc | ydec | yset | ysetCfg | yarrive => exact .syncOp hs
  case ywait | ywaitPoll => exact .ywaitOp hs
  case waiterRelease => exact .execWaiterRelease hs
  case remoteSyncAck => exact .execRemoteSyncAck hs
  case spillFetch => exact MemOk.ite (.objFetch hs) hs
  case cpy => exact .execCpy hs
  case copyStart => exact .execCopyStart hs
  case copyRow => exact .execCopyRow hs
  case copyComplete => exact .execCopyComplete hs
  case pstream => exact .execPstream hs
  case pstreamFill => exact .execPstreamFill hs
  case fenceL1 => exact MemOk.issue hs (fun _ hs => .ite trivial (MemOk.modCore.2 hs))
  case fenceTask => exact MemOk.issue hs (fun _ hs => .unitBody hs (.ite (MemOk.modCore.2 hs) (MemOk.park.2 hs)))
  case llcAccess => exact .execLlcAccess hs
  case reductionRequest => exact .ite trivial (MemOk.finding _ (fun _ hs => .reduceAt hs) hs)
  case lockedFillResume => exact .execLockedFillResume hs
  case hbmIssue => exact .execHbmIssue hs
  case hbmRefresh | refreshRateRestore => exact MemOk.ite (.setStack.2 hs) hs
  case refreshDouble => exact MemOk.ite hs (.raise.2 (.setStack.2 hs))
  case patrolScrub => exact .execPatrolScrub hs
  case softRepair => exact MemOk.ite hs (.raise.2 (.raise.2 (.setStack.2 hs)))
  case pageIn => exact .execPageIn hs
  case pageOut => exact .execPageOut hs
  case qsubSubmit => exact MemOk.ite (.qsub hs) hs
  case updHeadStart => exact MemOk.finding _ (fun _ hs => .updStart hs) hs
  case updStatsPass | updApplyPass => exact MemOk.finding _ (fun _ hs => .updPass hs) hs
  case updDescComplete => exact .execUpdDescComplete hs
  case ruleCommit => exact MemOk.ruleCommit.2 hs
  case schedCommit => exact .execSchedCommit hs
  case countWrite => exact MemOk.countWrite hs
  case recalc => exact MemOk.schedEta hs
  case lossStore => exact MemOk.lossStore hs
  case decideStore => exact MemOk.decideStore hs
  case lmonReset => exact MemOk.lossReset.2 hs
  case ringSubmit => exact .execRingSubmit hs
  case ringStep => exact MemOk.finding _ (fun _ hs => .ringStep hs) hs
  case ringCreditSend => exact MemOk.ringCreditSend hs
  case flitSend => exact .execFlitSend hs
  case flitReceive => exact .execFlitReceive hs
  case replay => exact MemOk.ite hs (.raise.2 (.countDie _ _ _ _ (.setPort.2 hs)))
  case retrain => exact .execRetrain hs
  case laneBerWindow => exact MemOk.ite hs (.foldl (fun _ _ hs => .raise.2 hs) _ (.setPort.2 hs))
  case laneMaskChange => exact .execLaneMaskChange hs
  case laserFail => exact .execLaserFail hs
  case laserTakeover => exact .execLaserTakeover hs
  case laneAdd => exact MemOk.ite hs (.ite (.ite hs (.setMask (.setPort.2 hs))) (.ite hs (.rxMaskAsked hs)))
  case pctlRequest => exact MemOk.pctlRequest hs
  case portPowerUp => exact .execPortPowerUp hs
  case portPowerDown => exact MemOk.ite (.portOff hs) hs
  case portQuietTimeout => exact MemOk.ite (.portOff (.portDown hs)) hs
  case packetForward => exact .execPacketForward hs
  case rdreq => exact MemOk.finding _ (fun _ hs => .onPacket hs (fun _ _ hs => .rdreq hs)) hs
  case rddata | ack => exact MemOk.onPacket hs (fun _ _ hs => .reply hs)
  case write | reduce => exact MemOk.finding _ (fun _ hs => .onPacket hs (fun _ _ hs => .land hs)) hs
  case close => exact MemOk.onPacket hs (fun _ _ hs => .ite (.ackTo hs) (.takeClose (.setChan.2 hs)))
  case sync => exact .execSync hs
  case ring => exact MemOk.finding _ (fun _ hs => .onPacket hs (fun _ _ hs => .ringLand hs)) hs
  case mgmt => exact MemOk.onPacket hs (fun _ _ hs => .ite (.update hs) (.ackTo hs))
  case idClaimReceive => exact .execIdClaimReceive hs
  case replyTimeout => exact MemOk.reply hs
  case routeEpochCommit => exact MemOk.routeCommit hs
  case routeEpochRetire => exact .execRouteEpochRetire hs
  case mbxDoorbell => exact MemOk.doorbell hs
  case mgmtTick => exact MemOk.ite (.dueReset hs) (.ite (.tick hs) hs)
  case dmonWindow => exact MemOk.ite (.setDmon.2 hs) (.setDmon.2 hs)
  case dmonClear => exact MemOk.dmonClear hs
  case podParkQuiesce | podHotClamp => exact MemOk.ite (.setPod.2 hs) hs
  case parkAbandon => exact MemOk.ite (.answerParks (.podLatched (.noteAbandoned (.raise.2 (.setPod.2 hs))))) hs
  case podUnparkSlew => exact MemOk.finding _ (fun _ hs => .ite (.podPortsGo (.setPod.2 hs)) hs) hs
  case configEpochCommit => exact MemOk.epochCommit hs
  case epochUnitFlip => exact .execEpochUnitFlip hs
  case referenceLoss => exact .execReferenceLoss hs
  case pllLockLoss => exact .execPllLockLoss hs
  case thermalTrip => exact .execThermalTrip hs
  case watchdogExpiry | lockstepMismatch => exact MemOk.luamiFails hs
  case domainRevocation => exact MemOk.ite (.revokeEnd hs) (.ite (.revokeBegin hs) hs)
  case sweepStart => exact MemOk.ite hs (.sweepHulls hs)
  case occurrenceApply => exact .execOccurrenceApply hs
  case aosNorCopy => exact MemOk.ite hs (.modEvr.2 hs)
  case evrClrGo => exact MemOk.evrClrGo hs
  case pmcWrap => exact MemOk.pmcWrap hs
  case pmcCaptureTc => exact .execPmcCaptureTc hs
  case bwWindowEnd => exact MemOk.bwWindowEnd hs
  case identity | timeCorrelate | moduleStatus | epochStatus | bootStatus => exact MemOk.serve hs (fun _ _ hs => .respond hs)
  case regRead => exact MemOk.serve hs (fun _ _ hs => .ite (.respond hs) (.ite (.respond hs) (.ite hs (.respond hs))))
  case alertAck => exact MemOk.serve hs (fun _ _ hs => .respondOk (.alertAck hs))
  case moduleReset | domainCreate | quotaSet => exact MemOk.serve hs (fun _ _ hs => .acceptTick.2 hs)
  case sensorRead => exact MemOk.serve hs (fun _ _ hs => .ite (.respond hs) (.ite (.respond hs) (.respond hs)))
  case domainStart => exact .execDomainStart hs
  case domainRevoke => exact .execDomainRevoke hs
  case pageMap => exact .execPageMap hs
  case pageUnmap => exact .execPageUnmap hs
  case funcBind =>
    exact MemOk.serve hs (fun _ _ hs => .ite (.respond hs) (.ite (.respond hs) (.ite (.respond hs) (.respondOk (.setFunc.2 hs)))))
  case bar2Window =>
    exact MemOk.serve hs (fun _ _ hs => .ite (.respondOk (.setFunc.2 hs)) (.ite (.respond hs) (.respondOk (.setFunc.2 hs))))
  case hostWindow | vectorSet => exact MemOk.serve hs (fun _ _ hs => .ite (.respond hs) (.ite (.respond hs) (.respondOk (.modDom.2 hs))))
  case irqBind => exact .execIrqBind hs
  case faultPolicy => exact MemOk.serve hs (fun _ _ hs => .ite (.respond hs) (.respondOk (.modDom.2 hs)))
  case hullLend => exact .execHullLend hs
  case rightGrant => exact .execRightGrant hs
  case syncGrant => exact .execSyncGrant hs
  case updqBind => exact .execUpdqBind hs
  case updqUnbind =>
    exact MemOk.serve hs (fun _ _ hs => .ite (.respond hs) (.ite (.respond hs) (.ite (.respond hs) (.respondOk (.updUnbind hs)))))
  case pinLimit => exact MemOk.serve hs (fun _ _ hs => .ite (.respond hs) (.ite (.respond hs) (.acceptStaged.2 hs)))
  case mbxGrant => exact .execMbxGrant hs
  case peerPair => exact .execPeerPair hs
  case chanConfig => exact .execChanConfig hs
  case chanUnconfig => exact .execChanUnconfig hs
  case podVoltage | powerCap | podPark => exact MemOk.serve hs (fun _ _ hs => .ite (.respond hs) (.acceptTick.2 hs))
  case routeWrite => exact .execRouteWrite hs
  case routeCommit =>
    exact MemOk.serve hs (fun _ _ hs => .ite (.respond hs) (.ite hs (.holdCmd.2 (.foldl (fun _ _ hs => .routeCommit hs) _ hs))))
  case portPower => exact .execPortPower hs
  case conflictClear => exact .execConflictClear hs
  case evrRead => exact .execEvrRead hs
  case evrClear => exact .execEvrClear hs
  case evrNotes => exact MemOk.serve hs (fun _ _ hs => .ite (.respond hs) (.respond (.modEvr.2 hs)))
  case evrConfig =>
    exact MemOk.serve hs (fun _ _ hs => .ite (.respond hs) (.ite (.respond hs) (.ite (.respond hs) (.respondOk (.modEvr.2 hs)))))
  case pmcCapture => exact .execPmcCapture hs
  case pmcTrigset =>
    exact MemOk.serve hs (fun _ _ hs => .ite (.respond hs) (.ite (.respond hs) (.ite (.respond hs) (.respondOk (.update hs)))))
  case bwWindow => exact MemOk.serve hs (fun _ _ hs => .ite (.respond hs) (.acceptStaged.2 hs))
  case evrAos => exact MemOk.serve hs (fun _ _ hs => .ite (.respond hs) (.ite (.respond hs) (.respond (.ite (.modEvr.2 hs) hs))))
  case grnInfo | grnHealth | grnList => exact MemOk.grnServe hs (fun _ _ hs => .respond hs)
  case grnKeyCreate => exact .execGrnKeyCreate hs
  case grnKeyBind => exact MemOk.grnServe hs (fun _ _ hs => .ite (.respond hs) (.ite (.respond hs) (.respondOk (.modGrn.2 hs))))
  case grnKeyErase => exact MemOk.grnServe hs (fun _ _ hs => .ite (.respond hs) (.ite (.respond hs) (.respond (.keyErase hs))))
  case grnCreate => exact .execGrnCreate hs
  case grnGrant => exact .execGrnGrant hs
  case grnRead | grnWrite => exact MemOk.grnServe hs (fun _ _ hs => .grnAccept hs)
  case grnTransfer => exact .execGrnTransfer hs
  case grnTransferDone => exact .execGrnTransferDone hs
  case grnCommit => exact .execGrnCommit hs
  case grnDelete => exact .execGrnDelete hs
  case grnObjstat => exact .execGrnObjstat hs
  case grnBlockRefresh => exact .execGrnBlockRefresh hs
  case dieReset | podReset => exact MemOk.serve hs (fun _ _ hs => .ite (.respond hs) (.acceptReset.2 hs))
  case runtimeLoad => exact .execRuntimeLoad hs
  case fwStage => exact .execFwStage hs
  case fwActivate => exact .execFwActivate hs
  case lcChallenge => exact .execLcChallenge hs
  case lcToken | lcProvision => exact MemOk.serve hs (fun _ _ hs => .ite (.respond hs) (.ite (.respond hs) (.respondOk (.modLc.2 hs))))
  case lcTransition => exact .execLcTransition hs
  case bar2Access => exact MemOk.finding _ (fun _ hs => .bar2 hs) hs
  case bar0HoleAccess => exact .execBar0HoleAccess hs
  case functionLevelReset => exact MemOk.flr.2 hs
  case perstNAssert | modRstNAssert => exact MemOk.ite (.modBoot.2 hs) (.modBoot.2 .moduleReset)
  case boot => exact .execBoot hs
  case trialTimeout => exact MemOk.ite .moduleReset hs
  case recoveryImage => exact MemOk.ite hs .moduleReset
  case coldPowerOn => exact MemOk.ite hs (.modMgmt.2 (.modBoot.2 (.modEvr.2 .moduleReset)))
  case powerLoss => exact .execPowerLoss hs
  case inputLockout => exact .execInputLockout hs
  case inputSwitchOpen | inputSwitchClose | trstNAssert => exact MemOk.modMgmt.2 hs
  case getVersion => exact MemOk.sideServe hs (fun _ hs => .setSpdm.2 hs)
  case getCapabilities | negotiateAlgorithms => exact MemOk.spdmServe hs (fun _ hs => .setSpdm.2 hs)
  case getDigests | getCertificate => exact MemOk.spdmServe hs (fun _ hs => hs)
  case challenge => exact .execChallenge hs
  case getMeasurements => exact .execGetMeasurements hs
  case pldmMonitorRequest => exact MemOk.ite (.sideServe hs (fun _ hs => hs)) hs
  case pldmFirmwareUpdate => exact MemOk.ite (.sideServe hs (fun _ hs => .pldmStep hs)) hs
  case entdaa => exact .execEntdaa hs
  case extest | idcode | samplePreload | highz | clamp | extestPulse | extestTrain | debugAccess | bypass => exact MemOk.tapLoad hs
  case tileCeClr | strCeClr | strNfClr | ixcntClr | speccCeClr | l1EccClr => exact MemOk.modCore.2 hs
  case llcCeClr | llcStatClr => exact MemOk.setSlice.2 hs
  case qfullClr | mcCeClr => exact MemOk.setStack.2 hs
  case puuNfClr => exact MemOk.setUpdUnit.2 hs
  case synStatClr => exact MemOk.update hs
  case plkErrClr | feccClr => exact MemOk.modPort.2 hs
  case bstatClr => exact MemOk.setSwitch.2 hs
  case grnErrClr => exact MemOk.modGrn.2 hs
  case bwstatClr => exact MemOk.bwClear.2 hs
  case regWrite => exact .execRegWrite hs
  case wavelengthLockLoss => exact MemOk.ite (.rxMaskAsked hs) hs
  case scratchpadLoadReturn => exact .execScratchpadLoadReturn hs
  case pcieCompletionTimeout => exact .execPcieCompletionTimeout hs
  case vinReaches40v => exact .execVinReaches40v hs
  case tripSensorClear => exact MemOk.ite hs (.bootFrom4 (.alertGone hs))
  case mctpControlMessage => exact .execMctpControlMessage hs

theorem OutOk.step {s : State} (hs : MemOk s) : OutOk (step s) := by
  unfold Machine.step
  split
  · exact MemOk.idleTick hs
  · exact .exec (.update hs)

/-- Settles O60: a step is the idle tick or a command, and each of them keeps both views of memory in canonical form. -/
theorem everyStepKeepsMemoryCanonical : Obligations.EveryStepKeepsMemoryCanonical := by
  intro s t hstep hmem hhbm
  have ht : OutOk (step s) := .step ⟨hmem, hhbm⟩
  rw [hstep] at ht
  exact ht

end Sys2Proof.Machine
end
